-- ==== Sys2Proof/Word.lean ====
section
/-! DEFINITION. The words of the JT-440: trunk bytes, management words, stamps (00_scope.md, Conventions). -/

namespace Sys2Proof

/-- A byte of the trunk or of a branch. -/
abbrev Byte := BitVec 8

/-- A word of the management space (chapter 10). -/
abbrev Word := BitVec 32

/-- A time in ticks of the stamp counter (R128). -/
abbrev Stamp := BitVec 32

end Sys2Proof
end

