-- ==== Sys2Proof/Syntax.lean ====
section
/-! DEFINITION. The commands: one constructor for each row of spec/opcode_table.json. Each is one whole step of the
part (95_what_each_step_holds.md). The table gives no operands; those below name the branch, place or line a step is
about and what the step brings from outside. -/

namespace Sys2Proof

/-- Who made a START or a STOP that is seen on a branch (R89): the branch's own engine, or another party. -/
inductive Party where
  | self
  | other
  deriving DecidableEq, Repr

/-- The straps as sampled at a cold reset (R179): ID2 to ID0, OVC and QSTART (high is true). -/
structure Straps where
  id : BitVec 3
  ovc : Bool
  qstart : Bool
  deriving DecidableEq, Repr

/-- The commands of the part. -/
inductive Instr where
  /-- FRAME_ARRIVAL (R19): the bytes received up to and with a frame's second CHECK byte. -/
  | frameArrival (bytes : List Byte)
  /-- BAD_KIND (R28). -/
  | badKind
  /-- READ (R34). -/
  | read
  /-- WRITE (R35). -/
  | write
  /-- WRITE_CONFIRMED (R35). -/
  | writeConfirmed
  /-- TIMED_WRITE (R36). -/
  | timedWrite
  /-- TIMED_LATCH (R37). -/
  | timedLatch
  /-- CANCEL (R38). -/
  | cancel
  /-- MGMT_READ (R166). -/
  | mgmtRead
  /-- BRANCH_STATUS_READ (R112): a MGMT READ whose range holds a branch status word. -/
  | branchStatusRead
  /-- MGMT_REGISTER_WRITE (R167). -/
  | mgmtRegisterWrite
  /-- STATE_WRITE_ACTIVE (R175). -/
  | stateWriteActive
  /-- STATE_WRITE_QUIET (R175). -/
  | stateWriteQuiet
  /-- STATE_WRITE_OFFLINE (R178). -/
  | stateWriteOffline
  /-- RESET_COMMAND_BRIDGE (R180). -/
  | resetCommandBridge
  /-- BRANCH_RESET (R108). -/
  | branchReset
  /-- BRANCH_ENABLE (R106). -/
  | branchEnable
  /-- BRANCH_DISABLE (R107). -/
  | branchDisable
  /-- COMMIT_LIMIT_WRITE (R50). -/
  | commitLimitWrite
  /-- STAMP_WRITE (R129). -/
  | stampWrite
  /-- TICK_SHIFT_WRITE (R128). -/
  | tickShiftWrite
  /-- EVENT_FLAGS_CLEAR (R171). -/
  | eventFlagsClear
  /-- NOTICE_MASK_WRITE (R172). -/
  | noticeMaskWrite
  /-- NOTICE_ARM_WRITE (R172). -/
  | noticeArmWrite
  /-- FAULT_RECORD_CLEAR (R174). -/
  | faultRecordClear
  /-- GROUP_OPEN (R146). -/
  | groupOpen
  /-- GROUP_CLOSE (R147). -/
  | groupClose
  /-- GROUP_ABORT (R148). -/
  | groupAbort
  /-- ATTENTION_ENTRY_WRITE (R157). -/
  | attentionEntryWrite
  /-- TABLE_INSERT (R10). -/
  | tableInsert
  /-- TABLE_REPLACE (R11). -/
  | tableReplace
  /-- TABLE_REMOVE (R12). -/
  | tableRemove
  /-- TABLE_LOOKUP (R13). -/
  | tableLookup
  /-- TABLE_NEXT (R14). -/
  | tableNext
  /-- TABLE_CLEAR (R15). -/
  | tableClear
  /-- TABLE_UNKNOWN_COMMAND (R9). -/
  | tableUnknownCommand
  /-- ENGINE_TAKE_OPERATION (R90) on branch b. -/
  | engineTakeOperation (b : Fin 4)
  /-- GAP_ELAPSED (R91) on branch b. -/
  | gapElapsed (b : Fin 4)
  /-- BUS_START_SEEN (R89) on branch b, made by `party`. -/
  | busStartSeen (b : Fin 4) (party : Party)
  /-- BUS_STOP_SEEN (R89) on branch b, made by `party`. -/
  | busStopSeen (b : Fin 4) (party : Party)
  /-- ARBITRATION_LOSS (R95) on branch b. -/
  | arbitrationLoss (b : Fin 4)
  /-- ADDRESS_NACK (R97) on branch b. -/
  | addressNack (b : Fin 4)
  /-- DATA_NACK (R98) on branch b. -/
  | dataNack (b : Fin 4)
  /-- READ_BYTE_RECEIVED (R51) on branch b: the byte the device sent. -/
  | readByteReceived (b : Fin 4) (byte : Byte)
  /-- PAUSE_ELAPSED (R97) on branch b. -/
  | pauseElapsed (b : Fin 4)
  /-- CLOCK_STUCK (R99, R100) on branch b: the clock line, released by the engine, has been found low for `held`
  microseconds; 0 says that it is found high (log 19). -/
  | clockStuck (b : Fin 4) (held : Nat)
  /-- BUS_CLEAR_END (R101) on branch b: whether the closing STOP could be made. -/
  | busClearEnd (b : Fin 4) (stopMade : Bool)
  /-- BUSY_LIMIT_EXCEEDED (R102) on branch b. -/
  | busyLimitExceeded (b : Fin 4)
  /-- RUN_END (R104) on branch b: the STOP that ends the run is seen. -/
  | runEnd (b : Fin 4)
  /-- ANSWER_POSTED (R81) from the answer list of branch b. -/
  | answerPosted (b : Fin 4)
  /-- DEADLINE_EXPIRY (R62) of the split entry in a place. -/
  | deadlineExpiry (place : Fin 16)
  /-- FRAME_SEND_BEGIN (R117). -/
  | frameSendBegin
  /-- SEND_END (R124). -/
  | sendEnd
  /-- HOLD_IN_ASSERT (R119). -/
  | holdInAssert
  /-- HOLD_IN_RELEASE (R119). -/
  | holdInRelease
  /-- STAMP_ADVANCE (R128). -/
  | stampAdvance
  /-- RELEASE_TIMED_WRITE (R136). -/
  | releaseTimedWrite
  /-- RELEASE_BRANCH_OFF (R138). -/
  | releaseBranchOff
  /-- RELEASE_TIMED_LATCH (R139). -/
  | releaseTimedLatch
  /-- OFFLINE_ABORT_ANSWER (R142). -/
  | offlineAbortAnswer
  /-- PULSE_END (R154) on a latch line. -/
  | pulseEnd (line : Fin 4)
  /-- ATTENTION_TRIGGER (R158): a falling edge on the attention input of branch b. -/
  | attentionTrigger (b : Fin 4)
  /-- ATTENTION_LINE_RISE (R158): the attention input of branch b is found high. -/
  | attentionLineRise (b : Fin 4)
  /-- HOLDOFF_END (R162) of the attention entry of branch b. -/
  | holdoffEnd (b : Fin 4)
  /-- WAKE_TIME_END (R177). -/
  | wakeTimeEnd
  /-- COLD_RESET (R179), with the straps as sampled. -/
  | coldReset (straps : Straps)
  /-- SYNC_RECEIVED (R19): a byte 0xA5 is received. -/
  | syncReceived
  /-- BYTE_ACK (R92) on branch b. -/
  | byteAck (b : Fin 4)
  deriving DecidableEq, Repr

end Sys2Proof
end

