-- ==== Sys2Proof/Decode.lean ====
section
/-! DEFINITION. The command that a word of bits spells. No row of spec/opcode_table.json gives bits (its "fields" are
all empty), so no word spells a command: a command is an event, not a code. -/

namespace Sys2Proof

/-- The command that the bits w of an nbits-wide row spell: none, since no row has bits (98_reader.md, n_rows_with_fixed 0
and n_rows_with_fields 0). -/
def decodeTableWord (_nbits _w : Nat) : Option Instr := none

end Sys2Proof
end

