-- ==== Sys2Proof/Config.lean ====
section
/-! DEFINITION. What the part fixes once and for all (R169 and the chapters' capacities), and the one free value. -/

namespace Sys2Proof.Config

/-- Places of the intake buffer (R21). -/
def intakePlaces : Nat := 2
/-- Entries of the Route Table (R2). -/
def routeEntries : Nat := 64
/-- Operations of one Issue Queue (R70). -/
def issueDepth : Nat := 16
/-- Records of the Response Queue (R113). -/
def responseRecords : Nat := 16
/-- Records up to which Trunk Intake may place one (R33). -/
def intakeRecords : Nat := 12
/-- Entries of the Release Queue (R133). -/
def releaseEntries : Nat := 32
/-- Bytes of the completion buffer (R52). -/
def bufferBytes : Nat := 512
/-- The high-water mark of the completion buffer (R57). -/
def highWater : Nat := 448
/-- Data bytes of one COMPLETION or ATTENTION REPORT frame (R57, R58). -/
def frameBytes : Nat := 128
/-- Bytes of one budget unit (R45). -/
def unitBytes : Nat := 8
/-- The limit from which the Split Unit is in whole mode (R46). -/
def wholeModeLimit : Nat := 128
/-- The size of a piece in cutting mode (R46). -/
def cutBytes : Nat := 64
/-- Members of one strobe group (R149). -/
def groupMembers : Nat := 32
/-- The wake time in microseconds (R177). -/
def wakeMicros : Nat := 200

/-- FREE VALUE (log 5). Which of several steps that the spec says may come in either order is taken first:
the n-th such choice of a run. It has no body, so that nothing can be proved about its value. -/
opaque choice : Nat → Nat

end Sys2Proof.Config
end

