-- ==== Sys2Proof/Machine/State.lean ====
section
/-! DEFINITION. The state of the JT-440 as plain data, its faults and refusals, and the state after a cold reset. -/

namespace Sys2Proof.Machine

/-- What a fault could be: nothing. The spec stops the part nowhere (NOTES.md, Stops), so no meaning raises one. -/
inductive Fault where
  deriving DecidableEq, Repr

/-- Why a command is refused. -/
inductive Refusal where
  /-- Raised by `exec` alone for a command that has no meaning yet; safe: the run stops, nothing is claimed of it. -/
  | notModelled (mnemonic : String)
  deriving DecidableEq, Repr

/-! ## Names -/

/-- The operating states (R175). -/
inductive OpState where
  | active | quiet | draining | offline | waking
  deriving DecidableEq, Repr

/-- The status codes of chapter 2, section 2.3.4. -/
inductive Status where
  | ok | short
  | badKind | badLength | tagInUse | busy | offline | noRoute | routeRefused | branchOff | badStamp | badGroup
  | nack | dataNack | arbExhausted | stuck | branchReset
  | timeout | cancelled | notFound | tooLate | aborted
  | tableFull | keyExists | keyAbsent | badField | badAddress | groupBusy
  deriving DecidableEq, Repr

/-- The event flags (R171), in the bit positions of the EVENT FLAGS table of chapter 2. -/
inductive EventFlag where
  | intakeOverrun | frameError | splitSlow | splitTimeout | writeFailed | branchStuck | branchBlocked
  | releaseSlip | groupFailed | attnNoRoute | woke
  deriving DecidableEq, Repr

/-- ACCESS of a route entry (R1). -/
inductive Access where
  | ro | wo | rw
  deriving DecidableEq, Repr

/-- TIMEOUT POLICY of a route entry (R1). -/
inductive TimeoutPolicy where
  | abandon | extend
  deriving DecidableEq, Repr

/-- A requester and tag pair, the REQTAG of a frame (R27). -/
structure ReqTag where
  requester : BitVec 3
  tag : BitVec 5
  deriving DecidableEq, Repr

/-! ## Route Table (chapter 1) -/

/-- TARGET or ALIAS: every entry has exactly one of the two (R1). -/
inductive RouteDevice where
  | target (branch : Fin 4) (busAddress : BitVec 7) (width : Fin 3)
  | aliasOf (ldn : Byte)
  deriving DecidableEq, Repr

/-- A route entry (R1). -/
structure RouteEntry where
  ldn : Byte
  device : RouteDevice
  access : Access
  owner : Option (BitVec 3)
  persist : Bool
  timeoutClass : Fin 4
  timeoutPolicy : TimeoutPolicy
  retryLimit : Fin 16
  deriving DecidableEq, Repr

/-- A route snapshot (R8). -/
structure Route where
  ldn : Byte
  branch : Fin 4
  busAddress : BitVec 7
  width : Fin 3
  persist : Bool
  timeoutClass : Fin 4
  timeoutPolicy : TimeoutPolicy
  retryLimit : Fin 16
  deriving DecidableEq, Repr

/-! ## Trunk Intake (chapter 2) -/

/-- A frame that has passed CHECK (R21); BODYLEN is the length of the body. -/
structure Frame where
  kind : Byte
  reqtag : Byte
  body : List Byte
  deriving DecidableEq, Repr

/-- The receiver (R19): hunting, or gathering with the bytes received after SYNC. -/
inductive Receiver where
  | hunting
  | gathering (received : List Byte)
  deriving DecidableEq, Repr

/-! ## Split Unit (chapter 3) -/

/-- OWNER of a split entry (R43). -/
inductive SplitOwner where
  | trunk (rt : ReqTag)
  | attn (branch : Fin 4)
  deriving DecidableEq, Repr

/-- State of a piece (R45). -/
inductive PieceState where
  | queued | active | held
  deriving DecidableEq, Repr

/-- A piece (R45); OFFSET is a subaddress. -/
structure Piece where
  offset : Nat
  length : Nat
  state : PieceState
  deriving DecidableEq, Repr

/-- STATE of a split entry (R43). -/
inductive EntryState where
  | gathering | delivering | closing | abandoned
  deriving DecidableEq, Repr

/-- A split entry (R43). `held` are its bytes in the completion buffer (R44), `finalSent` that its FINAL frame has been
sent (R65). -/
structure SplitEntry where
  owner : SplitOwner
  route : Route
  start : Nat
  length : Nat
  issued : Nat
  received : Nat
  sent : Nat
  pieces : List Piece
  deadline : Stamp
  extended : Bool
  state : EntryState
  finalStatus : Option Status
  finalSent : Bool
  held : List Byte
  deriving DecidableEq, Repr

/-! ## Issue Queues (chapter 4) and Branch Engines (chapter 5) -/

/-- KIND of an operation with OWNER and the fields of that kind (R71). A group is its number less one. -/
inductive OpBody where
  | readPiece (place : Fin 16) (length : Nat) (first : Bool)
  | posted (data : List Byte)
  | confirmed (owner : ReqTag) (data : List Byte)
  | timed (owner : ReqTag) (data : List Byte) (member : Option (Fin 7 × Byte))
  deriving DecidableEq, Repr

/-- An operation (R71). -/
structure Operation where
  body : OpBody
  ldn : Byte
  busAddress : BitVec 7
  width : Fin 3
  offset : Nat
  retryLimit : Fin 16
  persist : Bool
  deriving DecidableEq, Repr

/-- KIND of a Response Queue record with the fields of that kind (R113). -/
inductive RecordBody where
  | completion (offset : Nat)
  | mgmt (failWord : Nat) (data : List Byte) (resetFollows : Bool)
  deriving DecidableEq, Repr

/-- A record of the Response Queue or of an answer list (R113, R80). -/
structure Record where
  rt : ReqTag
  status : Status
  body : RecordBody
  deriving DecidableEq, Repr

/-- What an engine does on its branch: the states of R87 but RESETTING, which covers them (log 16). -/
inductive Phase where
  | disabled | idle | gap | busyOther | start | address | subaddress | writeData | restart | readData | stall
  | stop | pause | posting | clearing
  deriving DecidableEq, Repr

/-- The sixteen states of a Branch Engine (R87). -/
inductive EngineState where
  | disabled | idle | gap | busyOther | start | address | subaddress | writeData | restart | readData | stall
  | stop | pause | posting | clearing | resetting
  deriving DecidableEq, Repr

/-- LAST CAUSE (R87). -/
inductive LastCause where
  | absent | addressNack | arbitration
  deriving DecidableEq, Repr

/-- The bus watch (R89). -/
inductive Bus where
  | free | busySelf | busyOther
  deriving DecidableEq, Repr

/-- RATE (R105). -/
inductive Rate where
  | khz50 | khz100 | khz400 | khz1000
  deriving DecidableEq, Repr

/-- Why an engine was told to end its run (R103). -/
inductive EndCause where
  | unwanted | branchReset | aborted
  deriving DecidableEq, Repr

/-- What the STOP being made closes: the whole transaction, an attempt that met address NACK (R97), or one that met data
NACK (R98). -/
inductive StopReason where
  | done | addressNack | dataNack
  deriving DecidableEq, Repr

/-- How far the attempt has come (R92 to R94): the direction of the next address byte is read; a write's address byte is
acknowledged; subaddress bytes acknowledged; data bytes acknowledged or received; a place is reserved in the completion
buffer for the byte being received. -/
structure Progress where
  readDirection : Bool
  addressAcked : Bool
  subaddressDone : Nat
  dataDone : Nat
  reserved : Bool
  deriving DecidableEq, Repr

/-- A branch: its Issue Queue (R70), its answer list (R80), its engine (R87, R89, R91, R97, R99, R102, R112) and its
configuration (R105). Timers count microseconds (log 21). -/
structure Branch where
  queue : List Operation
  answers : List Record
  phase : Phase
  resetting : Bool
  op : Option Operation
  retryCount : Nat
  lastCause : LastCause
  progress : Progress
  stopReason : StopReason
  told : Option EndCause
  gapTimer : Nat
  pauseTimer : Nat
  pauseLength : Nat
  stretchCounter : Nat
  busyTimer : Nat
  busyFlagged : Bool
  bus : Bus
  rateInUse : Rate
  cutShort : Bool
  enabled : Bool
  rate : Rate
  gap : Byte
  retryPause : Byte
  stretchLimit : Byte
  busyLimit : Byte
  deriving DecidableEq, Repr

/-! ## Trunk Transmitter (chapter 6) -/

/-- The source of the frame in flight (R116). -/
inductive SendSource where
  | record (resetFollows : Bool)
  | notice
  | split (place : Fin 16)
  deriving DecidableEq, Repr

/-- The frame in flight with IN FLIGHT DETAIL (R116) and its bytes as fixed when the send began (R120). -/
structure InFlight where
  source : SendSource
  dataCount : Nat
  final : Bool
  bytes : List Byte
  deriving DecidableEq, Repr

/-! ## Release Unit (chapter 7), Group Unit (chapter 8) -/

/-- ACTION on latch lines (R153). -/
inductive LatchAction where
  | set | clear | toggle | pulse
  deriving DecidableEq, Repr

/-- KIND of a Release Queue entry with the fields of that kind (R133). -/
inductive ReleaseBody where
  | timedWrite (member : Option (Fin 7 × Byte)) (route : Route) (offset : Nat) (data : List Byte)
  | timedLatch (lines : BitVec 4) (action : LatchAction) (pulseWidth : BitVec 16)
  deriving DecidableEq, Repr

/-- A Release Queue entry (R133). `overdue` says that it has waited more than 2^31 - 1 ticks since it was due (R134;
log 39). -/
structure ReleaseEntry where
  rt : ReqTag
  stamp : Stamp
  due : Bool
  overdue : Bool
  waiting : Bool
  body : ReleaseBody
  deriving DecidableEq, Repr

/-- STATE of a group (R144). -/
inductive GroupState where
  | idle | collecting | armed
  deriving DecidableEq, Repr

/-- POLICY of a group (R144). -/
inductive GroupPolicy where
  | hold | fireAnyway
  deriving DecidableEq, Repr

/-- A strobe group record (R144). -/
structure Group where
  state : GroupState
  generation : Byte
  members : Nat
  done : Nat
  failed : Nat
  lines : BitVec 4
  action : LatchAction
  pulseWidth : BitVec 16
  policy : GroupPolicy
  deriving DecidableEq, Repr

/-- A running pulse (R154): its level, high is true, its width and its timer in microseconds. -/
structure Pulse where
  level : Bool
  width : Nat
  timer : Nat
  deriving DecidableEq, Repr

/-- A latch line (R153); RESTING high is true. -/
structure Line where
  resting : Bool
  pulse : Option Pulse
  deriving DecidableEq, Repr

/-! ## Attention Unit (chapter 9) -/

/-- MODE of an attention entry (R157). -/
inductive AttnMode where
  | edge | level
  deriving DecidableEq, Repr

/-- STATUS of an attention entry (R157). -/
inductive AttnStatus where
  | idle | polling | holdoff
  deriving DecidableEq, Repr

/-- An attention entry (R157) with its holdoff timer and the holdoff it runs for in microseconds (R162), and the level of
its input as last found, high is true (R165). -/
structure Attn where
  enabled : Bool
  mode : AttnMode
  wake : Bool
  ldn : Byte
  offset : BitVec 16
  length : Nat
  holdoff : Byte
  status : AttnStatus
  pending : Bool
  levelSpent : Bool
  holdoffTimer : Nat
  holdoffLength : Nat
  line : Bool
  deriving DecidableEq, Repr

/-! ## Management Unit (chapter 10) -/

/-- An occupied fault record (R77). -/
structure FaultRecord where
  branch : Fin 4
  busAddress : BitVec 7
  ldn : Byte
  offset : Nat
  status : Status
  more : Bool
  deriving DecidableEq, Repr

/-! ## The whole part -/

/-- The state of the part. `pending` is the queue of commands that wait, first in, first out; `freeCount` counts the free
choices taken (log 5); both are the model's own. -/
structure State where
  pending : List Instr
  freeCount : Nat
  /-- Trunk Intake. -/
  rx : Receiver
  intake : List Frame
  intakeStopped : Bool
  bridgeNumber : BitVec 3
  /-- Pins and straps. -/
  holdIn : Bool
  straps : Straps
  /-- Route Table. -/
  routes : List RouteEntry
  /-- Split Unit. -/
  split : Vector (Option SplitEntry) 16
  ageOrder : List (Fin 16)
  commitLimit : Nat
  timeoutClasses : Vector (BitVec 24) 4
  /-- Issue Queues and Branch Engines. -/
  branches : Vector Branch 4
  /-- Trunk Transmitter. -/
  responseQueue : List Record
  sending : Option InFlight
  lastServed : Fin 16
  /-- Release Unit. -/
  stamp : Stamp
  tickTimer : Nat
  tickLength : Nat
  tickShift : Fin 8
  lateWindow : BitVec 16
  releaseQueue : List ReleaseEntry
  /-- Group Unit. -/
  groups : Vector Group 7
  lines : Vector Line 4
  /-- Attention Unit. -/
  attns : Vector Attn 4
  /-- Management Unit. -/
  flags : BitVec 11
  noticeMask : BitVec 11
  noticeArm : Bool
  noticePending : Bool
  fault : Option FaultRecord
  opState : OpState
  wakeTimer : Nat
  deriving DecidableEq, Repr

/-! ## Reset values -/

/-- No attempt in progress. -/
def Progress.none : Progress :=
  { readDirection := false, addressAcked := false, subaddressDone := 0, dataDone := 0, reserved := false }

/-- A branch after a cold or bridge reset (R86, R88, R105). The bus watch shows the bus free with the gap passed: the gap
timer stands at 255, the largest GAP (log 21). -/
def Branch.reset : Branch where
  queue := []
  answers := []
  phase := .disabled
  resetting := false
  op := none
  retryCount := 0
  lastCause := .absent
  progress := Progress.none
  stopReason := .done
  told := none
  gapTimer := 255
  pauseTimer := 0
  pauseLength := 0
  stretchCounter := 0
  busyTimer := 0
  busyFlagged := false
  bus := .free
  rateInUse := .khz100
  cutShort := false
  enabled := false
  rate := .khz100
  gap := 5
  retryPause := 10
  stretchLimit := 25
  busyLimit := 0

/-- A group after a cold or bridge reset (R144). -/
def Group.reset : Group where
  state := .idle
  generation := 0
  members := 0
  done := 0
  failed := 0
  lines := 0
  action := .set
  pulseWidth := 100
  policy := .hold

/-- A latch line after a cold or bridge reset (R153). -/
def Line.reset : Line := { resting := false, pulse := none }

/-- An attention entry after a cold or bridge reset (R157), with its input at a level. -/
def Attn.reset (line : Bool) : Attn where
  enabled := false
  mode := .edge
  wake := false
  ldn := 0
  offset := 0
  length := 0
  holdoff := 0
  status := .idle
  pending := false
  levelSpent := false
  holdoffTimer := 0
  holdoffLength := 0
  line := line

/-- The commitment limit that strap OVC gives (R50). -/
def resetCommitLimit (straps : Straps) : Nat := if straps.ovc then 256 else 64

/-- A function applied to each of a fixed number of things. -/
def mapAll {α β : Type} {n : Nat} (f : α → β) (v : Vector α n) : Vector β n := Vector.ofFn fun i => f v[i.val]

/-- Every block at its reset values (R179, R180), with the straps as sampled, the operating state to start in, and what no
reset touches: HOLD-IN and the attention inputs as sensed, the commands that wait and the count of free choices. -/
def State.resetTo (straps : Straps) (opState : OpState) (holdIn : Bool) (inputs : Vector Bool 4)
    (pending : List Instr) (freeCount : Nat) : State where
  pending := pending
  freeCount := freeCount
  rx := .hunting
  intake := []
  intakeStopped := false
  bridgeNumber := straps.id
  holdIn := holdIn
  straps := straps
  routes := []
  split := Vector.replicate 16 none
  ageOrder := []
  commitLimit := resetCommitLimit straps
  timeoutClasses := #v[2000, 20000, 200000, 2000000]
  branches := Vector.replicate 4 Branch.reset
  responseQueue := []
  sending := none
  lastServed := 15
  stamp := 0
  tickTimer := 0
  tickLength := 1
  tickShift := 0
  lateWindow := 1000
  releaseQueue := []
  groups := Vector.replicate 7 Group.reset
  lines := Vector.replicate 4 Line.reset
  attns := mapAll Attn.reset inputs
  flags := 0
  noticeMask := 0
  noticeArm := false
  noticePending := false
  fault := none
  opState := opState
  wakeTimer := 0

/-- The machine right after a cold reset with every strap sampled low, HOLD-IN released and the attention inputs high
(log 6): ACTIVE (R175), bridge number 0 (R40), commitment limit 64 (R50), every table and queue empty. -/
def State.reset : State :=
  State.resetTo { id := 0, ovc := false, qstart := false } .active false (Vector.replicate 4 true) [] 0

end Sys2Proof.Machine
end

