-- ==== Sys2Proof/Machine/Bytes.lean ====
section
/-! DEFINITION. Bytes, CHECK and codes: how numbers and names stand in frames and words (chapter 2, section 2.3). -/

namespace Sys2Proof.Machine

/-- Two bytes as a number, high byte first (00_scope.md, Conventions, Byte order). -/
def be16 (hi lo : Byte) : BitVec 16 := hi ++ lo

/-- Four bytes as a number, high byte first. -/
def be32 (a b c d : Byte) : BitVec 32 := (a ++ b) ++ (c ++ d)

/-- The bytes of a 16-bit number, high byte first. -/
def bytes16 (x : BitVec 16) : List Byte := [x.extractLsb' 8 8, x.extractLsb' 0 8]

/-- The bytes of a 32-bit number, high byte first. -/
def bytes32 (x : BitVec 32) : List Byte :=
  [x.extractLsb' 24 8, x.extractLsb' 16 8, x.extractLsb' 8 8, x.extractLsb' 0 8]

/-- The 32-bit words of a list of bytes, each high byte first; bytes short of a word are left out. -/
def wordsOf : List Byte → List Word
  | a :: b :: c :: d :: rest => be32 a b c d :: wordsOf rest
  | _ => []

/-- One bit of the CHECK register: generator x^16+x^12+x^5+1 (R18). -/
def crcShift (reg : BitVec 16) : BitVec 16 :=
  if reg.getLsbD 15 then (reg <<< 1) ^^^ 0x1021 else reg <<< 1

/-- The CHECK register takes one byte, most significant bit first (R18). -/
def crcByte (reg : BitVec 16) (b : Byte) : BitVec 16 :=
  Nat.repeat crcShift 8 (reg ^^^ (b ++ (0 : Byte)))

/-- CHECK over a list of bytes: preset to 0xFFFF, no inversion at the end (R18). -/
def crc (bytes : List Byte) : BitVec 16 := bytes.foldl crcByte 0xFFFF

/-- The requester and tag of a REQTAG byte: bits 7 to 5 and bits 4 to 0 (chapter 2, section 2.1). -/
def ReqTag.ofByte (b : Byte) : ReqTag := { requester := b.extractLsb' 5 3, tag := b.extractLsb' 0 5 }

/-- The REQTAG byte of a requester and tag. -/
def ReqTag.toByte (rt : ReqTag) : Byte := rt.requester ++ rt.tag

/-- The requester and tag of a frame (R27). -/
def Frame.rt (f : Frame) : ReqTag := ReqTag.ofByte f.reqtag

/-- The codes of the status table (chapter 2, section 2.3.4). -/
def Status.code : Status → Byte
  | .ok => 0x00
  | .short => 0x01
  | .badKind => 0x10
  | .badLength => 0x11
  | .tagInUse => 0x12
  | .busy => 0x13
  | .offline => 0x14
  | .noRoute => 0x15
  | .routeRefused => 0x16
  | .branchOff => 0x17
  | .badStamp => 0x18
  | .badGroup => 0x19
  | .nack => 0x20
  | .dataNack => 0x21
  | .arbExhausted => 0x22
  | .stuck => 0x23
  | .branchReset => 0x24
  | .timeout => 0x30
  | .cancelled => 0x31
  | .notFound => 0x32
  | .tooLate => 0x33
  | .aborted => 0x34
  | .tableFull => 0x40
  | .keyExists => 0x41
  | .keyAbsent => 0x42
  | .badField => 0x43
  | .badAddress => 0x44
  | .groupBusy => 0x45

/-- The bit of an event flag (chapter 2, EVENT FLAGS table). -/
def EventFlag.bit : EventFlag → Nat
  | .intakeOverrun => 0
  | .frameError => 1
  | .splitSlow => 2
  | .splitTimeout => 3
  | .writeFailed => 4
  | .branchStuck => 5
  | .branchBlocked => 6
  | .releaseSlip => 7
  | .groupFailed => 8
  | .attnNoRoute => 9
  | .woke => 10

/-- The state code of the STATE word (R168). -/
def OpState.code : OpState → Nat
  | .active => 0
  | .quiet => 1
  | .draining => 2
  | .offline => 3
  | .waking => 4

/-- The ACTION code of a TIMED LATCH (chapter 2) and of a group's second word (R168): the two codings agree. -/
def LatchAction.ofCode : Nat → Option LatchAction
  | 1 => some .set
  | 2 => some .clear
  | 3 => some .toggle
  | 4 => some .pulse
  | _ => none

/-- The code of an ACTION. -/
def LatchAction.code : LatchAction → Nat
  | .set => 1
  | .clear => 2
  | .toggle => 3
  | .pulse => 4

/-- The RATE code of a branch control word (R168); codes 4 to 7 name no rate. -/
def Rate.ofCode : Nat → Option Rate
  | 0 => some .khz50
  | 1 => some .khz100
  | 2 => some .khz400
  | 3 => some .khz1000
  | _ => none

/-- The code of a RATE. -/
def Rate.code : Rate → Nat
  | .khz50 => 0
  | .khz100 => 1
  | .khz400 => 2
  | .khz1000 => 3

end Sys2Proof.Machine
end

