-- ==== Sys2Proof/Machine/Flags.lean ====
section
/-! DEFINITION. Event flags, the notice and the wake (chapter 10, sections 10.4 and 10.5; R177). -/

namespace Sys2Proof.Machine

/-- The mask of one event flag. -/
def EventFlag.mask (f : EventFlag) : BitVec 11 := BitVec.ofNat 11 (2 ^ f.bit)

/-- Whether an event flag is set (R171). -/
def State.flag (s : State) (f : EventFlag) : Bool := s.flags.getLsbD f.bit

/-- A notice is raised when NOTICE ARM is 1: it becomes pending and NOTICE ARM becomes 0 (R173). -/
def State.raiseNotice (s : State) : State :=
  if s.noticeArm then { s with noticePending := true, noticeArm := false } else s

/-- An event flag is set (R171). When it changes from clear to set and NOTICE MASK covers it, a notice is raised (R173).
Setting a flag that is set leaves it set. -/
def State.setFlag (s : State) (f : EventFlag) : State :=
  if s.flag f then s
  else
    let s' := { s with flags := s.flags ||| f.mask }
    if s.noticeMask.getLsbD f.bit then s'.raiseNotice else s'

/-- A flag is set that NOTICE MASK covers. -/
def State.maskedFlagSet (s : State) : Bool := (s.flags &&& s.noticeMask) != 0

/-- A wake (R177): in QUIET the state becomes WAKING, the wake timer starts from 0 and WOKE is set. In any other state
the event wakes nothing. -/
def State.wakeUp (s : State) : State :=
  if s.opState = .quiet then ({ s with opState := .waking, wakeTimer := 0 }).setFlag .woke else s

end Sys2Proof.Machine
end

