-- ==== Sys2Proof/Machine/Ops.lean ====
section
/-! DEFINITION. The named operations over the state: access to branches, places, entries and lines; the Response Queue
and the answer lists; the committed units, the occupancy and the tag holders. -/

namespace Sys2Proof.Machine

/-- The four branches in ascending order; also the latch lines and the attention entries. -/
def four : List (Fin 4) := [0, 1, 2, 3]

/-- The sixteen places of the Split Table in ascending order. -/
def sixteen : List (Fin 16) := [0, 1, 2, 3, 4, 5, 6, 7, 8, 9, 10, 11, 12, 13, 14, 15]

/-- The seven groups in ascending order. -/
def seven : List (Fin 7) := [0, 1, 2, 3, 4, 5, 6]

/-! ## Access -/

/-- Branch b. -/
def State.branch (s : State) (b : Fin 4) : Branch := s.branches[b.val]

/-- Change branch b alone. -/
def State.modBranch (s : State) (b : Fin 4) (f : Branch → Branch) : State :=
  { s with branches := s.branches.set b.val (f (s.branch b)) b.isLt }

/-- The entry in place i of the Split Table (R42). -/
def State.entry (s : State) (i : Fin 16) : Option SplitEntry := s.split[i.val]

/-- Put an entry, or none, into place i alone. -/
def State.setEntry (s : State) (i : Fin 16) (e : Option SplitEntry) : State :=
  { s with split := s.split.set i.val e i.isLt }

/-- Attention entry b. -/
def State.attn (s : State) (b : Fin 4) : Attn := s.attns[b.val]

/-- Change attention entry b alone. -/
def State.modAttn (s : State) (b : Fin 4) (f : Attn → Attn) : State :=
  { s with attns := s.attns.set b.val (f (s.attn b)) b.isLt }

/-- Group g, its number less one. -/
def State.group (s : State) (g : Fin 7) : Group := s.groups[g.val]

/-- Change group g alone. -/
def State.modGroup (s : State) (g : Fin 7) (f : Group → Group) : State :=
  { s with groups := s.groups.set g.val (f (s.group g)) g.isLt }

/-- Latch line l. -/
def State.line (s : State) (l : Fin 4) : Line := s.lines[l.val]

/-- Change latch line l alone. -/
def State.modLine (s : State) (l : Fin 4) (f : Line → Line) : State :=
  { s with lines := s.lines.set l.val (f (s.line l)) l.isLt }

/-! ## Free choices -/

/-- One of several things of which the spec says that either may be taken first (log 5): the only one, or the one that the
next free value names. -/
def State.pick {α : Type} (s : State) (xs : List α) : Option (α × State) :=
  match xs with
  | [] => none
  | [x] => some (x, s)
  | x :: rest =>
    some ((x :: rest).getD (Config.choice s.freeCount % (x :: rest).length) x,
      { s with freeCount := s.freeCount + 1 })

/-! ## HOLD-OUT, the Response Queue and the answer lists -/

/-- HOLD-OUT is asserted whenever the intake buffer holds 2 frames (R22). -/
def State.holdOut (s : State) : Bool := decide (Config.intakePlaces ≤ s.intake.length)

/-- A record enters at the tail of the Response Queue (R114). -/
def State.pushRecord (s : State) (r : Record) : State := { s with responseQueue := s.responseQueue ++ [r] }

/-- The Response Queue holds fewer than 16 records (R114). -/
def State.recordRoom (s : State) : Bool := decide (s.responseQueue.length < Config.responseRecords)

/-- The Response Queue holds fewer than 12 records: Trunk Intake may place one (R33). -/
def State.intakeRoom (s : State) : Bool := decide (s.responseQueue.length < Config.intakeRecords)

/-- A COMPLETION record (R113). -/
def completion (rt : ReqTag) (st : Status) (offset : Nat) : Record :=
  { rt := rt, status := st, body := .completion offset }

/-- A MGMT COMPLETION record without RESET FOLLOWS (R113). -/
def mgmtCompletion (rt : ReqTag) (st : Status) (failWord : Nat) (data : List Byte) : Record :=
  { rt := rt, status := st, body := .mgmt failWord data false }

/-- A completion record made for a write of branch b joins the branch's answer list (R80). When the list is empty and the
Response Queue has room it passes into the Response Queue in the same event (R81). An IDLE engine whose list then holds a
record is in POSTING (R80, R87, R110; log 33). -/
def State.addAnswer (s : State) (b : Fin 4) (r : Record) : State :=
  if (s.branch b).answers.isEmpty && s.recordRoom then s.pushRecord r
  else s.modBranch b fun br =>
    { br with
      answers := br.answers ++ [r]
      phase := if br.phase = .idle then .posting else br.phase }

/-! ## Committed units and occupancy -/

/-- UNITS of a length in bytes: divided by 8 and rounded up (R45). -/
def units (bytes : Nat) : Nat := (bytes + 7) / Config.unitBytes

/-- The units the live pieces of one place hold. -/
def entryUnits : Option SplitEntry → Nat
  | none => 0
  | some e => (e.pieces.map fun p => units p.length).sum

/-- The committed units: the sum over every live piece of every entry (R49). -/
def State.committed (s : State) : Nat := (s.split.toList.map entryUnits).sum

/-- The bytes of one place in the completion buffer (R44). -/
def entryHeld : Option SplitEntry → Nat
  | none => 0
  | some e => e.held.length

/-- The place an engine has reserved for a byte not yet stored (R94). -/
def reservedOf (br : Branch) : Nat := if br.progress.reserved then 1 else 0

/-- The occupancy of the completion buffer: the bytes every entry holds and the places engines have reserved (R52). -/
def State.occupancy (s : State) : Nat :=
  (s.split.toList.map entryHeld).sum + (s.branches.toList.map reservedOf).sum

/-- SPLIT ENTRIES IN USE (R42). -/
def State.entriesInUse (s : State) : Nat := (s.split.toList.filter Option.isSome).length

/-- The lowest-indexed free place of the Split Table (R42). -/
def State.freePlace (s : State) : Option (Fin 16) := sixteen.find? fun i => (s.entry i).isNone

/-! ## The engine as others see it -/

/-- The STATE of an engine (R87): RESETTING from the event of a branch reset to the end of its bus clear (R108, R112;
log 16), else what its phase says. -/
def Branch.state (br : Branch) : EngineState :=
  if br.resetting then .resetting
  else match br.phase with
    | .disabled => .disabled
    | .idle => .idle
    | .gap => .gap
    | .busyOther => .busyOther
    | .start => .start
    | .address => .address
    | .subaddress => .subaddress
    | .writeData => .writeData
    | .restart => .restart
    | .readData => .readData
    | .stall => .stall
    | .stop => .stop
    | .pause => .pause
    | .posting => .posting
    | .clearing => .clearing

/-- The engine states are numbered 0 to 15 in the order of the table of R87 (R168). -/
def EngineState.code : EngineState → Nat
  | .disabled => 0
  | .idle => 1
  | .gap => 2
  | .busyOther => 3
  | .start => 4
  | .address => 5
  | .subaddress => 6
  | .writeData => 7
  | .restart => 8
  | .readData => 9
  | .stall => 10
  | .stop => 11
  | .pause => 12
  | .posting => 13
  | .clearing => 14
  | .resetting => 15

/-! ## Tag holders (R30) -/

/-- The pair an operation holds: confirmed and timed writes hold one. -/
def Operation.tag? (o : Operation) : Option ReqTag :=
  match o.body with
  | .confirmed rt _ => some rt
  | .timed rt _ _ => some rt
  | .readPiece _ _ _ => none
  | .posted _ => none

/-- The pair a split entry holds: one owned by a trunk READ holds one. -/
def SplitEntry.tag? (e : SplitEntry) : Option ReqTag :=
  match e.owner with
  | .trunk rt => some rt
  | .attn _ => none

/-- The pair the entry in a place holds. -/
def placeTag? (e : Option SplitEntry) : Option ReqTag := e.bind SplitEntry.tag?

/-- The pairs the writes of one branch hold: in its Issue Queue, in its engine and in its answer list (R30, R80). -/
def Branch.tags (br : Branch) : List ReqTag :=
  br.queue.filterMap Operation.tag? ++ br.op.toList.filterMap Operation.tag? ++ br.answers.map Record.rt

/-- Every requester and tag pair that a tag holder carries, once for each holder (R30). -/
def State.tagHolders (s : State) : List ReqTag :=
  s.split.toList.filterMap placeTag? ++ s.releaseQueue.map ReleaseEntry.rt ++ (s.branches.toList.map Branch.tags).flatten

/-- A requester and tag pair is live while a tag holder carries it (R30). -/
def State.live (s : State) (rt : ReqTag) : Bool := s.tagHolders.contains rt

end Sys2Proof.Machine
end

