-- ==== Sys2Proof/Machine/Operands.lean ====
section
/-! DEFINITION. The operand forms: the bodies of the request frames with their checks (R24, R25), the route entry image
(R3, R26), and which row of the table takes a frame. -/

namespace Sys2Proof.Machine

/-! ## Request frames -/

/-- A request frame whose BODYLEN and size fields have passed R24 and R25. -/
inductive Request where
  | read (ldn : Byte) (offset length : Nat)
  | write (ldn : Byte) (offset : Nat) (data : List Byte)
  | writeConfirmed (ldn : Byte) (offset : Nat) (data : List Byte)
  | timedWrite (stamp : Stamp) (group : Byte) (ldn : Byte) (offset : Nat) (data : List Byte)
  | timedLatch (stamp : Stamp) (lines : BitVec 4) (action : LatchAction) (pulseWidth : BitVec 16)
  | cancel (target : BitVec 5)
  | mgmtRead (address words : Nat)
  | mgmtWrite (bridgeNumber : BitVec 3) (address : Nat) (words : List Word)
  | table (command : Byte) (operand : List Byte)
  deriving DecidableEq, Repr

/-- READ: LDN, OFFSET, LENGTH 1 to 512 (R24). -/
def parseRead : List Byte → Except Status Request
  | [ldn, oh, ol, lh, ll] =>
    let length := (be16 lh ll).toNat
    if length = 0 ∨ 512 < length then .error .badLength else .ok (.read ldn (be16 oh ol).toNat length)
  | _ => .error .badLength

/-- The body of WRITE and WRITE-CONFIRMED: LDN, OFFSET, COUNT up to 64, DATA of COUNT bytes (R24). -/
def parseWriteBody (make : Byte → Nat → List Byte → Request) : List Byte → Except Status Request
  | ldn :: oh :: ol :: count :: data =>
    if 64 < count.toNat ∨ data.length ≠ count.toNat then .error .badLength
    else .ok (make ldn (be16 oh ol).toNat data)
  | _ => .error .badLength

/-- TIMED WRITE: STAMP, GROUP, then as WRITE (R24). -/
def parseTimedWrite : List Byte → Except Status Request
  | s3 :: s2 :: s1 :: s0 :: group :: rest => parseWriteBody (.timedWrite (be32 s3 s2 s1 s0) group) rest
  | _ => .error .badLength

/-- TIMED LATCH: STAMP, LINES (bits 7 to 4 ignored), ACTION, PULSE WIDTH (R24, R25). -/
def parseTimedLatch : List Byte → Except Status Request
  | [s3, s2, s1, s0, lines, action, wh, wl] =>
    match LatchAction.ofCode action.toNat with
    | none => .error .badField
    | some a =>
      if a = .pulse ∧ be16 wh wl = 0 then .error .badField
      else .ok (.timedLatch (be32 s3 s2 s1 s0) (lines.extractLsb' 0 4) a (be16 wh wl))
  | _ => .error .badLength

/-- CANCEL: TARGET TAG in bits 4 to 0 (R24). -/
def parseCancel : List Byte → Except Status Request
  | [target] => .ok (.cancel (target.extractLsb' 0 5))
  | _ => .error .badLength

/-- MGMT READ: ADDRESS, WORDS 1 to 8 (R24). -/
def parseMgmtRead : List Byte → Except Status Request
  | [ah, al, words] =>
    if words.toNat = 0 ∨ 8 < words.toNat then .error .badLength
    else .ok (.mgmtRead (be16 ah al).toNat words.toNat)
  | _ => .error .badLength

/-- MGMT WRITE: BRIDGE NUMBER (bits 7 to 3 ignored), ADDRESS, WORDS 1 to 8, DATA of 4 × WORDS bytes (R24). -/
def parseMgmtWrite : List Byte → Except Status Request
  | bn :: ah :: al :: words :: data =>
    if words.toNat = 0 ∨ 8 < words.toNat ∨ data.length ≠ 4 * words.toNat then .error .badLength
    else .ok (.mgmtWrite (bn.extractLsb' 0 3) (be16 ah al).toNat (wordsOf data))
  | _ => .error .badLength

/-- The BODYLEN that a TABLE COMMAND code asks for: none for a code that names no command (R24). -/
def tableBodyLength : Nat → Option Nat
  | 1 => some 9
  | 2 => some 9
  | 3 => some 2
  | 4 => some 2
  | 5 => some 2
  | 6 => some 1
  | _ => none

/-- TABLE COMMAND: COMMAND and its operand. An unknown COMMAND is not refused here, whatever its BODYLEN (R24). -/
def parseTable : List Byte → Except Status Request
  | [] => .error .badLength
  | command :: operand =>
    match tableBodyLength command.toNat with
    | some n => if operand.length + 1 = n then .ok (.table command operand) else .error .badLength
    | none => .ok (.table command operand)

/-- Steps 2 and 3 of Intake's check order: the KIND, then BODYLEN, the size fields and the TIMED LATCH fields
(R28, R24, R25). -/
def parseRequest (f : Frame) : Except Status Request :=
  match f.kind.toNat with
  | 0x11 => parseRead f.body
  | 0x12 => parseWriteBody .write f.body
  | 0x13 => parseWriteBody .writeConfirmed f.body
  | 0x14 => parseTimedWrite f.body
  | 0x15 => parseTimedLatch f.body
  | 0x16 => parseCancel f.body
  | 0x21 => parseMgmtRead f.body
  | 0x22 => parseMgmtWrite f.body
  | 0x23 => parseTable f.body
  | _ => .error .badKind

/-! ## The row that takes a frame -/

/-- Some address of a range is a branch status word, 0x045 + 8b (chapter 10, section 10.2). -/
def holdsStatusWord (address words : Nat) : Bool :=
  four.any fun b => decide (address ≤ 0x45 + 8 * b.val ∧ 0x45 + 8 * b.val < address + words)

/-- The row of a MGMT WRITE: that of its first word (log 9). A first word whose register or value has no row of its own is
a MGMT_REGISTER_WRITE (R167). -/
def mgmtWriteRow (address : Nat) (w : Word) : Instr :=
  let v := w.toNat
  if address = 0x008 then
    match v with
    | 0 => .stateWriteActive
    | 1 => .stateWriteQuiet
    | 3 => .stateWriteOffline
    | _ => .mgmtRegisterWrite
  else if address = 0x009 then
    if v = 1 then .resetCommandBridge
    else if 0x10 ≤ v ∧ v ≤ 0x13 then .branchReset
    else .mgmtRegisterWrite
  else if address = 0x020 then .commitLimitWrite
  else if address = 0x028 then .tickShiftWrite
  else if address = 0x029 then .stampWrite
  else if address = 0x030 then .eventFlagsClear
  else if address = 0x031 then .noticeMaskWrite
  else if address = 0x032 then .noticeArmWrite
  else if address = 0x034 then .faultRecordClear
  else if address = 0x040 ∨ address = 0x048 ∨ address = 0x050 ∨ address = 0x058 then
    if w.getLsbD 0 then .branchEnable else .branchDisable
  else if 0x060 ≤ address ∧ address ≤ 0x06F ∧ address % 4 ≠ 3 then .attentionEntryWrite
  else if 0x074 ≤ address ∧ address ≤ 0x08F ∧ address % 4 = 0 then
    match v with
    | 1 => .groupOpen
    | 2 => .groupClose
    | 3 => .groupAbort
    | _ => .mgmtRegisterWrite
  else .mgmtRegisterWrite

/-- The row of a TABLE COMMAND code. -/
def tableRow (command : Nat) : Instr :=
  match command with
  | 1 => .tableInsert
  | 2 => .tableReplace
  | 3 => .tableRemove
  | 4 => .tableLookup
  | 5 => .tableNext
  | 6 => .tableClear
  | _ => .tableUnknownCommand

/-- The row of spec/opcode_table.json that takes a frame. A malformed MGMT WRITE is a MGMT_REGISTER_WRITE, a TABLE COMMAND
without a COMMAND byte a TABLE_UNKNOWN_COMMAND (log 9, 10). -/
def rowOf (f : Frame) : Instr :=
  match f.kind.toNat with
  | 0x11 => .read
  | 0x12 => .write
  | 0x13 => .writeConfirmed
  | 0x14 => .timedWrite
  | 0x15 => .timedLatch
  | 0x16 => .cancel
  | 0x21 =>
    match parseMgmtRead f.body with
    | .ok (.mgmtRead address words) => if holdsStatusWord address words then .branchStatusRead else .mgmtRead
    | _ => .mgmtRead
  | 0x22 =>
    match parseMgmtWrite f.body with
    | .ok (.mgmtWrite _ address (w :: _)) => mgmtWriteRow address w
    | _ => .mgmtRegisterWrite
  | 0x23 =>
    match f.body with
    | command :: _ => tableRow command.toNat
    | [] => .tableUnknownCommand
  | _ => .badKind

/-! ## The route entry image -/

/-- ACCESS of an image: 0x1 RO, 0x2 WO, 0x3 RW (chapter 2, section 2.3.2). -/
def Access.ofCode : Nat → Option Access
  | 1 => some .ro
  | 2 => some .wo
  | 3 => some .rw
  | _ => none

/-- The code of an ACCESS. -/
def Access.code : Access → BitVec 4
  | .ro => 1
  | .wo => 2
  | .rw => 3

/-- TIMEOUT POLICY of an image: 0x0 ABANDON, 0x1 EXTEND. -/
def TimeoutPolicy.ofCode : Nat → Option TimeoutPolicy
  | 0 => some .abandon
  | 1 => some .extend
  | _ => none

/-- The code of a TIMEOUT POLICY. -/
def TimeoutPolicy.code : TimeoutPolicy → BitVec 4
  | .abandon => 0
  | .extend => 1

/-- A value below n as an index. -/
def finOf (n v : Nat) : Option (Fin n) := if h : v < n then some ⟨v, h⟩ else none

/-- TARGET of an image, read only when its presence bit is 1 (R26). -/
def imageTarget (branch busAddress b5 : Byte) : Option RouteDevice := do
  let br ← finOf 4 branch.toNat
  let width ← finOf 3 (b5.extractLsb' 4 4).toNat
  bif busAddress.getLsbD 7 then none else some (.target br (busAddress.extractLsb' 0 7) width)

/-- TARGET or ALIAS of an image: exactly one of the two, and an ALIAS not the image's own LDN (R3, R26). -/
def imageDevice (ldn b1 branch busAddress other b5 : Byte) : Option RouteDevice :=
  match b1.getLsbD 7, b1.getLsbD 6 with
  | true, false => imageTarget branch busAddress b5
  | false, true => if other = ldn then none else some (.aliasOf other)
  | _, _ => none

/-- OWNER of an image: legal 0 to 7, read only when its presence bit is 1 (R3, R26). The outer Option is legality. -/
def imageOwner (b1 : Byte) : Option (Option (BitVec 3)) :=
  if b1.getLsbD 5 then
    if b1.getLsbD 3 then none else some (some (b1.extractLsb' 0 3))
  else some none

/-- A general-call target may be written, not read (R3). -/
def generalCallReadable (device : RouteDevice) (access : Access) : Bool :=
  match device with
  | .target _ busAddress _ => decide (busAddress = 0 ∧ access ≠ .wo)
  | .aliasOf _ => false

/-- The entry that an image of 8 bytes carries: none when R3 refuses it. -/
def entryOfImage : List Byte → Option RouteEntry
  | [ldn, b1, branch, busAddress, other, b5, b6, retry] => do
    let device ← imageDevice ldn b1 branch busAddress other b5
    let owner ← imageOwner b1
    let timeoutClass ← finOf 4 (b5.extractLsb' 0 4).toNat
    let access ← Access.ofCode (b6.extractLsb' 4 4).toNat
    let timeoutPolicy ← TimeoutPolicy.ofCode (b6.extractLsb' 0 4).toNat
    let retryLimit ← finOf 16 retry.toNat
    let entry : RouteEntry :=
      { ldn := ldn, device := device, access := access, owner := owner, persist := b1.getLsbD 4,
        timeoutClass := timeoutClass, timeoutPolicy := timeoutPolicy, retryLimit := retryLimit }
    bif generalCallReadable device access then none else some entry
  | _ => none

/-- The image of a held entry; the fields of an absent part are sent as 0 (R26). -/
def imageOfEntry (e : RouteEntry) : List Byte :=
  let bit (p : Bool) : BitVec 1 := BitVec.ofBool p
  let (isTarget, branch, busAddress, width, other) : Bool × Byte × Byte × BitVec 4 × Byte :=
    match e.device with
    | .target br addr w => (true, BitVec.ofNat 8 br.val, addr.setWidth 8, BitVec.ofNat 4 w.val, 0)
    | .aliasOf other => (false, 0, 0, 0, other)
  let ownerField : BitVec 4 := match e.owner with
    | some o => o.setWidth 4
    | none => 0
  [ e.ldn
  , bit isTarget ++ bit (!isTarget) ++ bit e.owner.isSome ++ bit e.persist ++ ownerField
  , branch
  , busAddress
  , other
  , width ++ BitVec.ofNat 4 e.timeoutClass.val
  , e.access.code ++ e.timeoutPolicy.code
  , BitVec.ofNat 8 e.retryLimit.val ]

end Sys2Proof.Machine
end

