-- ==== Sys2Proof/Machine/RouteTable.lean ====
section
/-! DEFINITION. The Route Table (chapter 1): entries by LDN, resolution, reach, and the effect of the table commands. -/

namespace Sys2Proof.Machine

/-- The entry held under an LDN (R2). -/
def findRoute (t : List RouteEntry) (ldn : Byte) : Option RouteEntry := t.find? fun e => e.ldn == ldn

/-- Add an entry in its place of ascending LDN. -/
def insertRoute (e : RouteEntry) : List RouteEntry → List RouteEntry
  | [] => [e]
  | x :: rest => if e.ldn.toNat < x.ldn.toNat then e :: x :: rest else x :: insertRoute e rest

/-- Exchange the entry held under an LDN. -/
def replaceRoute (e : RouteEntry) (t : List RouteEntry) : List RouteEntry :=
  t.map fun x => if x.ldn == e.ldn then e else x

/-- Take out the entry held under an LDN. -/
def removeRoute (ldn : Byte) (t : List RouteEntry) : List RouteEntry := t.filter fun x => !(x.ldn == ldn)

/-- The held entry with the smallest LDN greater than the one given (R14); the list ascends. -/
def nextRoute (ldn : Byte) (t : List RouteEntry) : Option RouteEntry := t.find? fun e => decide (ldn.toNat < e.ldn.toNat)

/-! ## Resolution -/

/-- The access a request needs (R5). -/
inductive AccessKind where
  | forRead
  | forWrite
  deriving DecidableEq, Repr

/-- The route that an entry with TARGET supplies under a requested LDN (R4). -/
def routeOf (ldn : Byte) (e : RouteEntry) : Option Route :=
  match e.device with
  | .target br addr w =>
    some { ldn := ldn, branch := br, busAddress := addr, width := w, persist := e.persist, timeoutClass := e.timeoutClass,
           timeoutPolicy := e.timeoutPolicy, retryLimit := e.retryLimit }
  | .aliasOf _ => none

/-- The composed route and the requested entry, which supplies ACCESS and OWNER (R4). -/
def composeRoute (t : List RouteEntry) (ldn : Byte) : Option (Route × RouteEntry) :=
  match findRoute t ldn with
  | none => none
  | some e =>
    match e.device with
    | .target _ _ _ => (routeOf ldn e).map fun r => (r, e)
    | .aliasOf other =>
      match findRoute t other with
      | none => none
      | some target => (routeOf ldn target).map fun r => (r, e)

/-- ACCESS allows the kind (R5). -/
def accessAllows : Access → AccessKind → Bool
  | .rw, _ => true
  | .ro, .forRead => true
  | .ro, .forWrite => false
  | .wo, .forRead => false
  | .wo, .forWrite => true

/-- OWNER is absent, or is the requester; an attention poll has no requester and is not checked (R5). -/
def ownerAllows (owner : Option (BitVec 3)) (requester : Option (BitVec 3)) : Bool :=
  match requester, owner with
  | none, _ => true
  | some _, none => true
  | some r, some o => r == o

/-- Resolution (R4, R5, R6) for a request that needs an access, by a requester or, for an attention poll, by none. -/
def State.resolve (s : State) (ldn : Byte) (kind : AccessKind) (requester : Option (BitVec 3)) : Except Status Route :=
  match composeRoute s.routes ldn with
  | none => .error .noRoute
  | some (r, e) =>
    if !accessAllows e.access kind then .error .routeRefused
    else if kind = .forRead ∧ r.busAddress = 0 then .error .routeRefused
    else if !ownerAllows e.owner requester then .error .routeRefused
    else if !(s.branch r.branch).enabled then .error .branchOff
    else .ok r

/-- Reach (R7): offset and size against the subaddress width of the route. A write of COUNT 0 is within reach at every
legal offset. -/
def reaches (width : Fin 3) (offset size : Nat) : Bool :=
  match width with
  | 0 => offset == 0
  | 1 => decide (offset ≤ 255 ∧ offset + size ≤ 256)
  | 2 => decide (offset ≤ 65535 ∧ offset + size ≤ 65536)

/-- Resolution followed by reach: steps 6 and 7 of R28. -/
def State.routeFor (s : State) (ldn : Byte) (kind : AccessKind) (requester : Option (BitVec 3)) (offset size : Nat) :
    Except Status Route :=
  match s.resolve ldn kind requester with
  | .error st => .error st
  | .ok r => if reaches r.width offset size then .ok r else .error .badLength

/-! ## Table commands: the table as left, the status and DATA of the answer -/

/-- The outcome of a table command (R9). -/
structure TableResult where
  routes : List RouteEntry
  status : Status
  data : List Byte
  deriving DecidableEq, Repr

/-- INSERT (R10). -/
def tableInsert (t : List RouteEntry) (image : List Byte) : TableResult :=
  match entryOfImage image with
  | none => ⟨t, .badField, []⟩
  | some e =>
    if (findRoute t e.ldn).isSome then ⟨t, .keyExists, []⟩
    else if Config.routeEntries ≤ t.length then ⟨t, .tableFull, []⟩
    else ⟨insertRoute e t, .ok, []⟩

/-- REPLACE (R11). -/
def tableReplace (t : List RouteEntry) (image : List Byte) : TableResult :=
  match entryOfImage image with
  | none => ⟨t, .badField, []⟩
  | some e =>
    match findRoute t e.ldn with
    | none => ⟨t, .keyAbsent, []⟩
    | some old => ⟨replaceRoute e t, .ok, imageOfEntry old⟩

/-- The LDN operand of REMOVE, LOOKUP and NEXT. -/
def ldnOperand : List Byte → Byte
  | [ldn] => ldn
  | _ => 0

/-- REMOVE (R12). -/
def tableRemove (t : List RouteEntry) (ldn : Byte) : TableResult :=
  match findRoute t ldn with
  | none => ⟨t, .keyAbsent, []⟩
  | some old => ⟨removeRoute ldn t, .ok, imageOfEntry old⟩

/-- LOOKUP (R13). -/
def tableLookup (t : List RouteEntry) (ldn : Byte) : TableResult :=
  match findRoute t ldn with
  | none => ⟨t, .keyAbsent, []⟩
  | some e => ⟨t, .ok, imageOfEntry e⟩

/-- NEXT (R14). -/
def tableNext (t : List RouteEntry) (ldn : Byte) : TableResult :=
  match nextRoute ldn t with
  | none => ⟨t, .keyAbsent, []⟩
  | some e => ⟨t, .ok, imageOfEntry e⟩

/-- CLEAR (R15). -/
def tableClear (_t : List RouteEntry) : TableResult := ⟨[], .ok, []⟩

/-- A COMMAND byte that names none of the six (R9). -/
def tableUnknown (t : List RouteEntry) : TableResult := ⟨t, .badField, []⟩

/-- The command that a COMMAND byte names (R9). -/
def tableCommand (t : List RouteEntry) (command : Byte) (operand : List Byte) : TableResult :=
  match command.toNat with
  | 1 => tableInsert t operand
  | 2 => tableReplace t operand
  | 3 => tableRemove t (ldnOperand operand)
  | 4 => tableLookup t (ldnOperand operand)
  | 5 => tableNext t (ldnOperand operand)
  | 6 => tableClear t
  | _ => tableUnknown t

end Sys2Proof.Machine
end

