-- ==== Sys2Proof/Machine/Grant.lean ====
section
/-! DEFINITION. The commitment budget (chapter 3, sections 3.1 and 3.2): creation of split entries and of pieces, the
grant pass, and the ending of an engine's stall when room frees. -/

namespace Sys2Proof.Machine

/-! ## Entries -/

/-- Bytes of the read not yet covered by pieces (R46). -/
def SplitEntry.uncreated (e : SplitEntry) : Nat := e.length - e.issued

/-- The size of an entry's next piece (R46). -/
def nextPieceLength (limit : Nat) (e : SplitEntry) : Nat :=
  if limit < Config.wholeModeLimit then min Config.cutBytes e.uncreated else e.uncreated

/-- The operation of an entry's next piece: OFFSET is START plus ISSUED, and FIRST says that it begins the read (R47, R71). -/
def pieceOperation (i : Fin 16) (e : SplitEntry) (length : Nat) : Operation :=
  { body := .readPiece i length (e.issued == 0), ldn := e.route.ldn, busAddress := e.route.busAddress,
    width := e.route.width, offset := e.start + e.issued, retryLimit := e.route.retryLimit, persist := e.route.persist }

/-- A piece is created for the entry in place i (R47): it enters its branch's Issue Queue, is appended to PIECES, and
ISSUED grows; the committed units grow with PIECES. -/
def State.createPiece (s : State) (i : Fin 16) (e : SplitEntry) (length : Nat) : State :=
  let e' := { e with
    issued := e.issued + length
    pieces := e.pieces ++ [{ offset := e.start + e.issued, length := length, state := .queued }] }
  (s.setEntry i (some e')).modBranch e.route.branch fun br => { br with queue := br.queue ++ [pieceOperation i e length] }

/-- How a grant to one entry left off (R48). -/
inductive GrantEnd where
  | nextEntry
  | passEnds
  deriving DecidableEq, Repr

/-- Steps 1 to 3 of the grant pass for the entry in place i, repeated at most `fuel` times: every piece takes at least one
byte, so the uncreated bytes are enough (R48). -/
def State.grantEntry (s : State) (i : Fin 16) : Nat → State × GrantEnd
  | 0 => (s, .nextEntry)
  | fuel + 1 =>
    match s.entry i with
    | none => (s, .nextEntry)
    | some e =>
      if e.state ≠ .gathering ∨ e.uncreated = 0 then (s, .nextEntry)
      else if Config.issueDepth ≤ (s.branch e.route.branch).queue.length then (s, .nextEntry)
      else
        let length := nextPieceLength s.commitLimit e
        if s.commitLimit < s.committed + units length then (s, .passEnds)
        else (s.createPiece i e length).grantEntry i fuel

/-- The uncreated bytes of the entry in a place. -/
def uncreatedOf (e : Option SplitEntry) : Nat :=
  match e with
  | none => 0
  | some e => e.uncreated

/-- The grant pass over places in order of AGE (R48). -/
def State.grantOver (s : State) : List (Fin 16) → State
  | [] => s
  | i :: rest =>
    match s.grantEntry i (uncreatedOf (s.entry i)) with
    | (s', .nextEntry) => s'.grantOver rest
    | (s', .passEnds) => s'

/-- The grant pass (R48), oldest AGE first. -/
def State.grantPass (s : State) : State := s.grantOver s.ageOrder

/-- A new split entry is created in a free place (R42, R43, R34, R160) with the youngest AGE and its DEADLINE from the
stamp counter and the class of its route (R61); a grant pass follows (R48). -/
def State.createEntry (s : State) (i : Fin 16) (owner : SplitOwner) (route : Route) (start length : Nat) : State :=
  let e : SplitEntry :=
    { owner := owner, route := route, start := start, length := length, issued := 0, received := 0, sent := 0,
      pieces := [], deadline := s.stamp + s.timeoutClasses[route.timeoutClass.val].setWidth 32, extended := false,
      state := .gathering, finalStatus := none, finalSent := false, held := [] }
  let s' := s.setEntry i (some e)
  State.grantPass { s' with ageOrder := s'.ageOrder ++ [i] }

/-! ## Stalled engines -/

/-- The branches whose engine waits in STALL for room (R94). -/
def State.stalled (s : State) : List (Fin 4) := four.filter fun b => decide ((s.branch b).phase = .stall)

/-- An engine in STALL reserves the place of its byte and returns to READ_DATA (R94). -/
def State.endStallOf (s : State) (b : Fin 4) : State :=
  s.modBranch b fun br => { br with phase := .readData, progress := { br.progress with reserved := true } }

/-- At most `fuel` stalled engines leave STALL, one after another, while the occupancy is below 512 (R52, R94). When
several wait, either may reserve the place: a free choice (log 5). -/
def State.endStalls (s : State) : Nat → State
  | 0 => s
  | fuel + 1 =>
    if s.occupancy < Config.bufferBytes then
      match s.pick s.stalled with
      | none => s
      | some (b, s') => (s'.endStallOf b).endStalls fuel
    else s

/-- What follows a fall of the occupancy: the four engines at most leave STALL (R52, R94). -/
def State.roomFreed (s : State) : State := s.endStalls 4

end Sys2Proof.Machine
end

