-- ==== Sys2Proof/Machine/Attention.lean ====
section
/-! DEFINITION. The Attention Unit (chapter 9): triggers, poll attempts, claims, holdoff, and the writes of an entry. -/

namespace Sys2Proof.Machine

/-- The operating state creates polls: ACTIVE or DRAINING (R158, R163). -/
def State.polls (s : State) : Bool := decide (s.opState = .active ∨ s.opState = .draining)

/-- The operating state only gathers triggers into PENDING: QUIET or WAKING (R158, R163). -/
def State.sleeps (s : State) : Bool := decide (s.opState = .quiet ∨ s.opState = .waking)

/-- An entry waiting for a place: STATUS IDLE and PENDING set (R157). -/
def Attn.waiting (a : Attn) : Bool := decide (a.status = .idle) && a.pending

/-- MODE is LEVEL with the line low (R162). -/
def Attn.levelLow (a : Attn) : Bool := decide (a.mode = .level) && !a.line

/-- A low level that triggers: LEVEL mode, the line low, LEVEL SPENT no (R158). -/
def Attn.lowLevel (a : Attn) : Bool := a.levelLow && !a.levelSpent

/-- Outcome 1 of a poll attempt (R159): ATTN_NO_ROUTE, PENDING clear, STATUS IDLE, and in LEVEL mode LEVEL SPENT yes, also when
the line is high already: it becomes no at the next ATTENTION_LINE_RISE (R158; log 44). -/
def State.pollUnroutable (s : State) (b : Fin 4) : State :=
  (s.modAttn b fun a =>
    { a with pending := false, status := .idle, levelSpent := decide (a.mode = .level) || a.levelSpent }).setFlag .attnNoRoute

/-- Outcome 2 of a poll attempt (R159): the table is full, the entry waits for a place. -/
def State.pollWaits (s : State) (b : Fin 4) : State :=
  s.modAttn b fun a => { a with pending := true, status := .idle }

/-- Outcome 3 of a poll attempt (R159, R160): the poll is created in the lowest-indexed free place. -/
def State.pollCreated (s : State) (b : Fin 4) (i : Fin 16) (r : Route) : State :=
  let a := s.attn b
  (s.modAttn b fun a => { a with pending := false, status := .polling }).createEntry i (.attn b) r a.offset.toNat a.length

/-- A poll attempt (R159). -/
def State.attemptPoll (s : State) (b : Fin 4) : State :=
  let a := s.attn b
  if a.length = 0 then s.pollUnroutable b
  else match s.routeFor a.ldn .forRead none a.offset.toNat a.length with
    | .error _ => s.pollUnroutable b
    | .ok r =>
      match s.freePlace with
      | none => s.pollWaits b
      | some i => s.pollCreated b i r

/-- The effect of a trigger (R158): lost when ENABLED is no or in OFFLINE; PENDING in QUIET and WAKING and while POLLING or
HOLDOFF; a poll attempt when IDLE and not already waiting. -/
def State.trigger (s : State) (b : Fin 4) : State :=
  let a := s.attn b
  if !a.enabled then s
  else if s.polls then
    if a.status = .idle then (if a.pending then s else s.attemptPoll b)
    else s.modAttn b fun x => { x with pending := true }
  else if s.sleeps then s.modAttn b fun x => { x with pending := true }
  else s

/-- The entries waiting for a place claim free places one at a time in the order of the list (R161). -/
def State.claimOver (s : State) : List (Fin 4) → State
  | [] => s
  | b :: rest =>
    if (s.attn b).waiting && s.freePlace.isSome then (s.attemptPoll b).claimOver rest else s.claimOver rest

/-- Claims on free places in ascending branch order, in ACTIVE and DRAINING only (R161, R163, R164). -/
def State.claims (s : State) : State := if s.polls then s.claimOver four else s

/-- Some entry waits for a place. -/
def State.someWaits (s : State) : Bool := four.any fun b => (s.attn b).waiting

/-- A holdoff ends and its entry is judged (R162; log 25). -/
def State.endHoldoff (s : State) (b : Fin 4) : State :=
  let a := s.attn b
  let s' := s.modAttn b fun x => { x with status := .idle, pending := false, holdoffTimer := 0, holdoffLength := 0 }
  if a.enabled && s.polls && (a.pending || a.levelLow) then s'.attemptPoll b
  else if a.enabled && s.sleeps then s'.modAttn b fun x => { x with pending := a.pending || a.levelLow }
  else s'

/-- A poll of branch b has been freed: its entry goes to HOLDOFF, and the waiting entries claim the place. A HOLDOFF of 0
ends in this event (R162); its judgement and the claims may come in either order (R161; log 27). -/
def State.pollFreed (s : State) (b : Fin 4) : State :=
  let length := (s.attn b).holdoff.toNat * 1000
  let s' := s.modAttn b fun x => { x with status := .holdoff, holdoffTimer := 0, holdoffLength := length }
  if length ≠ 0 then s'.claims
  else
    match s'.pick (if s'.someWaits then [true, false] else [true]) with
    | some (true, s2) => (s2.endHoldoff b).claims
    | some (false, s2) => s2.claims.endHoldoff b
    | none => s'

/-! ## Writes of an attention entry (R157, R158, R164) -/

/-- A LEVEL trigger by a write that found the line low. -/
def State.levelTrigger (s : State) (b : Fin 4) : State := if (s.attn b).lowLevel then s.trigger b else s

/-- A write of the control word: ENABLED, MODE and WAKE are stored and LEVEL SPENT becomes no; ENABLED no clears PENDING
(R164). Writing MODE LEVEL finds a low line (R158; log 26). -/
def State.writeAttnControl (s : State) (b : Fin 4) (enabled : Bool) (mode : AttnMode) (wake : Bool) : State :=
  (s.modAttn b fun a =>
    { a with enabled := enabled, mode := mode, wake := wake, levelSpent := false, pending := enabled && a.pending }).levelTrigger b

/-- An applied write of the second or third word: its fields are stored and LEVEL SPENT becomes no, which finds a low line
when it was yes (R157, R158). -/
def State.writeAttnFields (s : State) (b : Fin 4) (store : Attn → Attn) : State :=
  let s' := s.modAttn b fun a => { store a with levelSpent := false }
  if (s.attn b).levelSpent then s'.levelTrigger b else s'

end Sys2Proof.Machine
end

