-- ==== Sys2Proof/Machine/Decision.lean ====
section
/-! DEFINITION. What Intake can decide for a frame, the writes that it accepts into an Issue Queue (R35, R72), and when it takes
frames (R29, R41). -/

namespace Sys2Proof.Machine

/-- The outcome that Intake decides for the head frame (02, section 2.4). -/
inductive Decision where
  /-- A refusal with its status (R32). -/
  | refuse (status : Status)
  /-- The frame is carried out, and its answer, one record, has entered the Response Queue of the state (R38, R39). -/
  | answer (s : State)
  /-- The request is handed to its owner (R34 to R37). -/
  | accept (s : State)

/-- The operation of an accepted write (R35). -/
def writeOperation (body : OpBody) (r : Route) (offset : Nat) : Operation :=
  { body := body, ldn := r.ldn, busAddress := r.busAddress, width := r.width, offset := offset,
    retryLimit := r.retryLimit, persist := r.persist }

/-- A WRITE or WRITE-CONFIRMED from step 6 on (R28, R31, R35). -/
def State.decideWrite (s : State) (rt : ReqTag) (body : OpBody) (ldn : Byte) (offset count : Nat) : Decision :=
  match s.routeFor ldn .forWrite (some rt.requester) offset count with
  | .error st => .refuse st
  | .ok r =>
    if Config.issueDepth ≤ (s.branch r.branch).queue.length then .refuse .busy
    else .accept (s.modBranch r.branch fun br => { br with queue := br.queue ++ [writeOperation body r offset] })

/-- A WRITE-CONFIRMED from step 5 on (R28, R30, R35). -/
def State.decideConfirmed (s : State) (rt : ReqTag) (ldn : Byte) (offset : Nat) (data : List Byte) : Decision :=
  if s.live rt then .refuse .tagInUse else s.decideWrite rt (.confirmed rt data) ldn offset data.length

/-- Intake takes frames: in ACTIVE, DRAINING and OFFLINE, and not before a bridge reset that it awaits (R29, R41). -/
def State.takesFrames (s : State) : Bool :=
  decide (s.opState = .active ∨ s.opState = .draining ∨ s.opState = .offline) && !s.intakeStopped

/-- Intake takes its head frame when that is a WRITE or WRITE-CONFIRMED that passes its checks and enters the Issue Queue of branch
b (R33, R35, R72); none for any other head frame. -/
def State.intakeTakesSlot (s : State) (b : Fin 4) : Option State :=
  match s.intake with
  | [] => none
  | f :: rest =>
    if s.takesFrames = true ∧ s.opState ≠ .offline then
      let decision :=
        match parseRequest f with
        | .ok (.write ldn offset data) => s.decideWrite f.rt (.posted data) ldn offset data.length
        | .ok (.writeConfirmed ldn offset data) => s.decideConfirmed f.rt ldn offset data
        | _ => .refuse .badKind
      match decision with
      | .accept t =>
        if (s.branch b).queue.length < (t.branch b).queue.length then some { t with intake := rest } else none
      | _ => none
    else none

end Sys2Proof.Machine
end

