-- ==== Sys2Proof/Machine/Groups.lean ====
section
/-! DEFINITION. The Group Unit (chapter 8): latch lines, member counting, firing, and the step PULSE_END. -/

namespace Sys2Proof.Machine

/-! ## Latch lines -/

/-- The level a line is driven at (R153). -/
def Line.driven (l : Line) : Bool :=
  match l.pulse with
  | none => l.resting
  | some p => p.level

/-- A PULSE begins a pulse at the inverse of RESTING, or restarts the running one with the new width (R154). -/
def Line.startPulse (l : Line) (width : Nat) : Line :=
  match l.pulse with
  | none => { l with pulse := some { level := !l.resting, width := width, timer := 0 } }
  | some p => { l with pulse := some { p with width := width, timer := 0 } }

/-- An action carried out on one line (R153, R154). -/
def Line.act (l : Line) (action : LatchAction) (width : Nat) : Line :=
  match action with
  | .set => { l with resting := true }
  | .clear => { l with resting := false }
  | .toggle => { l with resting := !l.resting }
  | .pulse => l.startPulse width

/-- An action carried out on every selected line in one event (R153, R155). -/
def State.latch (s : State) (lines : BitVec 4) (action : LatchAction) (width : Nat) : State :=
  { s with lines := Vector.ofFn fun i => if lines.getLsbD i.val then (s.line i).act action width else s.line i }

/-! ## Groups -/

/-- A group fires in the event in which it is ARMED and DONE plus FAILED equals MEMBERS (R152). What a head of the Release Queue
judged later in the event does on the lines (a TIMED LATCH, or a firing by its BRANCH_OFF) comes after it (R155; log 48). -/
def State.fireIfComplete (s : State) (g : Fin 7) : State :=
  let gr := s.group g
  if gr.state = .armed ∧ gr.done + gr.failed = gr.members then
    let s' := s.modGroup g fun x => { x with state := .idle }
    if gr.failed = 0 ∨ gr.policy = .fireAnyway then s'.latch gr.lines gr.action gr.pulseWidth.toNat
    else s'.setFlag .groupFailed
  else s

/-- A report of a generation counts in a group: COLLECTING or ARMED, of that GENERATION, DONE plus FAILED below MEMBERS
(R150, R151). -/
def Group.counts (gr : Group) (generation : Byte) : Bool :=
  decide (gr.state ≠ .idle ∧ gr.generation = generation ∧ gr.done + gr.failed < gr.members)

/-- A member's outcome report (R150), which may make the group fire. -/
def State.memberReport (s : State) (g : Fin 7) (generation : Byte) (ok : Bool) : State :=
  if (s.group g).counts generation then
    (s.modGroup g fun x => if ok then { x with done := x.done + 1 } else { x with failed := x.failed + 1 }).fireIfComplete g
  else s

/-- The report of an operation or entry that may carry GROUP and GENERATION (R79). -/
def State.reportMember (s : State) (member : Option (Fin 7 × Byte)) (ok : Bool) : State :=
  match member with
  | none => s
  | some (g, generation) => s.memberReport g generation ok

/-- A member is cancelled in the Release Queue: the group takes one off MEMBERS (R151), and may fire. -/
def State.cancelMember (s : State) (member : Option (Fin 7 × Byte)) : State :=
  match member with
  | none => s
  | some (g, generation) =>
    if (s.group g).counts generation then
      (s.modGroup g fun x => { x with members := x.members - 1 }).fireIfComplete g
    else s

/-- OPEN (R146): a new collection; none when the group is not IDLE. -/
def State.openGroup (s : State) (g : Fin 7) : Option State :=
  if (s.group g).state = .idle then
    some (s.modGroup g fun x =>
      { x with state := .collecting, generation := x.generation + 1, members := 0, done := 0, failed := 0 })
  else none

/-- CLOSE (R147): COLLECTING becomes ARMED and may fire at once; none in any other state. It does so in OFFLINE too, where a group
opened there fires with MEMBERS 0 and acts on its lines: the model's choice (R156; log 46). -/
def State.closeGroup (s : State) (g : Fin 7) : Option State :=
  if (s.group g).state = .collecting then
    some ((s.modGroup g fun x => { x with state := .armed }).fireIfComplete g)
  else none

/-- ABORT (R148): COLLECTING or ARMED becomes IDLE without the action; in IDLE it has no effect. -/
def State.abortGroup (s : State) (g : Fin 7) : State := s.modGroup g fun x => { x with state := .idle }

/-- Entry into OFFLINE makes every group IDLE without its action (R156). -/
def State.idleGroups (s : State) : State := { s with groups := mapAll (fun x => { x with state := .idle }) s.groups }

/-! ## Meaning -/

/-- PULSE_END (R154): the pulse timer of a line reaches the width; the pulse becomes absent and the line is driven at
RESTING. A line without a pulse has none to end. -/
def execPulseEnd (line : Fin 4) (s : State) : Host.Outcome State Fault Refusal :=
  .next (s.modLine line fun l => { l with pulse := none })

end Sys2Proof.Machine
end

