-- ==== Sys2Proof/Machine/Slots.lean ====
section
/-! DEFINITION. The head of the Release Queue (R135 to R139, R142): what becomes of it when it is judged, and who takes a slot
of an Issue Queue that is freed (R72, R73, R137). -/

namespace Sys2Proof.Machine

/-- The operation that a released timed write becomes (R136). -/
def timedOperation (rt : ReqTag) (member : Option (Fin 7 × Byte)) (route : Route) (offset : Nat) (data : List Byte) :
    Operation :=
  { body := .timed rt data member, ldn := route.ldn, busAddress := route.busAddress, width := route.width,
    offset := offset, retryLimit := route.retryLimit, persist := route.persist }

/-- The head leaves the Release Queue, and operation o enters the queue of its route's branch (R136). -/
def State.releaseInto (s : State) (rest : List ReleaseEntry) (route : Route) (o : Operation) : State :=
  ({ s with releaseQueue := rest }).modBranch route.branch fun br => { br with queue := br.queue ++ [o] }

/-- The due head waits for a place: WAITING becomes yes, and RELEASE_SLIP is set at the start of the wait (R137); none when it
waits already. -/
def State.headWaits (s : State) (e : ReleaseEntry) (rest : List ReleaseEntry) : Option State :=
  if e.waiting then none
  else some (({ s with releaseQueue := { e with waiting := true } :: rest }).setFlag .releaseSlip)

/-- A due head TIMED WRITE is judged (R136 to R138): on an enabled branch it enters its Issue Queue, or waits while that queue
holds 16 operations; on a disabled one it ends with BRANCH_OFF and is reported to its group as an error, or waits while the
Response Queue holds 16 records. A group that the report makes fire acts on its lines behind one that a CANCEL or the report of
a run made fire in the event: the model's choice (R155; log 48). -/
def State.judgeWrite (s : State) (e : ReleaseEntry) (rest : List ReleaseEntry) (member : Option (Fin 7 × Byte))
    (route : Route) (offset : Nat) (data : List Byte) : Option State :=
  if (s.branch route.branch).enabled then
    if (s.branch route.branch).queue.length < Config.issueDepth then
      some (s.releaseInto rest route (timedOperation e.rt member route offset data))
    else s.headWaits e rest
  else if s.recordRoom then
    some ((({ s with releaseQueue := rest }).pushRecord (completion e.rt .branchOff offset)).reportMember member false)
  else s.headWaits e rest

/-- A due head TIMED LATCH is judged (R139): it acts on its lines and is answered OK, or waits while the Response Queue holds
16 records. -/
def State.judgeLatch (s : State) (e : ReleaseEntry) (rest : List ReleaseEntry) (lines : BitVec 4) (action : LatchAction)
    (pulseWidth : BitVec 16) : Option State :=
  if s.recordRoom then
    some ((({ s with releaseQueue := rest }).pushRecord (completion e.rt .ok 0)).latch lines action pulseWidth.toNat)
  else s.headWaits e rest

/-- OFFSET of the ABORTED answer of an entry (R142). -/
def ReleaseEntry.abortOffset (e : ReleaseEntry) : Nat :=
  match e.body with
  | .timedWrite _ _ offset _ => offset
  | .timedLatch _ _ _ => 0

/-- The head is answered ABORTED in OFFLINE when the Response Queue has room (R142). -/
def State.abortHead (s : State) (e : ReleaseEntry) (rest : List ReleaseEntry) : Option State :=
  if s.recordRoom then some (({ s with releaseQueue := rest }).pushRecord (completion e.rt .aborted e.abortOffset))
  else none

/-- The state in which the head of the Release Queue has been judged (R135): released, ended, answered, or found waiting; none
when the judgement changes nothing. -/
def State.judgeHead (s : State) : Option State :=
  match s.releaseQueue with
  | [] => none
  | e :: rest =>
    if s.opState = .offline then s.abortHead e rest
    else if e.due then
      match e.body with
      | .timedWrite member route offset data => s.judgeWrite e rest member route offset data
      | .timedLatch lines action pulseWidth => s.judgeLatch e rest lines action pulseWidth
    else none

/-- The row of the table by which the head is judged (R136, R138, R139, R142); none when it is neither due nor to be aborted. -/
def State.headRow (s : State) : Option Instr :=
  match s.releaseQueue with
  | [] => none
  | e :: _ =>
    if s.opState = .offline then some .offlineAbortAnswer
    else if e.due then
      match e.body with
      | .timedWrite _ route _ _ =>
        some (if (s.branch route.branch).enabled then .releaseTimedWrite else .releaseBranchOff)
      | .timedLatch _ _ _ => some .releaseTimedLatch
    else none

/-- The head waits for a place (R137). -/
def State.headHasWaited (s : State) : Bool :=
  match s.releaseQueue with
  | [] => false
  | e :: _ => e.waiting

/-- The state in which the head, a TIMED WRITE that waits for room on its branch, has taken a slot of the queue; none when no
such head waits or its queue is full (R73, R137). -/
def State.headTakesSlot (s : State) : Option State :=
  if s.headRow = some .releaseTimedWrite ∧ s.headHasWaited = true then s.judgeHead else none

/-- The head is judged, and the heads behind it at once, until the queue is empty or judging its head changes nothing (R135). Of
`fuel` judgements each ends an entry or begins its wait. -/
def State.judgeRun (s : State) : Nat → State
  | 0 => s
  | fuel + 1 =>
    match s.judgeHead with
    | none => s
    | some s' => s'.judgeRun fuel

/-- The Release Unit judges its head, and every entry that becomes the head (R135). -/
def State.judge (s : State) : State := s.judgeRun (2 * s.releaseQueue.length)

/-! ## A freed slot (R72, R73, R137) -/

/-- Who may take a slot of an Issue Queue that is freed (R72). -/
inductive Taker where
  /-- The Split Unit, by its grant pass. -/
  | grantPass
  /-- The Release Queue head that waits for room. -/
  | head
  /-- Trunk Intake, with the write at the head of its buffer. -/
  | intake
  deriving DecidableEq, Repr

/-- Another source than Intake has an operation for the queue of branch b: the waiting head, or the grant pass (R72). -/
def State.slotWanted (s : State) (b : Fin 4) : Bool :=
  s.headTakesSlot.isSome || decide ((s.branch b).queue.length < (s.grantPass.branch b).queue.length)

/-- Who may be first at a freed slot of branch b (R72, R137). A write that no other source meets is left to a step of its own
(log 40). -/
def State.slotTakers (s : State) (b : Fin 4) : List Taker :=
  .grantPass :: ((if s.headTakesSlot.isSome then [.head] else []) ++
    (if (s.intakeTakesSlot b).isSome && s.slotWanted b then [.intake] else []))

/-- Slots of branch b have been freed: at most `fuel` turns of the waiting head and of Intake come before the grant pass. When
the head has been released, the heads behind it are judged at once (R135). Every turn shortens the Release Queue or the buffer.
A slot that the pass leaves goes to the waiting head, judged at the end of the event, before Intake's write, which is left to a
step of its own: the model's choice (log 51). -/
def State.slotFreedIn (s : State) (b : Fin 4) : Nat → State
  | 0 => s.grantPass
  | fuel + 1 =>
    match s.pick (s.slotTakers b) with
    | some (.head, s') =>
      match s'.headTakesSlot with
      | none => s'.grantPass
      | some t => t.judge.slotFreedIn b fuel
    | some (.intake, s') =>
      match s'.intakeTakesSlot b with
      | none => s'.grantPass
      | some t => t.slotFreedIn b fuel
    | some (.grantPass, s') => s'.grantPass
    | none => s

/-- A slot of branch b's Issue Queue has been freed: the waiting Release Queue head, Intake with the writes in its buffer, and
the grant pass take what is free in an order the spec leaves free (R72, R73, R137; log 5, 40), but that behind the pass the head
comes before Intake (log 51). -/
def State.slotFreed (s : State) (b : Fin 4) : State := s.slotFreedIn b (2 * s.releaseQueue.length + s.intake.length)

end Sys2Proof.Machine
end

