-- ==== Sys2Proof/Machine/Split.lean ====
section
/-! DEFINITION. The Split Unit (chapter 3): stored bytes, readiness, closing, abandoning and freeing of split entries. -/

namespace Sys2Proof.Machine

/-! ## Frames in flight and readiness -/

/-- The data bytes of the entry's own frame in flight: none when no frame of place i is in flight (R59). -/
def State.inFlightOf (s : State) (i : Fin 16) : Option InFlight :=
  match s.sending with
  | some f => if f.source = .split i then some f else none
  | none => none

/-- How many bytes of place i are in a data frame in flight (R59). -/
def State.bytesInFlight (s : State) (i : Fin 16) : Nat :=
  match s.inFlightOf i with
  | some f => f.dataCount
  | none => 0

/-- The FINAL frame of the entry in place i has begun to be sent: in flight or sent (R59, R62). -/
def State.finalBegun (s : State) (i : Fin 16) (e : SplitEntry) : Bool :=
  e.finalSent || (match s.inFlightOf i with
    | some f => f.final
    | none => false)

/-- CLOSING with SHORT (R55). -/
def SplitEntry.closingShort (e : SplitEntry) : Bool := decide (e.state = .closing ∧ e.finalStatus = some .short)

/-- The entry keeps and sends its data: GATHERING, DELIVERING or CLOSING with SHORT (R44, R57). -/
def SplitEntry.delivers (e : SplitEntry) : Bool :=
  decide (e.state = .gathering ∨ e.state = .delivering) || e.closingShort

/-- Enough waits for a data frame (R57, first case). -/
def dataReady (occupancy : Nat) (e : SplitEntry) : Bool :=
  !e.held.isEmpty &&
    (decide (Config.frameBytes ≤ e.held.length) || decide (e.received = e.length) ||
      decide (Config.highWater ≤ occupancy) || e.closingShort)

/-- The entry in place i has a frame ready (R57). -/
def State.frameReady (s : State) (i : Fin 16) : Bool :=
  match s.entry i with
  | none => false
  | some e =>
    (s.inFlightOf i).isNone && !e.finalSent &&
      (if e.delivers then dataReady s.occupancy e || (e.closingShort && e.held.isEmpty) else true)

/-! ## Pieces -/

/-- Where a piece ends, counted in bytes from START. -/
def Piece.stop (e : SplitEntry) (p : Piece) : Nat := p.offset - e.start + p.length

/-- Every byte a piece has stored has been sent (R49). -/
def Piece.allSent (e : SplitEntry) (p : Piece) : Bool := decide (min (p.stop e) e.received ≤ e.sent)

/-- Every HELD piece whose stored bytes have all been sent is released (R49, R58). -/
def SplitEntry.releaseSent (e : SplitEntry) : SplitEntry :=
  { e with pieces := e.pieces.filter fun p => !(decide (p.state = .held) && p.allSent e) }

/-- The entry has an ACTIVE piece (R45). -/
def SplitEntry.hasActive (e : SplitEntry) : Bool := e.pieces.any fun p => decide (p.state = .active)

/-- Only the ACTIVE piece stays: QUEUED and HELD pieces are released (R56, R63). -/
def SplitEntry.onlyActive (e : SplitEntry) : SplitEntry :=
  { e with pieces := e.pieces.filter fun p => decide (p.state = .active) }

/-- A QUEUED piece becomes ACTIVE when the engine takes it (R45, R73). -/
def SplitEntry.activate (e : SplitEntry) (offset : Nat) : SplitEntry :=
  { e with pieces := e.pieces.map fun p => if p.offset = offset ∧ p.state = .queued then { p with state := .active } else p }

/-- The operation is a piece of place i. -/
def Operation.isPieceOf (o : Operation) (i : Fin 16) : Bool :=
  match o.body with
  | .readPiece j _ _ => i == j
  | _ => false

/-- Every QUEUED piece of place i is removed from its Issue Queue, the one of the route's branch (R74). -/
def State.dropQueued (s : State) (i : Fin 16) (b : Fin 4) : State :=
  s.modBranch b fun br => { br with queue := br.queue.filter fun o => !o.isPieceOf i }

/-! ## Ending a read -/

/-- The state change of an abandon (R63) or an error closing (R56): the entry takes the state and the FINAL STATUS, its
QUEUED pieces leave the Issue Queue, QUEUED and HELD pieces are released, and its held bytes are discarded but for those of
a frame in flight (R59). An ACTIVE piece stays until its run ends. -/
def State.endEntry (s : State) (i : Fin 16) (st : EntryState) (status : Status) : State :=
  match s.entry i with
  | none => s
  | some e =>
    let e' := { e.onlyActive with
      state := st, finalStatus := some status, held := e.held.take (s.bytesInFlight i) }
    (s.setEntry i (some e')).dropQueued i e.route.branch

/-- A split entry is freed (R65): its place becomes free, its AGE is gone; the waiting attention entries claim the place
(R161), and a freed poll returns its attention entry to holdoff (R162). -/
def State.freeEntry (s : State) (i : Fin 16) : State :=
  match s.entry i with
  | none => s
  | some e =>
    let s0 := s.setEntry i none
    let s' := { s0 with ageOrder := s0.ageOrder.filter fun j => !(j == i) }
    match e.owner with
    | .trunk _ => s'.claims
    | .attn b => s'.pollFreed b

/-- The entry is freed when its FINAL frame has been sent and it has no ACTIVE piece (R65). -/
def State.freeIfDone (s : State) (i : Fin 16) : State :=
  match s.entry i with
  | none => s
  | some e => if e.finalSent && !e.hasActive then s.freeEntry i else s

/-- The ACTIVE piece of an entry is released. -/
def SplitEntry.dropActive (e : SplitEntry) : SplitEntry :=
  { e with pieces := e.pieces.filter fun p => !decide (p.state = .active) }

/-- The ACTIVE piece of an entry becomes HELD, and is released at once when its bytes have all been sent (R53). -/
def SplitEntry.holdActive (e : SplitEntry) : SplitEntry :=
  SplitEntry.releaseSent
    { e with pieces := e.pieces.map fun p => if p.state = .active then { p with state := .held } else p }

/-- CLOSING with SHORT (R55): the QUEUED pieces are removed and released, the piece that met NACK is released when it stored
no byte and HELD otherwise, and the bytes held are kept. -/
def State.closeShort (s : State) (i : Fin 16) (e : SplitEntry) (pieceOffset : Nat) : State :=
  let stored := decide (pieceOffset < e.start + e.received)
  let e1 := { e with pieces := e.pieces.filter fun (p : Piece) => !decide (p.state = PieceState.queued) }
  let e2 := if stored then e1.holdActive else e1.dropActive
  (s.setEntry i (some { e2 with state := .closing, finalStatus := some .short })).dropQueued i e.route.branch

/-- What the end of the run of its ACTIVE piece does to the entry e of place i (R53 to R56). -/
def State.settlePiece (s : State) (i : Fin 16) (e : SplitEntry) (o : Operation) (length : Nat) (first : Bool)
    (status : Status) : State :=
  if e.state = .gathering ∨ e.state = .delivering then
    if status = .ok ∨ o.offset + length ≤ e.start + e.received then s.setEntry i (some e.holdActive)
    else if status = .nack ∧ first = false ∧ o.persist = false then s.closeShort i e o.offset
    else (s.setEntry i (some e.dropActive)).endEntry i .closing status
  else s.setEntry i (some e.dropActive)

/-- The engine reports the end of the run of the ACTIVE piece of place i (R53 to R56). `status` is the run's status. A grant
pass follows the units released, and a waiting Release Queue head or a write in Intake's buffer may take a slot that a closing or
an abandon has freed, before or after the pass (R48, R72; log 40). -/
def State.pieceEnd (s : State) (i : Fin 16) (o : Operation) (length : Nat) (first : Bool) (status : Status) : State :=
  match s.entry i with
  | none => s
  | some e => ((s.settlePiece i e o length first status).slotFreed e.route.branch).freeIfDone i

/-! ## Storing bytes -/

/-- Whether the byte at a position of a piece will be stored: it follows the entry's RECEIVED bytes and the entry is
GATHERING (R51, R94). -/
def State.byteWanted (s : State) (i : Fin 16) (subaddress : Nat) : Bool :=
  match s.entry i with
  | none => false
  | some e => decide (e.state = .gathering ∧ subaddress = e.start + e.received)

/-- A byte is stored for the entry in place i (R51); the byte that makes RECEIVED equal LENGTH takes the entry to DELIVERING
with FINAL STATUS OK (R53). -/
def State.storeByte (s : State) (i : Fin 16) (byte : Byte) : State :=
  match s.entry i with
  | none => s
  | some e =>
    let e' := { e with received := e.received + 1, held := e.held ++ [byte] }
    s.setEntry i (some
      (if e'.received = e'.length then { e' with state := .delivering, finalStatus := some .ok } else e'))

/-! ## Deadlines -/

/-- A stamp is due: the counter minus the stamp, modulo 2^32, is below 2^31 (R130). -/
def isDue (counter stamp : Stamp) : Bool := decide ((counter - stamp).toNat < 2 ^ 31)

/-- The deadline of the entry in place i is due and an expiry can be taken: GATHERING or DELIVERING, and the FINAL frame has
not begun to be sent (R61, R62). -/
def State.expiryDue (s : State) (i : Fin 16) : Bool :=
  match s.entry i with
  | none => false
  | some e => decide (e.state = .gathering ∨ e.state = .delivering) && !s.finalBegun i e && isDue s.stamp e.deadline

/-- A first expiry under EXTEND (R62): SPLIT_SLOW, and DEADLINE advances by the class value in force now. -/
def State.extendDeadline (s : State) (i : Fin 16) (e : SplitEntry) : State :=
  (s.setEntry i (some { e with
    deadline := e.deadline + s.timeoutClasses[e.route.timeoutClass.val].setWidth 32
    extended := true })).setFlag .splitSlow

end Sys2Proof.Machine
end

