-- ==== Sys2Proof/Machine/Sending.lean ====
section
/-! DEFINITION. The Trunk Transmitter's frames (chapter 6): their content, the choice of the next frame, and its beginning. -/

namespace Sys2Proof.Machine

/-! ## Building frames (R120 to R123) -/

/-- A frame as it is sent: SYNC, KIND, REQTAG, BODYLEN, BODY, CHECK (R18, R120). -/
def frameBytes (kind reqtag : Byte) (body : List Byte) : List Byte :=
  let covered := kind :: reqtag :: BitVec.ofNat 8 body.length :: body
  0xA5 :: covered ++ bytes16 (crc covered)

/-- SOURCE: the bridge number (R27, R40). -/
def State.source (s : State) : Byte := s.bridgeNumber.setWidth 8

/-- FLAGS: bit 0 is FINAL (chapter 2, section 2.3.3). -/
def flagsByte (final : Bool) : Byte := if final then 1 else 0

/-- A subaddress or an OFFSET as the two bytes of its field. -/
def offsetBytes (offset : Nat) : List Byte := bytes16 (BitVec.ofNat 16 offset)

/-- The frame of a Response Queue record (R121). -/
def State.recordFrame (s : State) (r : Record) : List Byte :=
  match r.body with
  | .completion offset =>
    frameBytes 0x81 r.rt.toByte (s.source :: r.status.code :: flagsByte true :: offsetBytes offset)
  | .mgmt failWord data _ =>
    frameBytes 0x82 r.rt.toByte (s.source :: r.status.code :: BitVec.ofNat 8 failWord :: data)

/-- RESET FOLLOWS of a record (R113). -/
def Record.resetFollows (r : Record) : Bool :=
  match r.body with
  | .completion _ => false
  | .mgmt _ _ follows => follows

/-- The NOTICE: every event flag that is set (R123). -/
def State.noticeFrame (s : State) : List Byte := frameBytes 0x83 0 (s.source :: bytes16 (s.flags.setWidth 16))

/-- DATA, OFFSET, STATUS and FINAL of a split entry's frame (R58). -/
structure SplitContent where
  data : List Byte
  offset : Nat
  status : Status
  final : Bool
  deriving DecidableEq, Repr

/-- FINAL STATUS when present; an entry that sends a status-only frame has one (R43). -/
def SplitEntry.status (e : SplitEntry) : Status := e.finalStatus.getD .ok

/-- The content of an entry's frame, by its state (R58). -/
def SplitEntry.content (e : SplitEntry) : SplitContent :=
  let last := decide (e.held.length ≤ Config.frameBytes)
  let data := e.held.take Config.frameBytes
  let offset := e.start + e.sent
  match e.state with
  | .gathering => { data := data, offset := offset, status := .ok, final := false }
  | .delivering => { data := data, offset := offset, status := .ok, final := last }
  | .closing =>
    if e.closingShort then { data := data, offset := offset, status := if last then .short else .ok, final := last }
    else { data := [], offset := offset, status := e.status, final := true }
  | .abandoned => { data := [], offset := offset, status := e.status, final := true }

/-- The frame of a split entry: a COMPLETION, or for a poll an ATTENTION REPORT (R122). -/
def State.splitFrame (s : State) (e : SplitEntry) : List Byte :=
  let c := e.content
  let tail := c.status.code :: flagsByte c.final :: (offsetBytes c.offset ++ c.data)
  match e.owner with
  | .trunk rt => frameBytes 0x81 rt.toByte (s.source :: tail)
  | .attn b => frameBytes 0x84 0 (s.source :: BitVec.ofNat 8 b.val :: tail)

/-! ## The choice (R116 to R119) -/

/-- The places in the order of the round robin: from the one after LAST SERVED to LAST SERVED itself (R118). -/
def State.roundRobin (s : State) : List (Fin 16) := sixteen.map fun k => s.lastServed + 1 + k

/-- The place that the round robin chooses (R118). -/
def State.readyPlace (s : State) : Option (Fin 16) := s.roundRobin.find? s.frameReady

/-- A candidate for the next frame exists (R117). -/
def State.hasCandidate (s : State) : Bool :=
  !s.responseQueue.isEmpty || s.noticePending || s.readyPlace.isSome

/-- A frame may begin: SENDING is idle and HOLD-IN is released (R116, R119). -/
def State.mayBegin (s : State) : Bool := s.sending.isNone && !s.holdIn

/-- The head record's frame begins, and the record leaves the queue (R115, R121). -/
def State.sendRecord (s : State) (r : Record) (rest : List Record) : State :=
  { s with
    responseQueue := rest
    sending := some
      { source := .record r.resetFollows, dataCount := 0, final := false, bytes := s.recordFrame r } }

/-- The NOTICE begins, and the pending mark is cleared (R123). -/
def State.sendNotice (s : State) : State :=
  { s with
    noticePending := false
    sending := some { source := .notice, dataCount := 0, final := false, bytes := s.noticeFrame } }

/-- The frame of the entry in place i begins (R118, R122). -/
def State.sendSplit (s : State) (i : Fin 16) (e : SplitEntry) : State :=
  { s with
    lastServed := i
    sending := some
      { source := .split i, dataCount := e.content.data.length, final := e.content.final, bytes := s.splitFrame e } }

/-- The transmitter chooses and begins a frame when a candidate exists (R116, R117). -/
def State.beginFrame (s : State) : State :=
  if s.mayBegin then
    match s.responseQueue with
    | r :: rest => s.sendRecord r rest
    | [] =>
      if s.noticePending then s.sendNotice
      else match s.readyPlace with
        | none => s
        | some i =>
          match s.entry i with
          | none => s
          | some e => s.sendSplit i e
  else s

end Sys2Proof.Machine
end

