-- ==== Sys2Proof/Machine/Settle.lean ====
section
/-! DEFINITION. What the part does in the event in which it first may, after the effects of a step (log 38): the engines take
operations (R90), answers enter the Response Queue (R81), the Release Unit judges its head (R135), the transmitter begins a
frame (R116), and DRAINING ends in QUIET (R176). -/

namespace Sys2Proof.Machine

/-! ## The bus watch (R89, R91, R102) -/

/-- The bus becomes BUSY under OTHER, or another party goes on owning it. A new busy period starts the busy timer from 0 and
clears its mark (R102). -/
def Branch.seeOther (br : Branch) : Branch :=
  if br.bus = .busyOther then br else { br with bus := .busyOther, busyTimer := 0, busyFlagged := false }

/-- STOP is seen: the bus becomes FREE, the gap timer restarts and the busy timer stops (R89, R91, R102). -/
def Branch.seeStop (br : Branch) : Branch := { br with bus := .free, gapTimer := 0, busyTimer := 0, stretchCounter := 0 }

/-! ## Attempts -/

/-- The operation is a READ PIECE. -/
def Operation.isRead (o : Operation) : Bool :=
  match o.body with
  | .readPiece _ _ _ => true
  | _ => false

/-- DATA of a write; none for a piece. -/
def Operation.data (o : Operation) : List Byte :=
  match o.body with
  | .readPiece _ _ _ => []
  | .posted d => d
  | .confirmed _ d => d
  | .timed _ d _ => d

/-- The engine makes START (R90, R92, R93): step 1 of the transaction at the RATE now in force (R105). The START is seen in
the same event and the bus is BUSY under SELF (R89; log 12). A piece of width 0 begins with direction read (R93). -/
def Branch.makeStart (br : Branch) (o : Operation) : Branch :=
  { br with
    phase := .start, bus := .busySelf, rateInUse := br.rate, stretchCounter := 0, stopReason := .done
    progress := { Progress.none with readDirection := o.isRead && decide (o.width = 0) } }

/-- An attempt begins, or waits for the bus: START when the bus is FREE and the gap timer has reached GAP, GAP when it is
FREE, BUSY_OTHER when it is BUSY (R90, R91). -/
def Branch.beginAttempt (br : Branch) (o : Operation) : Branch :=
  if br.bus = .free then
    if br.gap.toNat ≤ br.gapTimer then br.makeStart o
    else { br with phase := .gap, progress := Progress.none }
  else { br with phase := .busyOther, progress := Progress.none }

/-! ## Taking an operation (R73, R90) -/

/-- The engine of branch b may take the head of its queue (R73, R80, R90, R111). -/
def State.mayTake (s : State) (b : Fin 4) : Bool :=
  let br := s.branch b
  decide (br.phase = .idle) && !br.resetting && br.answers.isEmpty && !br.queue.isEmpty &&
    decide (s.opState = .active ∨ s.opState = .draining ∨ s.opState = .offline)

/-- The engine of branch b takes operation o, the head of its queue; a READ PIECE becomes ACTIVE (R73, R90). -/
def State.takeOp (s : State) (b : Fin 4) (o : Operation) (rest : List Operation) : State :=
  let s1 := s.modBranch b fun br =>
    Branch.beginAttempt { br with queue := rest, op := some o, retryCount := 0, lastCause := .absent, told := none } o
  match o.body with
  | .readPiece i _ _ => s1.setEntry i ((s1.entry i).map fun e => e.activate o.offset)
  | _ => s1

/-- The engine of branch b takes the head of its queue, which frees a slot (R73). -/
def State.takeNext (s : State) (b : Fin 4) : State :=
  match (s.branch b).queue with
  | [] => s
  | o :: rest => (s.takeOp b o rest).slotFreed b

/-! ## Answers (R80, R81) -/

/-- The head record of branch b's answer list can enter the Response Queue (R81). -/
def State.mayPost (s : State) (b : Fin 4) : Bool := !(s.branch b).answers.isEmpty && s.recordRoom

/-- The head record of branch b's answer list enters the Response Queue; the engine leaves POSTING when the list is empty
(R81). -/
def State.postNext (s : State) (b : Fin 4) : State :=
  match (s.branch b).answers with
  | [] => s
  | r :: rest =>
    (s.pushRecord r).modBranch b fun br =>
      { br with answers := rest, phase := if br.phase = .posting ∧ rest = [] then .idle else br.phase }

/-! ## What follows at once (log 38) -/

/-- A thing that the part does in the event in which it first may. -/
inductive Follow where
  /-- The engine of a branch takes its queue head (R90). -/
  | take (b : Fin 4)
  /-- The head of a branch's answer list enters the Response Queue (R81). -/
  | post (b : Fin 4)
  /-- The Release Unit judges its head, and what becomes the head (R135). -/
  | judge
  deriving DecidableEq, Repr

/-- Everything that follows at once in a state, but for the beginning of a frame. -/
def State.follows (s : State) : List Follow :=
  (four.filter s.mayTake).map Follow.take ++ (four.filter s.mayPost).map Follow.post ++
    (if s.judgeHead.isSome then [Follow.judge] else [])

/-- One thing that follows is done. -/
def State.follow (s : State) (f : Follow) : State :=
  match f with
  | .take b => s.takeNext b
  | .post b => s.postNext b
  | .judge => s.judge

/-- At most `fuel` things that follow are done, one after another; which of several is first is a free choice (log 5). -/
def State.settleIn (s : State) : Nat → State
  | 0 => s
  | fuel + 1 =>
    match s.pick s.follows with
    | none => s
    | some (f, s') => (s'.follow f).settleIn fuel

/-- More than the things that can follow one another in a state: an engine that has taken is not IDLE, an answer posted has left
its list, and an entry of the Release Queue begins to wait once and leaves once. -/
def State.followFuel (s : State) : Nat :=
  4 + ((four.map fun b => (s.branch b).answers.length).sum + 2 * s.releaseQueue.length)

/-- Everything that follows at once is done, but for the beginning of a frame. -/
def State.settle (s : State) : State := s.settleIn s.followFuel

/-- A frame begins at once (R116). -/
def State.beginsFrame (s : State) : Bool := s.mayBegin && s.hasCandidate

/-! ## Quiescence (R176) -/

/-- The condition of R176 that takes DRAINING to QUIET. A frame that waits in the buffer is taken first: while the Response
Queue is empty Intake takes every frame (R29, R176). -/
def State.quiescent (s : State) : Bool :=
  decide (s.entriesInUse = 0) && four.all (fun b => (s.branch b).queue.isEmpty) && s.responseQueue.isEmpty &&
    !s.noticePending && s.sending.isNone && s.intake.isEmpty

/-- The bridge goes from DRAINING to QUIET when the condition holds (R176). -/
def State.quiesce (s : State) : State :=
  if s.opState = .draining ∧ s.quiescent = true then { s with opState := .quiet } else s

/-! ## The end of an event -/

/-- The end of an event (log 38): what follows at once is done; then the transmitter begins a frame when it may, which can free
a place of the Response Queue for what follows further (R115, R116); and the bridge goes from DRAINING to QUIET when nothing is
left to do (R176). Of several steps that come together, the first that lets a frame begin begins it, so that a NOTICE does not
carry a flag that the next of them sets: the model's choice (R116, R173; log 52). -/
def State.endEvent (s : State) : State := (((s.settle).beginFrame).settle).quiesce

end Sys2Proof.Machine
end

