-- ==== Sys2Proof/Machine/Engine.lean ====
section
/-! DEFINITION. The Branch Engines (chapter 5) and the answers of branch writes (chapter 4): bytes, retries, the end of a run,
ending a run early, the bus clear, and the steps of the engine family. -/

namespace Sys2Proof.Machine

/-! ## Bytes on the bus (R92, R93) -/

/-- The address byte of an operation: BUS ADDRESS and the direction bit, 1 for reading (R92, R93). -/
def Operation.addressByte (o : Operation) (reading : Bool) : Byte := o.busAddress ++ BitVec.ofBool reading

/-- The SUBADDRESS WIDTH bytes of OFFSET, high byte first (R92, R93; 00_scope.md, Conventions, Byte order). -/
def Operation.subaddress (o : Operation) : List Byte := (bytes16 (BitVec.ofNat 16 o.offset)).drop (2 - o.width.val)

/-- The byte that the engine sends on its branch; none in the states in which it sends none (R87, R92, R93). -/
def Branch.sends (br : Branch) : Option Byte :=
  match br.op with
  | none => none
  | some o =>
    match br.phase with
    | .address => some (o.addressByte br.progress.readDirection)
    | .subaddress => o.subaddress[br.progress.subaddressDone]?
    | .writeData => o.data[br.progress.dataDone]?
    | _ => none

/-- The acknowledge bit that the engine gives after the byte it receives of a piece of some length: ACK after each byte but the
last, and NACK after the last or when it was told to end its run (R93, R103). -/
def Branch.givesAck (br : Branch) (length : Nat) : Bool :=
  br.told.isNone && decide (br.progress.dataDone + 1 < length)

/-! ## Taking an operation (R73, R90) -/

/-- ENGINE_TAKE_OPERATION (R73, R90): an IDLE engine takes the head of its queue (log 38). -/
def execEngineTakeOperation (b : Fin 4) (s : State) : Host.Outcome State Fault Refusal :=
  .next (if s.mayTake b then (s.takeNext b).endEvent else s)

/-! ## Told to end (R83, R103) -/

/-- Every byte of a write has been acknowledged: its address byte, every subaddress byte and every data byte (R83, R100). -/
def Operation.allAcked (o : Operation) (p : Progress) : Bool :=
  !o.isRead && p.addressAcked && decide (p.subaddressDone = o.width.val) && decide (p.dataDone = o.data.length)

/-- The status of a run ended early: that of the cause, or OK for a write that has reached its device (R83, R103). For a
piece whose bytes are no longer wanted the status plays no part (R54; log 30). -/
def endStatus (o : Operation) (p : Progress) (cause : EndCause) : Status :=
  if o.allAcked p then .ok
  else match cause with
    | .branchReset => .branchReset
    | .aborted => .aborted
    | .unwanted => .aborted

/-! ## Outcomes (R76 to R79, R104) -/

/-- A failed posted write is handed to the fault record: it occupies an empty one, or makes MORE yes (R77); WRITE_FAILED is
set in the same event (R76). -/
def State.recordFault (s : State) (b : Fin 4) (o : Operation) (status : Status) : State :=
  let record : FaultRecord :=
    match s.fault with
    | none => { branch := b, busAddress := o.busAddress, ldn := o.ldn, offset := o.offset, status := status, more := false }
    | some r => { r with more := true }
  ({ s with fault := some record }).setFlag .writeFailed

/-- OFFSET of a write's completion: on DATA_NACK the first byte the device did not take, else the write's OFFSET (R78). -/
def answerOffset (o : Operation) (status : Status) (dataDone : Nat) : Nat :=
  if status = .dataNack then o.offset + dataDone else o.offset

/-- The outcome of a run is handed on as the operation's kind requires (R104, R76, R78, R79). A group that the report makes fire
acts on its lines before a TIMED LATCH, or a group that a BRANCH_OFF makes fire, when the Release Queue's head is judged later
in the event: the model's choice (R155; log 48). -/
def State.handOn (s : State) (b : Fin 4) (o : Operation) (status : Status) (dataDone : Nat) : State :=
  match o.body with
  | .readPiece i length first => s.pieceEnd i o length first status
  | .posted _ => if status = .ok ∨ status = .aborted then s else s.recordFault b o status
  | .confirmed rt _ => s.addAnswer b (completion rt status (answerOffset o status dataDone))
  | .timed rt _ member =>
    let s' := s.addAnswer b (completion rt status (answerOffset o status dataDone))
    if status = .aborted then s' else s'.reportMember member (decide (status = .ok))

/-- The engine has dropped its operation (R104). -/
def Branch.dropOp (br : Branch) : Branch :=
  { br with
    op := none, retryCount := 0, lastCause := .absent, progress := Progress.none, stopReason := .done, told := none
    pauseTimer := 0, pauseLength := 0, phase := .posting }

/-- The engine waits for its answer list, or is IDLE (R104, R101, R106, R108). -/
def Branch.settle (br : Branch) : Branch := { br with phase := if br.answers.isEmpty then .idle else .posting }

/-- A bus clear begins at the RATE now in force (R101, R105), and the stretch counter counts its waits from 0 (log 19). The
engine shows CLEARING, or RESETTING in a branch reset, through the clear's STOP too (R87; log 20). -/
def Branch.beginClear (br : Branch) : Branch := { br with phase := .clearing, rateInUse := br.rate, stretchCounter := 0 }

/-- The next state of an engine whose run has ended (R104, R108). -/
def Branch.afterRun (br : Branch) (stuck : Bool) : Branch :=
  if br.resetting || stuck then br.beginClear else br.settle

/-- The run of branch b ends with a status (R104). -/
def State.endRun (s : State) (b : Fin 4) (status : Status) (stuck : Bool) : State :=
  match (s.branch b).op with
  | none => s
  | some o =>
    let dataDone := (s.branch b).progress.dataDone
    let s1 := (s.modBranch b Branch.dropOp).handOn b o status dataDone
    (s1.modBranch b fun br => br.afterRun stuck).roomFreed

/-- An engine is told to end its run (R103). In GAP, BUSY_OTHER and PAUSE it ends at once; in START and RESTART it goes to
STOP (log 17); in STALL it releases the clock for one more byte; else it goes to the byte boundary. A reserved place is
given back (R94; log 18). The first cause stands. -/
def State.tellEnd (s : State) (b : Fin 4) (cause : EndCause) : State :=
  let br := s.branch b
  match br.op with
  | none => s
  | some o =>
    if br.phase = .gap ∨ br.phase = .busyOther ∨ br.phase = .pause then
      s.endRun b (endStatus o br.progress cause) false
    else
      (s.modBranch b fun x =>
        { x with
          told := some (x.told.getD cause)
          progress := { x.progress with reserved := false }
          phase :=
            if x.phase = .start ∨ x.phase = .restart then .stop
            else if x.phase = .stall then .readData
            else x.phase }).roomFreed

/-! ## Abandon and expiry (R62, R63) -/

/-- The engine that runs the ACTIVE piece of place i on branch b is told that its bytes are no longer wanted (R52, R63). -/
def State.tellUnwanted (s : State) (i : Fin 16) (b : Fin 4) : State :=
  match (s.branch b).op with
  | none => s
  | some o => if o.isPieceOf i then s.tellEnd b .unwanted else s

/-- An entry is abandoned with a status (R63); a grant pass follows, even when the entry had no piece to release (R48;
log 41). A waiting Release Queue head or a write in Intake's buffer may take a slot that its QUEUED pieces free before or after each
grant pass of the event: that of a run which ends at once (GAP, BUSY_OTHER, PAUSE) and that of the abandon (R72, R137; log 40). -/
def State.abandon (s : State) (i : Fin 16) (status : Status) : State :=
  match s.entry i with
  | none => s
  | some e => ((((s.endEntry i .abandoned status).tellUnwanted i e.route.branch).slotFreed e.route.branch).roomFreed)

/-- The expiry of the entry in place i is taken when it is due (R62). -/
def State.expire (s : State) (i : Fin 16) : State :=
  match s.entry i with
  | none => s
  | some e =>
    if s.expiryDue i then
      if e.route.timeoutPolicy = .extend ∧ e.extended = false then s.extendDeadline i e
      else (s.abandon i .timeout).setFlag .splitTimeout
    else s

/-- DEADLINE_EXPIRY (R61, R62): the deadline of the entry in a place is found due. One that is due again after it was extended
is a step due at once (log 24). That the expiry is a step behind the advance of the counter that made it due, and behind the
Release Queue's head judged there, is the model's choice (log 50). -/
def execDeadlineExpiry (place : Fin 16) (s : State) : Host.Outcome State Fault Refusal :=
  .next (if s.expiryDue place then (s.expire place).endEvent else s)

/-! ## Waiting for the bus -/

/-- GAP_ELAPSED (R90, R91): the gap timer reaches GAP while the engine waits in GAP, and the engine makes START. -/
def execGapElapsed (b : Fin 4) (s : State) : Host.Outcome State Fault Refusal :=
  match (s.branch b).op with
  | none => .next s
  | some o =>
    .next (if (s.branch b).phase = .gap then
      s.modBranch b fun br => Branch.makeStart { br with gapTimer := max br.gapTimer br.gap.toNat } o
    else s)

/-- The pause timer has reached its length: what it still lacked has passed for the gap timer too (R91, R97; log 4). -/
def Branch.endPause (br : Branch) : Branch :=
  { br with
    gapTimer := if br.bus = .free then min 255 (br.gapTimer + (br.pauseLength - br.pauseTimer)) else br.gapTimer
    pauseTimer := 0
    pauseLength := 0 }

/-- PAUSE_ELAPSED (R97, R91): the pause timer reaches its length, and the operation restarts or waits for the bus. -/
def execPauseElapsed (b : Fin 4) (s : State) : Host.Outcome State Fault Refusal :=
  match (s.branch b).op with
  | none => .next s
  | some o =>
    .next (if (s.branch b).phase = .pause then
      s.modBranch b fun br => br.endPause.beginAttempt o
    else s)

/-! ## Arbitration (R95, R96) -/

/-- The phases in which the engine runs a transfer and may lose arbitration: START to STOP but STALL, where the engine holds
the clock (R94, R95). -/
def Phase.transfers (p : Phase) : Bool :=
  decide (p = .start ∨ p = .address ∨ p = .subaddress ∨ p = .writeData ∨ p = .restart ∨ p = .readData ∨ p = .stop)

/-- The lines are released and the bus belongs to the winner (R95); a reserved place is given back (R94). -/
def Branch.release (br : Branch) : Branch :=
  { br.seeOther with progress := { br.progress with reserved := false }, stretchCounter := 0 }

/-- A loss has been counted: the run ends with ARB_EXHAUSTED when RETRY COUNT exceeds RETRY LIMIT, else the operation waits
in BUSY_OTHER and restarts from step 1 (R95). -/
def State.afterLoss (s : State) (b : Fin 4) (o : Operation) : State :=
  if o.retryLimit.val < (s.branch b).retryCount then s.endRun b .arbExhausted false
  else (s.modBranch b fun br => { br with phase := .busyOther, progress := Progress.none }).roomFreed

/-- The engine of branch b loses arbitration during a transfer (R95, R96, R97, R98, R103). -/
def State.loseArbitration (s : State) (b : Fin 4) : State :=
  let br := s.branch b
  match br.op with
  | none => s
  | some o =>
    if br.phase.transfers then
      let s1 := s.modBranch b Branch.release
      match br.told with
      | some cause => s1.endRun b (endStatus o br.progress cause) false
      | none =>
        if br.phase = .stop then
          match br.stopReason with
          | .done => s1.endRun b (if o.isRead then .arbExhausted else .ok) false
          | .dataNack => s1.endRun b .dataNack false
          | .addressNack => (s1.modBranch b fun x => { x with lastCause := .arbitration }).afterLoss b o
        else
          (s1.modBranch b fun x => { x with retryCount := x.retryCount + 1, lastCause := .arbitration }).afterLoss b o
    else s

/-- ARBITRATION_LOSS (R95). -/
def execArbitrationLoss (b : Fin 4) (s : State) : Host.Outcome State Fault Refusal := .next (s.loseArbitration b).endEvent

/-! ## START and STOP on the lines (R89, R90) -/

/-- START by another party is seen (R89, R90, R95), and with it the clock line high (R99; log 19). Before the engine's own START
is formed it costs no retry (log 12); in the middle of a transfer it is a loss, but not in STALL (log 31); a repeated START leaves
the owner unchanged. -/
def State.otherStart (s : State) (b : Fin 4) : State :=
  let br := s.branch b
  if br.phase = .gap ∨ br.phase = .start then
    s.modBranch b fun x => { x.seeOther with phase := .busyOther, progress := Progress.none, stretchCounter := 0 }
  else if br.phase.transfers then s.loseArbitration b
  else if br.phase = .stall then s
  else s.modBranch b fun x => { (if x.bus = .free then x.seeOther else x) with stretchCounter := 0 }

/-- The engine's own START or repeated START is seen, and with it the clock line high (R99; log 19): the address byte follows (R92,
R93; log 12). -/
def State.ownStart (s : State) (b : Fin 4) : State :=
  if (s.branch b).phase = .start ∨ (s.branch b).phase = .restart then
    s.modBranch b fun br => { br with phase := .address, stretchCounter := 0 }
  else s

/-- BUS_START_SEEN (R89). -/
def execBusStartSeen (b : Fin 4) (party : Party) (s : State) : Host.Outcome State Fault Refusal :=
  match party with
  | .self => .next (s.ownStart b)
  | .other => .next (s.otherStart b).endEvent

/-- An engine in BUSY_OTHER goes on when STOP is seen: to GAP, or to START when GAP is 0 (R90). -/
def State.leaveBusyOther (s : State) (b : Fin 4) : State :=
  match (s.branch b).op with
  | none => s
  | some o => if (s.branch b).phase = .busyOther then s.modBranch b fun br => br.beginAttempt o else s

/-- STOP by another party is seen (R89, R90). In the middle of the engine's transfer it is first a loss of arbitration
(R95; log 14). -/
def State.otherStop (s : State) (b : Fin 4) : State :=
  if (s.branch b).phase = .stall then s
  else (((s.loseArbitration b).modBranch b Branch.seeStop).leaveBusyOther b)

/-- An address NACK ends the operation: a later piece without PERSIST at the first one, else when RETRY COUNT exceeds
RETRY LIMIT (R97). -/
def Operation.nackEnds (o : Operation) (retryCount : Nat) : Bool :=
  (match o.body with
    | .readPiece _ _ first => !first && !o.persist
    | _ => false) || decide (o.retryLimit.val < retryCount)

/-- The retry pause begins with the RETRY PAUSE now in force, or with RETRY PAUSE 0 the operation goes on at once (R97;
log 36, 37). -/
def Branch.beginPause (br : Branch) (o : Operation) : Branch :=
  if br.retryPause = 0 then br.beginAttempt o
  else { br with phase := .pause, pauseTimer := 0, pauseLength := br.retryPause.toNat * 16, progress := Progress.none }

/-- The engine's own STOP is seen (R89): the run ends (R92, R93, R97, R98, R103), or the retry pause begins (R97). -/
def State.ownStop (s : State) (b : Fin 4) : State :=
  let br := s.branch b
  match br.op with
  | none => s
  | some o =>
    if br.phase = .stop then
      let s1 := s.modBranch b Branch.seeStop
      match br.told with
      | some cause => s1.endRun b (endStatus o br.progress cause) false
      | none =>
        match br.stopReason with
        | .done => s1.endRun b .ok false
        | .dataNack => s1.endRun b .dataNack false
        | .addressNack =>
          if o.nackEnds br.retryCount then s1.endRun b .nack false
          else s1.modBranch b fun x => x.beginPause o
    else s

/-- BUS_STOP_SEEN (R89). -/
def execBusStopSeen (b : Fin 4) (party : Party) (s : State) : Host.Outcome State Fault Refusal :=
  match party with
  | .self => .next (s.ownStop b).endEvent
  | .other => .next (s.otherStop b).endEvent

/-- The STOP being made ends the run, rather than only a failed attempt (R97, R103, R104). -/
def Branch.runEnds (br : Branch) : Bool :=
  match br.op with
  | none => false
  | some o =>
    decide (br.phase = .stop) &&
      (br.told.isSome || decide (br.stopReason ≠ .addressNack) || o.nackEnds br.retryCount)

/-- RUN_END (R104): the STOP that ends the run is seen, and the outcome is handed on. -/
def execRunEnd (b : Fin 4) (s : State) : Host.Outcome State Fault Refusal :=
  .next (if (s.branch b).runEnds then (s.ownStop b).endEvent else s)

/-! ## Bytes (R92, R93, R94) -/

/-- The engine makes STOP (R92, R93, R97, R98). -/
def Branch.makeStop (br : Branch) (reason : StopReason) : Branch :=
  { br with phase := .stop, stopReason := reason, stretchCounter := 0 }

/-- Before a data byte of a piece the engine asks for room (R94): the byte that will be stored needs a reserved place, and
without room the engine goes to STALL; a byte the entry already holds is read at once. -/
def State.beginReadByte (s : State) (b : Fin 4) (i : Fin 16) (o : Operation) : State :=
  let wanted := s.byteWanted i (o.offset + (s.branch b).progress.dataDone)
  let room := decide (s.occupancy < Config.bufferBytes)
  s.modBranch b fun br =>
    { br with
      phase := if wanted && !room then .stall else .readData
      progress := { br.progress with reserved := wanted && room } }

/-- What follows the acknowledge of the last byte before the data of a write: the first data byte, or STOP (R92). -/
def Branch.toWriteData (br : Branch) (o : Operation) : Branch :=
  if o.data.isEmpty then br.makeStop .done else { br with phase := .writeData }

/-- An address byte is acknowledged (R92, R93). -/
def State.ackAddress (s : State) (b : Fin 4) (o : Operation) : State :=
  let s1 := s.modBranch b fun br => { br with stretchCounter := 0, progress := { br.progress with addressAcked := true } }
  if (s.branch b).told.isSome then s1.modBranch b fun br => br.makeStop .done
  else if (s.branch b).progress.readDirection then
    match o.body with
    | .readPiece i _ _ => s1.beginReadByte b i o
    | _ => s1
  else if o.width = 0 then s1.modBranch b fun br => br.toWriteData o
  else s1.modBranch b fun br => { br with phase := .subaddress }

/-- A subaddress byte is acknowledged: the next one, the data of a write, or the repeated START of a piece (R92, R93). -/
def Branch.ackSubaddress (br : Branch) (o : Operation) : Branch :=
  let br' := { br with
    stretchCounter := 0, progress := { br.progress with subaddressDone := br.progress.subaddressDone + 1 } }
  if br.told.isSome then br'.makeStop .done
  else if br'.progress.subaddressDone < o.width.val then br'
  else if o.isRead then { br' with phase := .restart, progress := { br'.progress with readDirection := true } }
  else br'.toWriteData o

/-- A data byte of a write is acknowledged: the next one, or STOP (R92). -/
def Branch.ackData (br : Branch) (o : Operation) : Branch :=
  let br' := { br with stretchCounter := 0, progress := { br.progress with dataDone := br.progress.dataDone + 1 } }
  if br.told.isSome then br'.makeStop .done
  else if br'.progress.dataDone < o.data.length then br'
  else br'.makeStop .done

/-- BYTE_ACK (R92, R93): the byte the engine sends is acknowledged. In START and RESTART that is the address byte that
follows at once (log 12). A place reserved for the first byte of a piece can bring the occupancy to 384, so that a frame begins
(R52, R57, R116). -/
def execByteAck (b : Fin 4) (s : State) : Host.Outcome State Fault Refusal :=
  match (s.branch b).op with
  | none => .next s
  | some o =>
    match (s.branch b).phase with
    | .start | .address | .restart => .next (s.ackAddress b o).endEvent
    | .subaddress => .next (s.modBranch b fun br => br.ackSubaddress o).endEvent
    | .writeData => .next (s.modBranch b fun br => br.ackData o).endEvent
    | _ => .next s

/-- ADDRESS_NACK (R97): the engine makes STOP and counts a failed attempt, also when it was told to end its run (R103). -/
def execAddressNack (b : Fin 4) (s : State) : Host.Outcome State Fault Refusal :=
  let br := s.branch b
  .next (if br.op.isSome ∧ (br.phase = .start ∨ br.phase = .address ∨ br.phase = .restart) then
    s.modBranch b fun x =>
      Branch.makeStop { x with retryCount := x.retryCount + 1, lastCause := .addressNack } .addressNack
  else s)

/-- DATA_NACK (R98): a subaddress byte or a data byte of a write is refused; the engine makes STOP, without a retry. -/
def execDataNack (b : Fin 4) (s : State) : Host.Outcome State Fault Refusal :=
  let br := s.branch b
  .next (if br.op.isSome ∧ (br.phase = .subaddress ∨ br.phase = .writeData) then
    s.modBranch b fun x => x.makeStop .dataNack
  else s)

/-- A byte of piece o of place i is received (R51, R93, R103): it is stored in its reserved place, or dropped; an engine told
to end its run does not offer it. After the last byte, or when told, the engine gives NACK and makes STOP. -/
def State.receiveData (s : State) (b : Fin 4) (o : Operation) (i : Fin 16) (length : Nat) (byte : Byte) : State :=
  let br := s.branch b
  if br.told.isSome then
    (s.modBranch b fun x => Branch.makeStop { x with progress := { x.progress with reserved := false } } .done).roomFreed
  else
    let stores := br.progress.reserved && s.byteWanted i (o.offset + br.progress.dataDone)
    let s1 := if stores then s.storeByte i byte else s
    let s2 := s1.modBranch b fun x =>
      { x with stretchCounter := 0, progress := { x.progress with reserved := false, dataDone := x.progress.dataDone + 1 } }
    let s3 := if stores then s2 else s2.roomFreed
    if br.givesAck length then s3.beginReadByte b i o
    else s3.modBranch b fun x => x.makeStop .done

/-- READ_BYTE_RECEIVED (R51). -/
def execReadByteReceived (b : Fin 4) (byte : Byte) (s : State) : Host.Outcome State Fault Refusal :=
  match (s.branch b).op with
  | none => .next s
  | some o =>
    match o.body with
    | .readPiece i length _ =>
      .next (if (s.branch b).phase = .readData then (s.receiveData b o i length byte).endEvent else s)
    | _ => .next s

/-! ## The bus clear and the stuck clock (R99 to R101) -/

/-- A bus clear ends, its STOP made or not: BUS FREE, the gap timer from 0, and the engine goes to DISABLED when its branch is
disabled, else to POSTING or IDLE (R101, R107, R108). A clear without its STOP was cut short (R112). Until then the engine
has shown CLEARING or RESETTING, never STOP (R87; log 20). -/
def Branch.endClear (br : Branch) (stopMade : Bool) : Branch :=
  let br' := { br.seeStop with cutShort := br.cutShort || !stopMade, resetting := false }
  if br.enabled then br'.settle else { br' with phase := .disabled }

/-- BUS_CLEAR_END (R101). -/
def execBusClearEnd (b : Fin 4) (stopMade : Bool) (s : State) : Host.Outcome State Fault Refusal :=
  .next (if (s.branch b).phase = .clearing then (s.modBranch b fun br => br.endClear stopMade).endEvent else s)

/-- The stretch counter may run in the states from START to STOP of an attempt but STALL, and during a bus clear (R99). It
runs, above 0, while the line is low (log 19). -/
def Branch.stretchRuns (br : Branch) : Bool := br.phase.transfers || decide (br.phase = .clearing)

/-- The stretch counter exceeds STRETCH LIMIT; a limit of 0 means no limit (R99). -/
def Branch.clockIsStuck (br : Branch) : Bool :=
  br.stretchRuns && decide (br.stretchLimit ≠ 0 ∧ br.stretchLimit.toNat * 1000 < br.stretchCounter)

/-- The status of a run that a stuck clock ends (R100): OK for a write that has reached its device, the cause's when the
engine was told to end, else STUCK. -/
def stuckStatus (o : Operation) (br : Branch) : Status :=
  if o.allAcked br.progress then .ok
  else match br.told with
    | some cause => endStatus o br.progress cause
    | none => .stuck

/-- The clock of branch b is compared with STRETCH LIMIT (R99). A stuck clock sets BRANCH_STUCK; during an attempt the run
ends and a bus clear follows (R100); during a clear the clear ends at once, cut short (R101). -/
def State.judgeClock (s : State) (b : Fin 4) : State :=
  let br := s.branch b
  if br.clockIsStuck then
    let s1 := s.setFlag .branchStuck
    if br.phase = .clearing then s1.modBranch b fun x => x.endClear false
    else match br.op with
      | none => s1
      | some o => s1.endRun b (stuckStatus o br) true
  else s

/-- CLOCK_STUCK (R99, R100): the clock line of branch b has been found low for `held` microseconds, or with 0 found high. The
stretch counter takes that value and is compared with STRETCH LIMIT. -/
def execClockStuck (b : Fin 4) (held : Nat) (s : State) : Host.Outcome State Fault Refusal :=
  .next (if (s.branch b).stretchRuns then
    ((s.modBranch b fun br => { br with stretchCounter := held }).judgeClock b).endEvent
  else s)

/-! ## The busy limit (R102) -/

/-- The busy timer exceeds BUSY LIMIT in a busy period not yet flagged (R102). -/
def Branch.busyExceeded (br : Branch) : Bool :=
  br.enabled && decide (br.bus = .busyOther) && !br.busyFlagged &&
    decide (br.busyLimit ≠ 0 ∧ br.busyLimit.toNat * 1000 < br.busyTimer)

/-- BRANCH_BLOCKED is set once for the busy period when the timer exceeds the limit (R102). -/
def State.judgeBusy (s : State) (b : Fin 4) : State :=
  if (s.branch b).busyExceeded then
    (s.modBranch b fun br => { br with busyFlagged := true }).setFlag .branchBlocked
  else s

/-- BUSY_LIMIT_EXCEEDED (R102): the busy timer of branch b comes to exceed BUSY LIMIT. -/
def execBusyLimitExceeded (b : Fin 4) (s : State) : Host.Outcome State Fault Refusal :=
  let br := s.branch b
  .next (if br.enabled ∧ br.bus = .busyOther then
    ((s.modBranch b fun x => { x with busyTimer := max x.busyTimer (x.busyLimit.toNat * 1000 + 1) }).judgeBusy b).endEvent
  else s)

/-! ## Answers (R80, R81) -/

/-- ANSWER_POSTED (R81): the head record of an answer list enters the Response Queue when it holds fewer than 16 records (log
38). -/
def execAnswerPosted (b : Fin 4) (s : State) : Host.Outcome State Fault Refusal :=
  .next (if s.mayPost b then (s.postNext b).endEvent else s)

end Sys2Proof.Machine
end

