-- ==== Sys2Proof/Machine/AttentionSteps.lean ====
section
/-! DEFINITION. The steps of the Attention Unit (chapter 9): ATTENTION_TRIGGER, ATTENTION_LINE_RISE and HOLDOFF_END. -/

namespace Sys2Proof.Machine

/-- ATTENTION_TRIGGER (R158): a falling edge on the input of branch b, whose line is then low (log 34). A poll's pieces may be
taken in the same event (R90). In QUIET the edge of an entry with ENABLED yes and WAKE yes wakes the bridge (R163). -/
def execAttentionTrigger (b : Fin 4) (s : State) : Host.Outcome State Fault Refusal :=
  let s' := (s.modAttn b fun a => { a with line := false }).trigger b
  .next (if !(s.attn b).enabled then s'
    else if (s.attn b).wake then (s'.wakeUp).endEvent
    else s'.endEvent)

/-- ATTENTION_LINE_RISE (R158): the input of branch b is found high, and LEVEL SPENT becomes no. -/
def execAttentionLineRise (b : Fin 4) (s : State) : Host.Outcome State Fault Refusal :=
  .next (s.modAttn b fun a => { a with line := true, levelSpent := false })

/-- HOLDOFF_END (R162): the holdoff timer of an entry in HOLDOFF reaches HOLDOFF. A poll's pieces may be taken in the same
event (R90). -/
def execHoldoffEnd (b : Fin 4) (s : State) : Host.Outcome State Fault Refusal :=
  .next (if (s.attn b).status = .holdoff then (s.endHoldoff b).endEvent else s)

end Sys2Proof.Machine
end

