-- ==== Sys2Proof/Machine/Release.lean ====
section
/-! DEFINITION. The Release Unit (chapter 7): the stamp counter, the due rule, the Release Queue, and the steps STAMP_ADVANCE,
RELEASE_TIMED_WRITE, RELEASE_BRANCH_OFF, RELEASE_TIMED_LATCH and OFFLINE_ABORT_ANSWER. -/

namespace Sys2Proof.Machine

/-! ## Distance and the due rule -/

/-- The signed distance of a stamp from the counter (R130), from -2^31 to 2^31 - 1. -/
def signedDistance (counter stamp : Stamp) : Int := (stamp - counter).toInt

/-- A stamp lies in the acceptance window: at most LATE WINDOW ticks behind the counter and at most 2^30 ahead (R132). -/
def inWindow (counter : Stamp) (lateWindow : BitVec 16) (stamp : Stamp) : Bool :=
  decide (-(lateWindow.toNat : Int) ≤ signedDistance counter stamp ∧ signedDistance counter stamp ≤ 2 ^ 30)

/-- An entry marked DUE that reads as lying ahead because it has waited more than 2^31 - 1 ticks (R134; log 39). -/
def ReleaseEntry.longDue (counter : Stamp) (e : ReleaseEntry) : Bool :=
  e.due && e.overdue && decide (1 ≤ signedDistance counter e.stamp)

/-- The distance by which a held entry is compared at an insertion (R134): one that has waited so long is taken as lying 2^31
ticks behind. -/
def ReleaseEntry.distance (counter : Stamp) (e : ReleaseEntry) : Int :=
  if e.longDue counter then -(2 ^ 31) else signedDistance counter e.stamp

/-- A new entry goes immediately before the first entry whose stamp lies later, else to the tail, and never ahead of an entry
that is long due (R134). -/
def insertRelease (counter : Stamp) (e : ReleaseEntry) : List ReleaseEntry → List ReleaseEntry
  | [] => [e]
  | x :: rest =>
    if signedDistance counter e.stamp < x.distance counter ∧ rest.any (ReleaseEntry.longDue counter) = false then
      e :: x :: rest
    else x :: insertRelease counter e rest

/-- Only the head may be waiting: an entry that is no longer the head has WAITING no (R134, R137). -/
def settleWaiting : List ReleaseEntry → List ReleaseEntry
  | [] => []
  | x :: rest => x :: rest.map fun e => { e with waiting := false }

/-- An entry takes its DUE mark when its stamp is due; the mark is sticky (R130). -/
def ReleaseEntry.markDue (counter : Stamp) (e : ReleaseEntry) : ReleaseEntry :=
  { e with due := e.due || isDue counter e.stamp }

/-- Some entry that does not carry its DUE mark is found due. -/
def State.newlyDue (s : State) : Bool := s.releaseQueue.any fun e => !e.due && isDue s.stamp e.stamp

/-- Every entry found due receives its DUE mark (R130); in QUIET a new mark is a wake source (R141, R177). -/
def State.markDue (s : State) : State :=
  let s' := { s with releaseQueue := s.releaseQueue.map (ReleaseEntry.markDue s.stamp) }
  if s.newlyDue then s'.wakeUp else s'

/-- A new entry is inserted and tested (R130, R134). -/
def State.insertEntry (s : State) (e : ReleaseEntry) : State :=
  State.markDue { s with releaseQueue := settleWaiting (insertRelease s.stamp e s.releaseQueue) }

/-! ## The stamp counter -/

/-- The counter is about to advance: an entry marked DUE that lies 2^31 ticks behind will read as lying ahead, since it has
waited that long (R134; log 39). -/
def ReleaseEntry.wait (counter : Stamp) (e : ReleaseEntry) : ReleaseEntry :=
  { e with overdue := e.overdue || (e.due && decide (signedDistance counter e.stamp = -(2 ^ 31))) }

/-- The length of a tick in microseconds: 2 to the power TICK SHIFT (R128). -/
def State.tickMicros (s : State) : Nat := 2 ^ s.tickShift.val

/-- STAMP_ADVANCE (R128): the tick timer reaches the length of the tick; the counter advances by one, modulo 2^32, and the next
tick begins with the length TICK SHIFT now gives. Due entries are marked (R130), and a head that is due is judged (R135), with
the frame that this lets begin. The expiries that the advance makes due are later steps, DEADLINE_EXPIRY: that the Release Unit
comes before the Split Unit at an advance is the model's choice (R61; log 50). -/
def execStampAdvance (s : State) : Host.Outcome State Fault Refusal :=
  .next (State.markDue { s with
    stamp := s.stamp + 1, tickTimer := 0, tickLength := s.tickMicros
    releaseQueue := s.releaseQueue.map (ReleaseEntry.wait s.stamp) }).endEvent

/-! ## Release (R135 to R139, R142) -/

/-- The head is judged when its row is the one given, and what becomes the head is judged at once (R135); else the step cannot
happen and nothing changes (log 1, 38). -/
def State.releaseRow (s : State) (row : Instr) : State :=
  if s.headRow = some row then
    match s.judgeHead with
    | none => s
    | some s' => s'.judge.endEvent
  else s

/-- RELEASE_TIMED_WRITE (R136, R137): a due head TIMED WRITE whose branch is enabled is judged. -/
def execReleaseTimedWrite (s : State) : Host.Outcome State Fault Refusal := .next (s.releaseRow .releaseTimedWrite)

/-- RELEASE_BRANCH_OFF (R138): a due head TIMED WRITE whose branch is disabled is judged. -/
def execReleaseBranchOff (s : State) : Host.Outcome State Fault Refusal := .next (s.releaseRow .releaseBranchOff)

/-- RELEASE_TIMED_LATCH (R139): a due head TIMED LATCH is judged. -/
def execReleaseTimedLatch (s : State) : Host.Outcome State Fault Refusal := .next (s.releaseRow .releaseTimedLatch)

/-- OFFLINE_ABORT_ANSWER (R142): in OFFLINE the head is answered ABORTED. -/
def execOfflineAbortAnswer (s : State) : Host.Outcome State Fault Refusal := .next (s.releaseRow .offlineAbortAnswer)

/-! ## Expiries by a jump of the counter -/

/-- What one STAMP write lets the two owners do next: the expiry of a place, or with none the judgement of the Release Queue's
head (R131). When no expiry is left, the head is judged as after any other word. -/
def State.stampWork (s : State) (due : List (Fin 16)) : List (Option (Fin 16)) :=
  if due = [] then [] else due.map some ++ (if s.judgeHead.isSome then [none] else [])

/-- The expiries that one STAMP write makes due are taken one by one, each once, and entries of the Release Queue are released
before, between or after them, in an order the spec leaves free (R61, R131; log 5, 24). -/
def State.expireEach (s : State) (due : List (Fin 16)) : Nat → State
  | 0 => s
  | fuel + 1 =>
    match s.pick (s.stampWork due) with
    | none => s
    | some (some i, s') => (s'.expire i).expireEach (due.filter fun j => !(j == i)) fuel
    | some (none, s') => (s'.judgeHead.getD s').expireEach due fuel

/-- A write of STAMP (R129): the counter takes the value, and the tick timer restarts for a tick of the length TICK SHIFT now
gives (R128; log 42). Entries found due are marked, and the deadlines found due expire in this event (R131; log 24). -/
def State.writeStamp (s : State) (value : Stamp) : State :=
  let s' := State.markDue { s with stamp := value, tickTimer := 0, tickLength := s.tickMicros }
  s'.expireEach (sixteen.filter s'.expiryDue) (16 + 2 * s'.releaseQueue.length)

end Sys2Proof.Machine
end

