-- ==== Sys2Proof/Machine/Resets.lean ====
section
/-! DEFINITION. Branch reset (R108, R82, R66), enabling and disabling (R106, R107), entry into OFFLINE (R178), the bridge
reset (R180), and the steps WAKE_TIME_END and COLD_RESET. -/

namespace Sys2Proof.Machine

/-! ## Branch reset -/

/-- The places whose entry is GATHERING on branch b (R66). -/
def State.gatheringOn (s : State) (b : Fin 4) : List (Fin 16) :=
  sixteen.filter fun i =>
    match s.entry i with
    | none => false
    | some e => decide (e.state = .gathering ∧ e.route.branch = b)

/-- An operation removed from its queue by a branch reset (R82): a posted write goes to the fault record, a confirmed or
timed write to the answer list, and a timed write is reported to its group as an error. The pieces are released with their
entries. -/
def State.removeByReset (s : State) (b : Fin 4) (o : Operation) : State :=
  match o.body with
  | .readPiece _ _ _ => s
  | .posted _ => s.recordFault b o .branchReset
  | .confirmed rt _ => s.addAnswer b (completion rt .branchReset o.offset)
  | .timed rt _ member => (s.addAnswer b (completion rt .branchReset o.offset)).reportMember member false

/-- The effects of a branch reset on the queue, the entries, the fault record and the attention entry (R82, R66, R77,
R164), but for the grant pass. -/
def State.resetQueue (s : State) (b : Fin 4) : State :=
  let ops := (s.branch b).queue
  let s1 := (s.gatheringOn b).foldl (fun t i => t.endEntry i .closing .branchReset) s
  let s2 := { (s1.modBranch b fun br => { br with queue := [] }) with fault := none }
  let s3 := ops.foldl (fun t o => t.removeByReset b o) s2
  s3.modAttn b fun a => { a with pending := false }

/-- The effect of a branch reset on the engine (R108, R109): it goes to RESETTING, ends the run it holds, and carries out the
bus clear; a clear in progress becomes the reset's; a disabled engine makes no clear. -/
def State.resetEngine (s : State) (b : Fin 4) : State :=
  let br := s.branch b
  if br.resetting ∨ br.phase = .disabled then s
  else if br.op.isSome then (s.modBranch b fun x => { x with resetting := true }).tellEnd b .branchReset
  else if br.phase = .clearing then s.modBranch b fun x => { x with resetting := true }
  else s.modBranch b fun x => Branch.beginClear { x with resetting := true }

/-- A branch reset of branch b (R108); a grant pass follows (R82), and engines in STALL may find room (R56). The pass creates no
piece for this branch, so that a waiting Release Queue head finds its slot when it is judged at the end of the event (R82,
R136). The actions on the latch lines come in this order, the model's choice: of groups that the removed writes' reports make
fire, of one that the report of the run ended at once makes fire, and of the Release Queue's due heads (R155; log 48). -/
def State.branchReset (s : State) (b : Fin 4) : State :=
  ((((s.resetQueue b).resetEngine b).grantPass).roomFreed)

/-- ENABLED becomes yes (R106): an engine in DISABLED goes to POSTING or IDLE, a disabling in progress is undone; the busy
timer starts from 0 (R102). A write to an enabled branch changes nothing. -/
def State.enableBranch (s : State) (b : Fin 4) : State :=
  if (s.branch b).enabled then s
  else s.modBranch b fun br =>
    let br' := { br with enabled := true, busyTimer := 0, busyFlagged := false }
    if br.phase = .disabled then br'.settle else br'

/-- ENABLED becomes no (R107): the busy timer stops and its mark is cleared (R102), and a branch reset is begun. A write to a
disabled branch changes nothing. -/
def State.disableBranch (s : State) (b : Fin 4) : State :=
  if (s.branch b).enabled then
    (s.modBranch b fun br => { br with enabled := false, busyTimer := 0, busyFlagged := false }).branchReset b
  else s

/-- A write of a branch control word: RATE is stored in the same event as ENABLED (R105). -/
def State.writeBranchControl (s : State) (b : Fin 4) (enabled : Bool) (rate : Rate) : State :=
  let s' := s.modBranch b fun br => { br with rate := rate }
  if enabled then s'.enableBranch b else s'.disableBranch b

/-! ## Entry into OFFLINE -/

/-- An entry that entry into OFFLINE abandons (R67): GATHERING, or DELIVERING or CLOSING with SHORT, its FINAL frame not
begun. The FINAL frame of a GATHERING entry has never begun (R58; log 32). -/
def State.abortable (s : State) (i : Fin 16) : Bool :=
  match s.entry i with
  | none => false
  | some e => decide (e.state = .gathering) || (e.delivers && !s.finalBegun i e)

/-- An operation removed by entry into OFFLINE (R84). -/
def State.removeByOffline (s : State) (b : Fin 4) (o : Operation) : State :=
  match o.body with
  | .readPiece _ _ _ => s
  | .posted _ => s
  | .confirmed rt _ => s.addAnswer b (completion rt .aborted o.offset)
  | .timed rt _ _ => s.addAnswer b (completion rt .aborted o.offset)

/-- Every operation of one queue is removed (R84). -/
def State.abortQueue (s : State) (b : Fin 4) : State :=
  let ops := (s.branch b).queue
  ops.foldl (fun t o => t.removeByOffline b o) (s.modBranch b fun br => { br with queue := [] })

/-- Entry into OFFLINE (R178): the entries are abandoned with ABORTED (R67), the queues emptied (R84), running operations
told to end (R110), every group made IDLE (R156) and every PENDING mark cleared (R164). A waiting Release Queue entry waits
until it is answered (R137, R142). The ABORTED answers enter the Response Queue from branches 0 to 3 in turn, those of the
queued writes before those of runs that end at once, and all of them, while it has places, before the answer of the Release Queue's
head, which is judged at the end of the event: the model's choice, since R81 and R142 let either take a place first (log 43). -/
def State.enterOffline (s : State) : State :=
  let s0 := { s with opState := .offline }
  let s1 := (sixteen.filter s0.abortable).foldl (fun t i => t.endEntry i .abandoned .aborted) s0
  let s2 := four.foldl (fun t b => t.abortQueue b) s1
  let s3 := { s2.idleGroups with attns := mapAll (fun (a : Attn) => { a with pending := false }) s2.attns }
  let s4 := four.foldl (fun t b => t.tellEnd b .aborted) s3
  (s4.grantPass).roomFreed

/-! ## Resets of the whole part -/

/-- The levels of the attention inputs, which no reset changes. -/
def State.inputs (s : State) : Vector Bool 4 := mapAll Attn.line s.attns

/-- The bridge reset (R180, step 3): every block takes its reset values; the straps keep their sampled values, and the
operating state becomes ACTIVE. -/
def State.bridgeReset (s : State) : State :=
  State.resetTo s.straps .active s.holdIn s.inputs s.pending s.freeCount

/-- The state that a cold reset starts in (R175, R179). -/
def startState (straps : Straps) : OpState := if straps.qstart then .quiet else .active

/-- COLD_RESET (R179): the part samples its straps and every block starts from its reset values. -/
def execColdReset (straps : Straps) (s : State) : Host.Outcome State Fault Refusal :=
  .next (State.resetTo straps (startState straps) s.holdIn s.inputs s.pending s.freeCount)

/-- WAKE_TIME_END (R177): the wake timer reaches 200 µs; the bridge becomes ACTIVE and the waiting attention entries claim
places in ascending branch order (R161), and the engines take their queue heads (R90). Intake takes its head frame in a later step:
that it is not the first is the model's choice (R177; log 49). -/
def execWakeTimeEnd (s : State) : Host.Outcome State Fault Refusal :=
  .next (if s.opState = .waking then (State.claims { s with opState := .active, wakeTimer := 0 }).endEvent else s)

end Sys2Proof.Machine
end

