-- ==== Sys2Proof/Machine/Management.lean ====
section
/-! DEFINITION. The management space (chapter 10): the map, what a read of each word yields, and what a write of each word
does (R166 to R174). -/

namespace Sys2Proof.Machine

/-! ## The map (section 10.2) -/

/-- A word of the management space. A group stands by its number less one. -/
inductive Register where
  | ident | revision | firstCapability
  | bridgeNumber | straps
  | state | resetCommand
  | capability (index : Fin 12)
  | commitLimit | committed | occupancy | entriesInUse
  | timeoutClass (c : Fin 4)
  | tickShift | stamp | lateWindow | releaseDepth
  | eventFlags | noticeMask | noticeArm
  | fault (word : Fin 3)
  | branchControl (b : Fin 4) | branchGap (b : Fin 4) | branchPause (b : Fin 4) | branchStretch (b : Fin 4)
  | branchBusy (b : Fin 4) | branchStatus (b : Fin 4) | branchDepth (b : Fin 4)
  | attnControl (b : Fin 4) | attnPlace (b : Fin 4) | attnSize (b : Fin 4) | attnStatus (b : Fin 4)
  | groupCommand (g : Fin 7) | groupAction (g : Fin 7) | groupWidth (g : Fin 7) | groupStatus (g : Fin 7)
  | splitSummary (i : Fin 16)
  | latchLevels
  | splitPlace (i : Fin 16) | splitCounters (i : Fin 16)
  deriving DecidableEq, Repr

/-- A number as an index, from a list of the indices there are. -/
def at? {α : Type} (xs : List α) (n : Nat) : Option α := xs[n]?

/-- The word at offset `off` of the branch blocks: word 7 of each is unmapped (section 10.2). -/
def branchRegister (off : Nat) : Option Register := do
  let b ← at? four (off / 8)
  match off % 8 with
  | 0 => some (.branchControl b)
  | 1 => some (.branchGap b)
  | 2 => some (.branchPause b)
  | 3 => some (.branchStretch b)
  | 4 => some (.branchBusy b)
  | 5 => some (.branchStatus b)
  | 6 => some (.branchDepth b)
  | _ => none

/-- The word at offset `off` of the attention entries. -/
def attnRegister (off : Nat) : Option Register := do
  let b ← at? four (off / 4)
  match off % 4 with
  | 0 => some (.attnControl b)
  | 1 => some (.attnPlace b)
  | 2 => some (.attnSize b)
  | _ => some (.attnStatus b)

/-- The word at offset `off` of the groups, from group 1 on. -/
def groupRegister (off : Nat) : Option Register := do
  let g ← at? seven (off / 4)
  match off % 4 with
  | 0 => some (.groupCommand g)
  | 1 => some (.groupAction g)
  | 2 => some (.groupWidth g)
  | _ => some (.groupStatus g)

/-- The word at offset `off` of the split entry counters. -/
def countersRegister (off : Nat) : Option Register := do
  let i ← at? sixteen (off / 2)
  if off % 2 = 0 then some (.splitPlace i) else some (.splitCounters i)

/-- The single words of the map, and its blocks (section 10.2). An address it does not name is unmapped. -/
def registerAt (a : Nat) : Option Register :=
  if a < 0x010 then
    match a with
    | 0x000 => some .ident
    | 0x001 => some .revision
    | 0x002 => some .firstCapability
    | 0x004 => some .bridgeNumber
    | 0x005 => some .straps
    | 0x008 => some .state
    | 0x009 => some .resetCommand
    | _ => none
  else if a < 0x020 then (finOf 12 (a - 0x010)).map .capability
  else if a < 0x040 then
    match a with
    | 0x020 => some .commitLimit
    | 0x021 => some .committed
    | 0x022 => some .occupancy
    | 0x023 => some .entriesInUse
    | 0x024 => some (.timeoutClass 0)
    | 0x025 => some (.timeoutClass 1)
    | 0x026 => some (.timeoutClass 2)
    | 0x027 => some (.timeoutClass 3)
    | 0x028 => some .tickShift
    | 0x029 => some .stamp
    | 0x02A => some .lateWindow
    | 0x02B => some .releaseDepth
    | 0x030 => some .eventFlags
    | 0x031 => some .noticeMask
    | 0x032 => some .noticeArm
    | 0x034 => some (.fault 0)
    | 0x035 => some (.fault 1)
    | 0x036 => some (.fault 2)
    | _ => none
  else if a < 0x060 then branchRegister (a - 0x040)
  else if a < 0x070 then attnRegister (a - 0x060)
  else if a < 0x074 then none
  else if a < 0x090 then groupRegister (a - 0x074)
  else if a < 0x0A0 then none
  else if a < 0x0B0 then (at? sixteen (a - 0x0A0)).map .splitSummary
  else if a = 0x0B0 then some .latchLevels
  else if a < 0x0C0 then none
  else if a < 0x0E0 then countersRegister (a - 0x0C0)
  else none

/-! ## Reading (R166, R168, R169) -/

/-- A value in a word from a bit on. -/
def fieldAt (bit v : Nat) : Word := BitVec.ofNat 32 (v * 2 ^ bit)

/-- A bit of a word. -/
def bitAt (bit : Nat) (p : Bool) : Word := if p then fieldAt bit 1 else 0

/-- The capability records, four words each (R169). -/
def capabilityWord (index : Fin 12) : Word :=
  match index with
  | 0 => 0x0001
  | 1 => 0x014
  | 2 => fieldAt 16 16 ||| 512
  | 3 => fieldAt 16 8 ||| 8
  | 4 => 0x0002
  | 5 => 0x018
  | 6 => fieldAt 16 4 ||| 16
  | 7 => fieldAt 16 4 ||| 4
  | 8 => 0x0003
  | 9 => 0x000
  | 10 => fieldAt 16 32 ||| 7
  | 11 => fieldAt 16 64 ||| 16

/-- STRAPS (R168). -/
def Straps.word (x : Straps) : Word := x.id.setWidth 32 ||| bitAt 4 x.ovc ||| bitAt 5 x.qstart

/-- The three words of the fault record; an empty record reads 0 (R168, R174). -/
def faultWord (r : Option FaultRecord) (word : Fin 3) : Word :=
  match r with
  | none => 0
  | some r =>
    match word with
    | 0 => bitAt 31 true ||| bitAt 30 r.more ||| fieldAt 24 r.branch.val ||| fieldAt 8 r.status.code.toNat |||
        r.busAddress.setWidth 32
    | 1 => r.ldn.setWidth 32
    | 2 => BitVec.ofNat 32 r.offset

/-- The BUS code of a branch status word (R168). -/
def Bus.code : Bus → Nat
  | .free => 0
  | .busySelf => 1
  | .busyOther => 2

/-- The LAST CAUSE code of a branch status word (R168). -/
def LastCause.code : LastCause → Nat
  | .absent => 0
  | .addressNack => 1
  | .arbitration => 2

/-- The status word of a branch (R112, R168). -/
def Branch.statusWord (br : Branch) : Word :=
  fieldAt 0 br.state.code ||| fieldAt 4 br.bus.code ||| fieldAt 8 br.retryCount ||| fieldAt 13 br.lastCause.code |||
    bitAt 15 br.cutShort ||| fieldAt 16 br.answers.length

/-- The control word of a branch (R168). -/
def Branch.controlWord (br : Branch) : Word := bitAt 0 br.enabled ||| fieldAt 4 br.rate.code

/-- The MODE code of an attention entry (R168). -/
def AttnMode.code : AttnMode → Nat
  | .edge => 0
  | .level => 1

/-- The STATUS code of an attention entry (R168). -/
def AttnStatus.code : AttnStatus → Nat
  | .idle => 0
  | .polling => 1
  | .holdoff => 2

/-- The control word of an attention entry (R168). -/
def Attn.controlWord (a : Attn) : Word := bitAt 0 a.enabled ||| fieldAt 1 a.mode.code ||| bitAt 3 a.wake

/-- The status word of an attention entry (R165, R168). -/
def Attn.statusWord (a : Attn) : Word :=
  fieldAt 0 a.status.code ||| bitAt 2 a.pending ||| bitAt 3 a.levelSpent ||| bitAt 4 a.line

/-- The STATE code of a group (R168). -/
def GroupState.code : GroupState → Nat
  | .idle => 0
  | .collecting => 1
  | .armed => 2

/-- The POLICY code of a group (R168). -/
def GroupPolicy.code : GroupPolicy → Nat
  | .hold => 0
  | .fireAnyway => 1

/-- The second word of a group (R168). -/
def Group.actionWord (g : Group) : Word :=
  g.lines.setWidth 32 ||| fieldAt 8 g.action.code ||| fieldAt 16 g.policy.code

/-- The status word of a group (R144, R168). -/
def Group.statusWord (g : Group) : Word :=
  fieldAt 24 g.generation.toNat ||| fieldAt 18 g.members ||| fieldAt 12 g.done ||| fieldAt 6 g.failed |||
    fieldAt 0 g.state.code

/-- The STATE code of a split entry (R168). -/
def EntryState.code : EntryState → Nat
  | .gathering => 0
  | .delivering => 1
  | .closing => 2
  | .abandoned => 3

/-- OWNER in a split summary: requester and tag, or for ATTN the branch in bits 23 and 22 (R168). -/
def SplitOwner.word : SplitOwner → Word
  | .trunk rt => fieldAt 27 rt.requester.toNat ||| fieldAt 22 rt.tag.toNat
  | .attn b => bitAt 30 true ||| fieldAt 22 b.val

/-- The code of a FINAL STATUS when present; the field reads 0 while it is absent, which is the model's choice (R69, R168; log
47). -/
def statusCodeOf (st : Option Status) : Nat :=
  match st with
  | none => 0
  | some x => x.code.toNat

/-- The summary word of a split entry; a free place reads 0 (R69, R168). -/
def summaryWord (e : Option SplitEntry) : Word :=
  match e with
  | none => 0
  | some e =>
    bitAt 31 true ||| e.owner.word ||| fieldAt 20 e.state.code ||| bitAt 19 e.finalStatus.isSome |||
      bitAt 18 e.extended ||| fieldAt 14 e.pieces.length ||| fieldAt 0 (statusCodeOf e.finalStatus)

/-- The first counters word of a split entry (R168). -/
def placeWord (e : Option SplitEntry) : Word :=
  match e with
  | none => 0
  | some e => fieldAt 16 e.start ||| fieldAt 0 e.length

/-- The second counters word of a split entry (R168). -/
def countersWord (e : Option SplitEntry) : Word :=
  match e with
  | none => 0
  | some e => fieldAt 20 e.issued ||| fieldAt 10 e.received ||| fieldAt 0 e.sent

/-- LATCH LEVELS: each line as it is driven (R153, R168). -/
def State.latchWord (s : State) : Word :=
  bitAt 0 (s.line 0).driven ||| bitAt 1 (s.line 1).driven ||| bitAt 2 (s.line 2).driven ||| bitAt 3 (s.line 3).driven

/-- What a read of a word yields (R166, R168). -/
def State.readWord (s : State) : Register → Word
  | .ident => 0x57A60440
  | .revision => 1
  | .firstCapability => 0x010
  | .bridgeNumber => s.bridgeNumber.setWidth 32
  | .straps => Straps.word s.straps
  | .state => fieldAt 0 s.opState.code
  | .resetCommand => 0
  | .capability index => capabilityWord index
  | .commitLimit => BitVec.ofNat 32 s.commitLimit
  | .committed => BitVec.ofNat 32 s.committed
  | .occupancy => BitVec.ofNat 32 s.occupancy
  | .entriesInUse => BitVec.ofNat 32 s.entriesInUse
  | .timeoutClass c => s.timeoutClasses[c.val].setWidth 32
  | .tickShift => BitVec.ofNat 32 s.tickShift.val
  | .stamp => s.stamp
  | .lateWindow => s.lateWindow.setWidth 32
  | .releaseDepth => BitVec.ofNat 32 s.releaseQueue.length
  | .eventFlags => s.flags.setWidth 32
  | .noticeMask => s.noticeMask.setWidth 32
  | .noticeArm => bitAt 0 s.noticeArm
  | .fault word => faultWord s.fault word
  | .branchControl b => (s.branch b).controlWord
  | .branchGap b => (s.branch b).gap.setWidth 32
  | .branchPause b => (s.branch b).retryPause.setWidth 32
  | .branchStretch b => (s.branch b).stretchLimit.setWidth 32
  | .branchBusy b => (s.branch b).busyLimit.setWidth 32
  | .branchStatus b => (s.branch b).statusWord
  | .branchDepth b => BitVec.ofNat 32 (s.branch b).queue.length
  | .attnControl b => (s.attn b).controlWord
  | .attnPlace b => fieldAt 16 (s.attn b).ldn.toNat ||| (s.attn b).offset.setWidth 32
  | .attnSize b => fieldAt 8 (s.attn b).length ||| (s.attn b).holdoff.setWidth 32
  | .attnStatus b => (s.attn b).statusWord
  | .groupCommand _ => 0
  | .groupAction g => (s.group g).actionWord
  | .groupWidth g => (s.group g).pulseWidth.setWidth 32
  | .groupStatus g => (s.group g).statusWord
  | .splitSummary i => summaryWord (s.entry i)
  | .latchLevels => s.latchWord
  | .splitPlace i => placeWord (s.entry i)
  | .splitCounters i => countersWord (s.entry i)

/-- The words of a range: none when an address of it is unmapped (R166). -/
def registersFrom (address : Nat) : Nat → Option (List Register)
  | 0 => some []
  | n + 1 => do
    let r ← registerAt address
    let rest ← registersFrom (address + 1) n
    some (r :: rest)

/-- A read of a branch status word clears the branch's cut-short indication; a read of any other word changes nothing
(R112, R166). -/
def State.readEffect (s : State) (r : Register) : State :=
  match r with
  | .branchStatus b => s.modBranch b fun br => { br with cutShort := false }
  | _ => s

/-! ## Writing (R167, R168) -/

/-- The outcome of one word of a MGMT WRITE: applied or ignored, or the write stops with a status (R167). -/
inductive WordOutcome where
  | applied (s : State)
  | stops (status : Status)

/-- STATE (R170, R175). A write of 1 never enters QUIET in its own event: its answer stands in the Response Queue. -/
def State.writeState (s : State) (v : Nat) : WordOutcome :=
  match v with
  | 0 =>
    match s.opState with
    | .draining => .applied { s with opState := .active }
    | .offline => .applied { s with intakeStopped := true }
    | _ => .applied s
  | 1 =>
    match s.opState with
    | .active => .applied { s with opState := .draining }
    | .offline => .stops .badField
    | _ => .applied s
  | 2 => .stops .badField
  | 3 =>
    match s.opState with
    | .active => .applied s.enterOffline
    | .draining => .applied s.enterOffline
    | _ => .applied s
  | 4 => .stops .badField
  | _ => .applied s

/-- RESET COMMAND (R170): 0x1 makes a bridge reset follow, 0x10 to 0x13 begin a branch reset. -/
def State.writeResetCommand (s : State) (v : Nat) : WordOutcome :=
  match v with
  | 0 => .applied s
  | 1 => .applied { s with intakeStopped := true }
  | 0x10 => .applied (s.branchReset 0)
  | 0x11 => .applied (s.branchReset 1)
  | 0x12 => .applied (s.branchReset 2)
  | 0x13 => .applied (s.branchReset 3)
  | _ => .stops .badField

/-- COMMIT LIMIT (R50): clamped to 64 to 1023; a grant pass follows. -/
def State.writeCommitLimit (s : State) (v : Nat) : State :=
  State.grantPass { s with commitLimit := max 64 (min 1023 v) }

/-- EVENT FLAGS (R171): each flag whose bit is 1 is cleared. -/
def State.clearFlags (s : State) (w : Word) : State := { s with flags := s.flags &&& ~~~(w.setWidth 11) }

/-- NOTICE MASK (R172, R173). -/
def State.writeNoticeMask (s : State) (w : Word) : State :=
  let s' := { s with noticeMask := w.setWidth 11 }
  if s'.maskedFlagSet then s'.raiseNotice else s'

/-- NOTICE ARM (R172, R173). -/
def State.writeNoticeArm (s : State) (w : Word) : State :=
  let s' := { s with noticeArm := w.getLsbD 0 }
  if s'.maskedFlagSet then s'.raiseNotice else s'

/-- A byte-wide field of a branch: a value above 255 is BAD_FIELD (R105). -/
def byteField (w : Word) (store : Byte → State) : WordOutcome :=
  if 255 < w.toNat then .stops .badField else .applied (store (w.setWidth 8))

/-- The control word of a branch (R105 to R107, R168): RATE codes 4 to 7 are BAD_FIELD. -/
def State.writeControl (s : State) (b : Fin 4) (w : Word) : WordOutcome :=
  match Rate.ofCode (w.extractLsb' 4 3).toNat with
  | none => .stops .badField
  | some rate => .applied (s.writeBranchControl b (w.getLsbD 0) rate)

/-- The control word of an attention entry (R157, R168): MODE codes 2 and 3 are BAD_FIELD. -/
def State.writeAttnWord (s : State) (b : Fin 4) (w : Word) : WordOutcome :=
  match (w.extractLsb' 1 2).toNat with
  | 0 => .applied (s.writeAttnControl b (w.getLsbD 0) .edge (w.getLsbD 3))
  | 1 => .applied (s.writeAttnControl b (w.getLsbD 0) .level (w.getLsbD 3))
  | _ => .stops .badField

/-- The third word of an attention entry (R157): LENGTH 0 or above 32 is BAD_FIELD. -/
def State.writeAttnSize (s : State) (b : Fin 4) (w : Word) : WordOutcome :=
  let length := (w.extractLsb' 8 6).toNat
  if length = 0 ∨ 32 < length then .stops .badField
  else .applied (s.writeAttnFields b fun a => { a with length := length, holdoff := w.extractLsb' 0 8 })

/-- The command word of a group (R146 to R148, R168). -/
def State.writeGroupCommand (s : State) (g : Fin 7) (v : Nat) : WordOutcome :=
  match v with
  | 1 =>
    match s.openGroup g with
    | some s' => .applied s'
    | none => .stops .groupBusy
  | 2 =>
    match s.closeGroup g with
    | some s' => .applied s'
    | none => .stops .badField
  | 3 => .applied (s.abortGroup g)
  | _ => .stops .badField

/-- POLICY of a group's second word (R168). -/
def GroupPolicy.ofCode : Nat → Option GroupPolicy
  | 0 => some .hold
  | 1 => some .fireAnyway
  | _ => none

/-- The second word of a group (R145, R168). -/
def State.writeGroupAction (s : State) (g : Fin 7) (w : Word) : WordOutcome :=
  match LatchAction.ofCode (w.extractLsb' 8 3).toNat, GroupPolicy.ofCode (w.extractLsb' 16 2).toNat with
  | some action, some policy =>
    .applied (s.modGroup g fun x => { x with lines := w.extractLsb' 0 4, action := action, policy := policy })
  | _, _ => .stops .badField

/-- The third word of a group (R145, R168): PULSE WIDTH 1 to 65535. -/
def State.writeGroupWidth (s : State) (g : Fin 7) (w : Word) : WordOutcome :=
  if w.toNat = 0 ∨ 65535 < w.toNat then .stops .badField
  else .applied (s.modGroup g fun x => { x with pulseWidth := w.setWidth 16 })

/-- What a write of a word does (R167, R168): applied, ignored for a read-only word, or the write stops. -/
def State.writeWord (s : State) (r : Register) (w : Word) : WordOutcome :=
  let v := w.toNat
  match r with
  | .state => s.writeState v
  | .resetCommand => s.writeResetCommand v
  | .commitLimit => .applied (s.writeCommitLimit v)
  | .timeoutClass c =>
    if v = 0 ∨ 16777215 < v then .stops .badField
    else .applied { s with timeoutClasses := s.timeoutClasses.set c.val (w.setWidth 24) c.isLt }
  | .tickShift =>
    match finOf 8 v with
    | none => .stops .badField
    | some shift => .applied { s with tickShift := shift }
  | .stamp => .applied (s.writeStamp w)
  | .lateWindow => if 65535 < v then .stops .badField else .applied { s with lateWindow := w.setWidth 16 }
  | .eventFlags => .applied (s.clearFlags w)
  | .noticeMask => .applied (s.writeNoticeMask w)
  | .noticeArm => .applied (s.writeNoticeArm w)
  | .fault word => .applied (if word = 0 then { s with fault := none } else s)
  | .branchControl b => s.writeControl b w
  | .branchGap b => byteField w fun x => s.modBranch b fun br => { br with gap := x }
  | .branchPause b => byteField w fun x => s.modBranch b fun br => { br with retryPause := x }
  | .branchStretch b => byteField w fun x => (s.modBranch b fun br => { br with stretchLimit := x }).judgeClock b
  | .branchBusy b => byteField w fun x => (s.modBranch b fun br => { br with busyLimit := x }).judgeBusy b
  | .attnControl b => s.writeAttnWord b w
  | .attnPlace b =>
    .applied (s.writeAttnFields b fun a => { a with ldn := w.extractLsb' 16 8, offset := w.extractLsb' 0 16 })
  | .attnSize b => s.writeAttnSize b w
  | .groupCommand g => s.writeGroupCommand g v
  | .groupAction g => s.writeGroupAction g w
  | .groupWidth g => s.writeGroupWidth g w
  | .ident | .revision | .firstCapability | .bridgeNumber | .straps | .capability _ => .applied s
  | .committed | .occupancy | .entriesInUse | .releaseDepth => .applied s
  | .branchStatus _ | .branchDepth _ | .attnStatus _ | .groupStatus _ => .applied s
  | .splitSummary _ | .latchLevels | .splitPlace _ | .splitCounters _ => .applied s

/-- How a MGMT WRITE ended: its status and FAIL WORD (R167). -/
structure WriteResult where
  state : State
  status : Status
  failWord : Nat

/-- What a word of a MGMT WRITE lets the other blocks do at once is done before the words that are left; after the last word it
ends the event (log 38). -/
def State.betweenWords (s : State) (left : List Word) : State := if left.isEmpty then s else s.settle

/-- The words of a MGMT WRITE are applied one at a time from ADDRESS upward, word k to ADDRESS plus k, until one stops the
write (R167). A frame begins only at the end of the whole write (log 38). -/
def State.writeWords (s : State) (address k : Nat) : List Word → WriteResult
  | [] => { state := s, status := .ok, failWord := 0 }
  | w :: rest =>
    match registerAt (address + k) with
    | none => { state := s, status := .badAddress, failWord := k }
    | some r =>
      match s.writeWord r w with
      | .stops status => { state := s, status := status, failWord := k }
      | .applied s' => (s'.betweenWords rest).writeWords address (k + 1) rest

/-- Set the answer of a MGMT WRITE that stands at a place of the Response Queue. -/
def State.setAnswer (s : State) (place : Nat) (r : Record) : State :=
  { s with responseQueue := s.responseQueue.set place r }

/-- A MGMT WRITE is carried out (R40, R166, R167, R178): the bridge number is captured; the MGMT COMPLETION stands in the
Response Queue ahead of every answer that the write causes (log 11), with the status the words gave and RESET FOLLOWS when
one of them makes a bridge reset follow (R170). No later frame is taken until every word has had its effect (R39). -/
def State.mgmtWrite (s : State) (rt : ReqTag) (bridgeNumber : BitVec 3) (address : Nat) (words : List Word) : State :=
  let place := s.responseQueue.length
  let s0 := ({ s with bridgeNumber := bridgeNumber, intake := [] }).pushRecord (mgmtCompletion rt .ok 0 [])
  let result := s0.writeWords address 0 words
  State.setAnswer { result.state with intake := s.intake } place
    { rt := rt, status := result.status, body := .mgmt result.failWord [] result.state.intakeStopped }

/-- A MGMT READ is carried out (R166): the words at one moment, or BAD_ADDRESS. -/
def State.mgmtRead (s : State) (rt : ReqTag) (address words : Nat) : State :=
  match registersFrom address words with
  | none => s.pushRecord (mgmtCompletion rt .badAddress 0 [])
  | some rs =>
    let data := (rs.map fun r => bytes32 (s.readWord r)).flatten
    (rs.foldl State.readEffect s).pushRecord (mgmtCompletion rt .ok 0 data)

end Sys2Proof.Machine
end

