-- ==== Sys2Proof/Machine/Intake.lean ====
section
/-! DEFINITION. Trunk Intake (chapter 2): the receiver, the intake buffer, the checks of a frame in their order, acceptance
and refusal, and the steps of reception and of every frame that Intake takes. -/

namespace Sys2Proof.Machine

/-! ## Reception (R18 to R22) -/

/-- A frame that has passed CHECK is placed, and in QUIET its placing is a wake; or it is discarded with INTAKE_OVERRUN when
the buffer holds 2 frames (R21, R23, R177). -/
def State.placeFrame (s : State) (f : Frame) : State :=
  if s.intake.length < Config.intakePlaces then State.wakeUp { s with intake := s.intake ++ [f] }
  else s.setFlag .intakeOverrun

/-- The receiver examines bytes from hunting on (R19, R20). A frame that passes CHECK is placed and hunting goes on behind
it; one that fails sets FRAME_ERROR and hunting goes on behind its SYNC byte. Good frames found among the bytes of a failed frame
are all placed in this step, with no take of the head between them (R21; log 45). Every turn drops a byte, so that `fuel`
above the number of bytes is enough. -/
def State.scan (s : State) (bytes : List Byte) : Nat → State
  | 0 => s
  | fuel + 1 =>
    match bytes with
    | [] => { s with rx := .hunting }
    | b :: rest =>
      if b ≠ 0xA5 then s.scan rest fuel
      else match rest with
        | kind :: reqtag :: bodylen :: more =>
          let n := bodylen.toNat
          if more.length < n + 2 then { s with rx := .gathering rest }
          else if (more.drop n).take 2 = bytes16 (crc (kind :: reqtag :: bodylen :: more.take n)) then
            (s.placeFrame { kind := kind, reqtag := reqtag, body := more.take n }).scan (more.drop (n + 2)) fuel
          else (s.setFlag .frameError).scan rest fuel
        | _ => { s with rx := .gathering rest }

/-- The bytes the receiver has before it: those gathered, with their SYNC, then those that come (R19). -/
def Receiver.stream (rx : Receiver) (bytes : List Byte) : List Byte :=
  match rx with
  | .hunting => bytes
  | .gathering received => 0xA5 :: received ++ bytes

/-- Bytes are received (R19). -/
def State.receive (s : State) (bytes : List Byte) : State :=
  s.scan (s.rx.stream bytes) ((s.rx.stream bytes).length + 1)

/-- FRAME_ARRIVAL (R19): the bytes up to and with a frame's second CHECK byte are received (log 8). -/
def execFrameArrival (bytes : List Byte) (s : State) : Host.Outcome State Fault Refusal := .next (s.receive bytes).endEvent

/-- SYNC_RECEIVED (R19): a byte 0xA5 is received; while hunting it begins a frame, while gathering it is data (log 8). -/
def execSyncReceived (s : State) : Host.Outcome State Fault Refusal := .next (s.receive [0xA5]).endEvent

/-! ## Deciding a frame (R28) -/

/-- Kinds that a refusal answers with a MGMT COMPLETION: MGMT READ, MGMT WRITE and TABLE COMMAND (R32). -/
def Frame.isMgmtKind (f : Frame) : Bool := f.kind == 0x21 || f.kind == 0x22 || f.kind == 0x23

/-- The record of a refusal (R32). -/
def Frame.refusal (f : Frame) (status : Status) : Record :=
  if f.isMgmtKind then mgmtCompletion f.rt status 0 [] else completion f.rt status 0

/-- READ from step 5 on (R28, R30, R31, R34). -/
def State.decideRead (s : State) (rt : ReqTag) (ldn : Byte) (offset length : Nat) : Decision :=
  if s.live rt then .refuse .tagInUse
  else match s.routeFor ldn .forRead (some rt.requester) offset length with
    | .error st => .refuse st
    | .ok r =>
      match s.freePlace with
      | none => .refuse .busy
      | some i => .accept (s.createEntry i (.trunk rt) r offset length)

/-- The group part of step 8 (R28, R149): the membership that a TIMED WRITE joins with; none when it fails. -/
def State.joinGroup (s : State) (group : Byte) : Option (Option (Fin 7 × Byte)) :=
  if group = 0 then some none
  else match finOf 7 (group.toNat - 1) with
    | none => none
    | some g =>
      if (s.group g).state = .collecting ∧ (s.group g).members < Config.groupMembers then
        some (some (g, (s.group g).generation))
      else none

/-- A member joins its group: MEMBERS rises by one (R36, R149). -/
def State.addMember (s : State) (member : Option (Fin 7 × Byte)) : State :=
  match member with
  | none => s
  | some (g, _) => s.modGroup g fun x => { x with members := x.members + 1 }

/-- A new Release Queue entry, before its test (R133). -/
def newEntry (rt : ReqTag) (stamp : Stamp) (body : ReleaseBody) : ReleaseEntry :=
  { rt := rt, stamp := stamp, due := false, overdue := false, waiting := false, body := body }

/-- The Release Queue holds 32 entries (R31). -/
def State.releaseFull (s : State) : Bool := decide (Config.releaseEntries ≤ s.releaseQueue.length)

/-- TIMED WRITE from step 5 on (R28, R36). -/
def State.decideTimedWrite (s : State) (rt : ReqTag) (stamp : Stamp) (group ldn : Byte) (offset : Nat) (data : List Byte) :
    Decision :=
  if s.live rt then .refuse .tagInUse
  else match s.routeFor ldn .forWrite (some rt.requester) offset data.length with
    | .error st => .refuse st
    | .ok r =>
      if !inWindow s.stamp s.lateWindow stamp then .refuse .badStamp
      else match s.joinGroup group with
        | none => .refuse .badGroup
        | some member =>
          if s.releaseFull then .refuse .busy
          else .accept ((s.addMember member).insertEntry (newEntry rt stamp (.timedWrite member r offset data)))

/-- TIMED LATCH from step 5 on (R28, R37). -/
def State.decideTimedLatch (s : State) (rt : ReqTag) (stamp : Stamp) (lines : BitVec 4) (action : LatchAction)
    (pulseWidth : BitVec 16) : Decision :=
  if s.live rt then .refuse .tagInUse
  else if !inWindow s.stamp s.lateWindow stamp then .refuse .badStamp
  else if s.releaseFull then .refuse .busy
  else .accept (s.insertEntry (newEntry rt stamp (.timedLatch lines action pulseWidth)))

/-- The place whose entry holds a pair (R30, R38). -/
def State.placeOf (s : State) (rt : ReqTag) : Option (Fin 16) := sixteen.find? fun i => placeTag? (s.entry i) == some rt

/-- The entry in place i is in GATHERING. -/
def State.isGathering (s : State) (i : Fin 16) : Bool :=
  match s.entry i with
  | none => false
  | some e => decide (e.state = .gathering)

/-- The group membership a Release Queue entry carries. -/
def ReleaseEntry.member (e : ReleaseEntry) : Option (Fin 7 × Byte) :=
  match e.body with
  | .timedWrite member _ _ _ => member
  | .timedLatch _ _ _ => none

/-- A cancelled Release Queue entry is removed, and its member is taken off its group (R140, R151). A group that this makes fire
acts on its lines before what a due head behind it does on them in the event, be it a TIMED LATCH released or a group made to
fire by a BRANCH_OFF: the model's choice (R155; log 48). -/
def State.cancelEntry (s : State) (e : ReleaseEntry) : State :=
  State.cancelMember { s with releaseQueue := s.releaseQueue.filter fun x => !(x.rt == e.rt) } e.member

/-- The owner of the target holder decides a CANCEL: its answer, and the state as it leaves it (R38, R64, R140). -/
def State.cancelTarget (s : State) (target : ReqTag) : Status × State :=
  match s.placeOf target with
  | some i => if s.isGathering i then (.ok, s.abandon i .cancelled) else (.tooLate, s)
  | none =>
    match s.releaseQueue.find? fun e => e.rt == target with
    | some e => (.ok, s.cancelEntry e)
    | none => if s.live target then (.tooLate, s) else (.notFound, s)

/-- CANCEL (R38): its answer takes its place ahead of every record that the cancel lets enter (R33; log 40). -/
def State.decideCancel (s : State) (rt : ReqTag) (target : BitVec 5) : Decision :=
  let pair : ReqTag := { requester := rt.requester, tag := target }
  .answer ((s.pushRecord (completion rt (s.cancelTarget pair).1 0)).cancelTarget pair).2

/-- TABLE COMMAND (R9, R39). -/
def State.decideTable (s : State) (rt : ReqTag) (command : Byte) (operand : List Byte) : Decision :=
  let r := tableCommand s.routes command operand
  .answer (({ s with routes := r.routes }).pushRecord (mgmtCompletion rt r.status 0 r.data))

/-- Step 4 concerns the frame: every kind but MGMT READ and MGMT WRITE is refused in OFFLINE (R28, R29). -/
def Frame.offlineRefused (f : Frame) : Bool := !(f.kind == 0x21 || f.kind == 0x22)

/-- Steps 5 to 10 of R28 for a request frame with a requester and tag. -/
def State.decideRequest (s : State) (rt : ReqTag) (request : Request) : Decision :=
  match request with
  | .read ldn offset length => s.decideRead rt ldn offset length
  | .write ldn offset data => s.decideWrite rt (.posted data) ldn offset data.length
  | .writeConfirmed ldn offset data => s.decideConfirmed rt ldn offset data
  | .timedWrite stamp group ldn offset data => s.decideTimedWrite rt stamp group ldn offset data
  | .timedLatch stamp lines action width => s.decideTimedLatch rt stamp lines action width
  | .cancel target => s.decideCancel rt target
  | .mgmtRead address words => .answer (s.mgmtRead rt address words)
  | .mgmtWrite bridgeNumber address words => .answer (s.mgmtWrite rt bridgeNumber address words)
  | .table command operand => s.decideTable rt command operand

/-- The checks of R28 in their order, and what follows them. -/
def State.decideFrame (s : State) (f : Frame) : Decision :=
  match parseRequest f with
  | .error st => .refuse st
  | .ok request =>
    if s.opState = .offline ∧ f.offlineRefused = true then .refuse .offline else s.decideRequest f.rt request

/-! ## Taking the head frame (R29, R33, R41) -/

/-- What comes of the head frame: none when its outcome needs a record and the Response Queue holds 12 or more (R33). -/
def State.takeHead (s : State) (f : Frame) (rest : List Frame) : Option State :=
  let s' := { s with intake := rest }
  match s'.decideFrame f with
  | .accept t => some t
  | .answer t => if s.intakeRoom then some t else none
  | .refuse st => if s.intakeRoom then some (s'.pushRecord (f.refusal st)) else none

/-- Intake takes the head frame when it is of the row given; else the step cannot happen and nothing changes (log 1). What the
frame lets the other blocks do at once ends the event (log 38). -/
def State.takeRow (s : State) (row : Instr) : State :=
  match s.intake with
  | [] => s
  | f :: rest =>
    if s.takesFrames && decide (rowOf f = row) then
      match s.takeHead f rest with
      | none => s
      | some t => t.endEvent
    else s

/-! ## Meanings -/

/-- BAD_KIND (R28): a frame of unknown KIND is refused. -/
def execBadKind (s : State) : Host.Outcome State Fault Refusal := .next (s.takeRow .badKind)

/-- READ (R34). -/
def execRead (s : State) : Host.Outcome State Fault Refusal := .next (s.takeRow .read)

/-- WRITE (R35). -/
def execWrite (s : State) : Host.Outcome State Fault Refusal := .next (s.takeRow .write)

/-- WRITE_CONFIRMED (R35). -/
def execWriteConfirmed (s : State) : Host.Outcome State Fault Refusal := .next (s.takeRow .writeConfirmed)

/-- TIMED_WRITE (R36). -/
def execTimedWrite (s : State) : Host.Outcome State Fault Refusal := .next (s.takeRow .timedWrite)

/-- TIMED_LATCH (R37). -/
def execTimedLatch (s : State) : Host.Outcome State Fault Refusal := .next (s.takeRow .timedLatch)

/-- CANCEL (R38). -/
def execCancel (s : State) : Host.Outcome State Fault Refusal := .next (s.takeRow .cancel)

/-- MGMT_READ (R166). -/
def execMgmtRead (s : State) : Host.Outcome State Fault Refusal := .next (s.takeRow .mgmtRead)

/-- BRANCH_STATUS_READ (R112). -/
def execBranchStatusRead (s : State) : Host.Outcome State Fault Refusal := .next (s.takeRow .branchStatusRead)

/-- MGMT_REGISTER_WRITE (R167). -/
def execMgmtRegisterWrite (s : State) : Host.Outcome State Fault Refusal := .next (s.takeRow .mgmtRegisterWrite)

/-- STATE_WRITE_ACTIVE (R175). -/
def execStateWriteActive (s : State) : Host.Outcome State Fault Refusal := .next (s.takeRow .stateWriteActive)

/-- STATE_WRITE_QUIET (R175). -/
def execStateWriteQuiet (s : State) : Host.Outcome State Fault Refusal := .next (s.takeRow .stateWriteQuiet)

/-- STATE_WRITE_OFFLINE (R178). -/
def execStateWriteOffline (s : State) : Host.Outcome State Fault Refusal := .next (s.takeRow .stateWriteOffline)

/-- RESET_COMMAND_BRIDGE (R180). -/
def execResetCommandBridge (s : State) : Host.Outcome State Fault Refusal := .next (s.takeRow .resetCommandBridge)

/-- BRANCH_RESET (R108). -/
def execBranchReset (s : State) : Host.Outcome State Fault Refusal := .next (s.takeRow .branchReset)

/-- BRANCH_ENABLE (R106). -/
def execBranchEnable (s : State) : Host.Outcome State Fault Refusal := .next (s.takeRow .branchEnable)

/-- BRANCH_DISABLE (R107). -/
def execBranchDisable (s : State) : Host.Outcome State Fault Refusal := .next (s.takeRow .branchDisable)

/-- COMMIT_LIMIT_WRITE (R50). -/
def execCommitLimitWrite (s : State) : Host.Outcome State Fault Refusal := .next (s.takeRow .commitLimitWrite)

/-- STAMP_WRITE (R129). -/
def execStampWrite (s : State) : Host.Outcome State Fault Refusal := .next (s.takeRow .stampWrite)

/-- TICK_SHIFT_WRITE (R128). -/
def execTickShiftWrite (s : State) : Host.Outcome State Fault Refusal := .next (s.takeRow .tickShiftWrite)

/-- EVENT_FLAGS_CLEAR (R171). -/
def execEventFlagsClear (s : State) : Host.Outcome State Fault Refusal := .next (s.takeRow .eventFlagsClear)

/-- NOTICE_MASK_WRITE (R172). -/
def execNoticeMaskWrite (s : State) : Host.Outcome State Fault Refusal := .next (s.takeRow .noticeMaskWrite)

/-- NOTICE_ARM_WRITE (R172). -/
def execNoticeArmWrite (s : State) : Host.Outcome State Fault Refusal := .next (s.takeRow .noticeArmWrite)

/-- FAULT_RECORD_CLEAR (R174). -/
def execFaultRecordClear (s : State) : Host.Outcome State Fault Refusal := .next (s.takeRow .faultRecordClear)

/-- GROUP_OPEN (R146). -/
def execGroupOpen (s : State) : Host.Outcome State Fault Refusal := .next (s.takeRow .groupOpen)

/-- GROUP_CLOSE (R147). -/
def execGroupClose (s : State) : Host.Outcome State Fault Refusal := .next (s.takeRow .groupClose)

/-- GROUP_ABORT (R148). -/
def execGroupAbort (s : State) : Host.Outcome State Fault Refusal := .next (s.takeRow .groupAbort)

/-- ATTENTION_ENTRY_WRITE (R157). -/
def execAttentionEntryWrite (s : State) : Host.Outcome State Fault Refusal := .next (s.takeRow .attentionEntryWrite)

/-- TABLE_INSERT (R10). -/
def execTableInsert (s : State) : Host.Outcome State Fault Refusal := .next (s.takeRow .tableInsert)

/-- TABLE_REPLACE (R11). -/
def execTableReplace (s : State) : Host.Outcome State Fault Refusal := .next (s.takeRow .tableReplace)

/-- TABLE_REMOVE (R12). -/
def execTableRemove (s : State) : Host.Outcome State Fault Refusal := .next (s.takeRow .tableRemove)

/-- TABLE_LOOKUP (R13). -/
def execTableLookup (s : State) : Host.Outcome State Fault Refusal := .next (s.takeRow .tableLookup)

/-- TABLE_NEXT (R14). -/
def execTableNext (s : State) : Host.Outcome State Fault Refusal := .next (s.takeRow .tableNext)

/-- TABLE_CLEAR (R15). -/
def execTableClear (s : State) : Host.Outcome State Fault Refusal := .next (s.takeRow .tableClear)

/-- TABLE_UNKNOWN_COMMAND (R9). -/
def execTableUnknownCommand (s : State) : Host.Outcome State Fault Refusal := .next (s.takeRow .tableUnknownCommand)

end Sys2Proof.Machine
end

