-- ==== Sys2Proof/Machine/Transmitter.lean ====
section
/-! DEFINITION. The end of a send (chapter 6), and the steps FRAME_SEND_BEGIN, SEND_END, HOLD_IN_ASSERT and
HOLD_IN_RELEASE. -/

namespace Sys2Proof.Machine

/-! ## The end of a send (R124) -/

/-- A frame of the entry in place i has been sent with `n` data bytes: SENT grows, the occupancy falls, sent pieces are
released and a grant pass follows; after its FINAL frame the entry is freed when no piece is ACTIVE (R58, R65, R94). -/
def State.splitSent (s : State) (i : Fin 16) (n : Nat) (final : Bool) : State :=
  match s.entry i with
  | none => s
  | some e =>
    let e' := SplitEntry.releaseSent
      { e with sent := e.sent + n, held := e.held.drop n, finalSent := e.finalSent || final }
    let s1 := s.setEntry i (some e')
    ((if n = 0 then s1 else s1.grantPass).roomFreed).freeIfDone i

/-- What the end of a send hands on (R124). -/
def State.endSend (s : State) (f : InFlight) : State :=
  let s' := { s with sending := none }
  match f.source with
  | .record true => s'.bridgeReset
  | .record false => s'
  | .notice => s'
  | .split i => s'.splitSent i f.dataCount f.final

/-! ## Meanings -/

/-- FRAME_SEND_BEGIN (R116, R117): the transmitter begins a frame when it may and a candidate exists (log 38). -/
def execFrameSendBegin (s : State) : Host.Outcome State Fault Refusal :=
  .next (if s.beginsFrame then (s.beginFrame).endEvent else s)

/-- SEND_END (R124): the frame's second CHECK byte has been sent; the transmitter hands on the effects, and begins the next
frame in the same event (R116; log 29). -/
def execSendEnd (s : State) : Host.Outcome State Fault Refusal :=
  match s.sending with
  | none => .next s
  | some f => .next (s.endSend f).endEvent

/-- HOLD_IN_ASSERT (R119). -/
def execHoldInAssert (s : State) : Host.Outcome State Fault Refusal := .next { s with holdIn := true }

/-- HOLD_IN_RELEASE (R119): a frame begins in the same event when a candidate exists (log 29). -/
def execHoldInRelease (s : State) : Host.Outcome State Fault Refusal := .next (State.endEvent { s with holdIn := false })

end Sys2Proof.Machine
end

