-- ==== Sys2Proof/Machine/Dispatch.lean ====
section
/-! DEFINITION. One arm for each command: a direct call of its meaning. -/

namespace Sys2Proof.Machine

/-- The effect of a command on everything but the queue of commands. -/
def exec (i : Instr) (s : State) : Host.Outcome State Fault Refusal :=
  match i with
  | .frameArrival bytes => Sys2Proof.Machine.execFrameArrival bytes s
  | .badKind => Sys2Proof.Machine.execBadKind s
  | .read => Sys2Proof.Machine.execRead s
  | .write => Sys2Proof.Machine.execWrite s
  | .writeConfirmed => Sys2Proof.Machine.execWriteConfirmed s
  | .timedWrite => Sys2Proof.Machine.execTimedWrite s
  | .timedLatch => Sys2Proof.Machine.execTimedLatch s
  | .cancel => Sys2Proof.Machine.execCancel s
  | .mgmtRead => Sys2Proof.Machine.execMgmtRead s
  | .branchStatusRead => Sys2Proof.Machine.execBranchStatusRead s
  | .mgmtRegisterWrite => Sys2Proof.Machine.execMgmtRegisterWrite s
  | .stateWriteActive => Sys2Proof.Machine.execStateWriteActive s
  | .stateWriteQuiet => Sys2Proof.Machine.execStateWriteQuiet s
  | .stateWriteOffline => Sys2Proof.Machine.execStateWriteOffline s
  | .resetCommandBridge => Sys2Proof.Machine.execResetCommandBridge s
  | .branchReset => Sys2Proof.Machine.execBranchReset s
  | .branchEnable => Sys2Proof.Machine.execBranchEnable s
  | .branchDisable => Sys2Proof.Machine.execBranchDisable s
  | .commitLimitWrite => Sys2Proof.Machine.execCommitLimitWrite s
  | .stampWrite => Sys2Proof.Machine.execStampWrite s
  | .tickShiftWrite => Sys2Proof.Machine.execTickShiftWrite s
  | .eventFlagsClear => Sys2Proof.Machine.execEventFlagsClear s
  | .noticeMaskWrite => Sys2Proof.Machine.execNoticeMaskWrite s
  | .noticeArmWrite => Sys2Proof.Machine.execNoticeArmWrite s
  | .faultRecordClear => Sys2Proof.Machine.execFaultRecordClear s
  | .groupOpen => Sys2Proof.Machine.execGroupOpen s
  | .groupClose => Sys2Proof.Machine.execGroupClose s
  | .groupAbort => Sys2Proof.Machine.execGroupAbort s
  | .attentionEntryWrite => Sys2Proof.Machine.execAttentionEntryWrite s
  | .tableInsert => Sys2Proof.Machine.execTableInsert s
  | .tableReplace => Sys2Proof.Machine.execTableReplace s
  | .tableRemove => Sys2Proof.Machine.execTableRemove s
  | .tableLookup => Sys2Proof.Machine.execTableLookup s
  | .tableNext => Sys2Proof.Machine.execTableNext s
  | .tableClear => Sys2Proof.Machine.execTableClear s
  | .tableUnknownCommand => Sys2Proof.Machine.execTableUnknownCommand s
  | .engineTakeOperation b => Sys2Proof.Machine.execEngineTakeOperation b s
  | .gapElapsed b => Sys2Proof.Machine.execGapElapsed b s
  | .busStartSeen b party => Sys2Proof.Machine.execBusStartSeen b party s
  | .busStopSeen b party => Sys2Proof.Machine.execBusStopSeen b party s
  | .arbitrationLoss b => Sys2Proof.Machine.execArbitrationLoss b s
  | .addressNack b => Sys2Proof.Machine.execAddressNack b s
  | .dataNack b => Sys2Proof.Machine.execDataNack b s
  | .readByteReceived b byte => Sys2Proof.Machine.execReadByteReceived b byte s
  | .pauseElapsed b => Sys2Proof.Machine.execPauseElapsed b s
  | .clockStuck b ms => Sys2Proof.Machine.execClockStuck b ms s
  | .busClearEnd b stopMade => Sys2Proof.Machine.execBusClearEnd b stopMade s
  | .busyLimitExceeded b => Sys2Proof.Machine.execBusyLimitExceeded b s
  | .runEnd b => Sys2Proof.Machine.execRunEnd b s
  | .answerPosted b => Sys2Proof.Machine.execAnswerPosted b s
  | .deadlineExpiry place => Sys2Proof.Machine.execDeadlineExpiry place s
  | .frameSendBegin => Sys2Proof.Machine.execFrameSendBegin s
  | .sendEnd => Sys2Proof.Machine.execSendEnd s
  | .holdInAssert => Sys2Proof.Machine.execHoldInAssert s
  | .holdInRelease => Sys2Proof.Machine.execHoldInRelease s
  | .stampAdvance => Sys2Proof.Machine.execStampAdvance s
  | .releaseTimedWrite => Sys2Proof.Machine.execReleaseTimedWrite s
  | .releaseBranchOff => Sys2Proof.Machine.execReleaseBranchOff s
  | .releaseTimedLatch => Sys2Proof.Machine.execReleaseTimedLatch s
  | .offlineAbortAnswer => Sys2Proof.Machine.execOfflineAbortAnswer s
  | .pulseEnd line => Sys2Proof.Machine.execPulseEnd line s
  | .attentionTrigger b => Sys2Proof.Machine.execAttentionTrigger b s
  | .attentionLineRise b => Sys2Proof.Machine.execAttentionLineRise b s
  | .holdoffEnd b => Sys2Proof.Machine.execHoldoffEnd b s
  | .wakeTimeEnd => Sys2Proof.Machine.execWakeTimeEnd s
  | .coldReset straps => Sys2Proof.Machine.execColdReset straps s
  | .syncReceived => Sys2Proof.Machine.execSyncReceived s
  | .byteAck b => Sys2Proof.Machine.execByteAck b s

end Sys2Proof.Machine
end

