-- ==== Sys2Proof/Machine/Idle.lean ====
section
/-! DEFINITION. What the part does by itself on an empty queue of commands (log 3): the steps that are due, and the passage
of one microsecond. -/

namespace Sys2Proof.Machine

/-- A command under a condition, as a list. -/
def dueIf (p : Bool) (c : Instr) : List Instr := if p then [c] else []

/-- The step by which Intake takes its head frame, when its outcome can be carried out (R29, R33). -/
def State.dueIntake (s : State) : List Instr :=
  match s.intake with
  | [] => []
  | f :: rest => dueIf (s.takesFrames && (s.takeHead f rest).isSome) (rowOf f)

/-- The steps due on one branch: an operation may be taken, a timer has reached its value, an answer can be posted
(R81, R90, R91, R97, R99, R102). -/
def State.dueBranch (s : State) (b : Fin 4) : List Instr :=
  let br := s.branch b
  dueIf (s.mayTake b) (.engineTakeOperation b) ++
  dueIf (br.op.isSome && decide (br.phase = .gap ∧ br.gap.toNat ≤ br.gapTimer)) (.gapElapsed b) ++
  dueIf (br.op.isSome && decide (br.phase = .pause ∧ br.pauseLength ≤ br.pauseTimer)) (.pauseElapsed b) ++
  dueIf br.clockIsStuck (.clockStuck b br.stretchCounter) ++
  dueIf br.busyExceeded (.busyLimitExceeded b) ++
  dueIf (s.mayPost b) (.answerPosted b)

/-- The steps due in the Release Unit: the tick timer, and the head (R128, R135 to R139, R142). -/
def State.dueRelease (s : State) : List Instr :=
  dueIf (decide (s.tickLength ≤ s.tickTimer)) .stampAdvance ++
  (if s.judgeHead.isSome then s.headRow.toList else [])

/-- The pulse timer of a line has reached its width (R154). -/
def Line.pulseOver (l : Line) : Bool :=
  match l.pulse with
  | none => false
  | some p => decide (p.width ≤ p.timer)

/-- The holdoff timer of an entry has reached its holdoff (R162). -/
def Attn.holdoffOver (a : Attn) : Bool := decide (a.status = .holdoff ∧ a.holdoffLength ≤ a.holdoffTimer)

/-- Every step of the part that is due in a state; each of them changes it. The events that others make (bytes and levels on
the trunk, the branches and the pins, and the end of a send) are not among them. -/
def State.due (s : State) : List Instr :=
  s.dueIntake ++
  (four.map s.dueBranch).flatten ++
  (sixteen.filter s.expiryDue).map Instr.deadlineExpiry ++
  dueIf s.beginsFrame .frameSendBegin ++
  s.dueRelease ++
  (four.filter fun l => (s.line l).pulseOver).map Instr.pulseEnd ++
  (four.filter fun b => (s.attn b).holdoffOver).map Instr.holdoffEnd ++
  dueIf (decide (s.opState = .waking ∧ Config.wakeMicros ≤ s.wakeTimer)) .wakeTimeEnd

/-! ## One microsecond (log 3, 21) -/

/-- The timers of a branch: the gap timer while the bus is FREE, the pause timer in PAUSE, the stretch counter while the line
that the engine has released is low (log 19), the busy timer while an enabled branch is BUSY under OTHER (R91, R97, R99,
R102). -/
def Branch.tick (br : Branch) : Branch :=
  { br with
    gapTimer := if br.bus = .free then min 255 (br.gapTimer + 1) else br.gapTimer
    pauseTimer := if br.phase = .pause then br.pauseTimer + 1 else br.pauseTimer
    stretchCounter := if br.stretchRuns ∧ 0 < br.stretchCounter then br.stretchCounter + 1 else br.stretchCounter
    busyTimer := if br.enabled ∧ br.bus = .busyOther then br.busyTimer + 1 else br.busyTimer }

/-- The pulse timer of a line (R154). -/
def Line.tick (l : Line) : Line := { l with pulse := l.pulse.map fun p => { p with timer := p.timer + 1 } }

/-- The holdoff timer of an attention entry (R162). -/
def Attn.tick (a : Attn) : Attn := if a.status = .holdoff then { a with holdoffTimer := a.holdoffTimer + 1 } else a

/-- One microsecond passes: every running timer counts it. -/
def State.tick (s : State) : State :=
  { s with
    tickTimer := s.tickTimer + 1
    wakeTimer := if s.opState = .waking then s.wakeTimer + 1 else s.wakeTimer
    branches := mapAll Branch.tick s.branches
    lines := mapAll Line.tick s.lines
    attns := mapAll Attn.tick s.attns }

end Sys2Proof.Machine
end

