-- ==== Sys2Proof/Machine/Step.lean ====
section
/-! DEFINITION. A step: the command at the front of the queue; on an empty queue the part runs by itself (log 3). -/

namespace Sys2Proof.Machine

/-- What an empty queue does (log 3): a step of the part that is due is taken, which of several is a free choice (log 5);
when none is due, one microsecond passes. -/
def idle (s : State) : Host.Outcome State Fault Refusal :=
  match s.pick s.due with
  | some (c, s') => exec c s'
  | none => .next s.tick

/-- Take the command at the front of the queue and carry it out on the state with the queue's rest. -/
def step (s : State) : Host.Outcome State Fault Refusal :=
  match s.pending with
  | [] => idle s
  | c :: rest => exec c { s with pending := rest }

/-- The command that a word spells, put at the front of the queue; the state unchanged when it spells none. -/
def State.withFetchWord (s : State) (nbits w : Nat) : State :=
  match Sys2Proof.decodeTableWord nbits w with
  | none => s
  | some c => { s with pending := c :: s.pending }

end Sys2Proof.Machine
end

