-- ==== Sys2Proof/Safety.lean ====
section
/-! DEFINITION. What counts as a safe run: the invariants that every step keeps; and the terms in which claims speak of a
frame at the head of the intake buffer and of its answer. -/

namespace Sys2Proof.Machine

/-! ## Invariants -/

/-- Every queue, table and counter is within the capacity the spec gives it: Response Queue 16 (R113), intake buffer 2 (R21),
Issue Queues 16 (R70), Release Queue 32 (R133), Route Table 64 with every LDN once, in ascending order (R2), commitment
limit 64 to 1023 (R50), members of a group 32 with no more counted than joined (R149, R150). -/
structure State.Bounded (s : State) : Prop where
  responses : s.responseQueue.length ≤ 16
  frames : s.intake.length ≤ 2
  operations : ∀ b, (s.branch b).queue.length ≤ 16
  releases : s.releaseQueue.length ≤ 32
  routes : s.routes.length ≤ 64
  ascending : s.routes.Pairwise fun x y => x.ldn.toNat < y.ldn.toNat
  limit : 64 ≤ s.commitLimit ∧ s.commitLimit ≤ 1023
  members : ∀ g, (s.group g).done + (s.group g).failed ≤ (s.group g).members ∧ (s.group g).members ≤ 32

/-- At most one tag holder carries a given requester and tag (R30). -/
def State.TagsUnique (s : State) : Prop := s.tagHolders.Nodup

/-- The completion buffer holds at most 512 bytes, the reserved places included (R52, R94). -/
def State.BufferFits (s : State) : Prop := s.occupancy ≤ 512

/-- The phases in which an engine holds an operation (R87). R87's table says of STOP that it holds one or not; that the phase
STOP always holds one, the closing STOP of a clear being no phase, is the model's choice (log 20). -/
def Phase.holdsOperation (p : Phase) : Bool :=
  match p with
  | .disabled | .idle | .posting | .clearing => false
  | _ => true

/-- An engine holds an operation exactly in the phases that hold one (R87), STOP among them (log 20). The phase stands for STATE
also while a branch reset shows RESETTING over a run that is being ended (log 16). -/
def State.EnginesHold (s : State) : Prop :=
  ∀ b, (s.branch b).op.isSome = (s.branch b).phase.holdsOperation

/-- A FINAL frame comes last (R58, R59, R65): none has begun for a GATHERING entry, none is in flight for an entry whose own
has been sent, and no frame of a free place is in flight. -/
structure State.FinalsFit (s : State) : Prop where
  gathering : ∀ i e, s.entry i = some e → e.state = .gathering → s.finalBegun i e = false
  once : ∀ i e, s.entry i = some e → e.finalSent = true → s.inFlightOf i = none
  held : ∀ i, s.entry i = none → s.inFlightOf i = none

/-- Nothing that the part does in the event in which it first may is left undone: no engine may take an operation (R90), no answer
may enter the Response Queue (R81), judging the Release Queue's head would change nothing (R135), no frame may begin (R116), and
DRAINING has not lost its reason (R176). -/
structure State.Settled (s : State) : Prop where
  engines : ∀ b, s.mayTake b = false
  answers : ∀ b, s.mayPost b = false
  head : s.judgeHead = none
  frame : s.beginsFrame = false
  draining : s.opState = .draining → s.quiescent = false

/-! ## Frames: a state but for the fields that something can reach -/

/-- State t, but with the fields of s that a poll attempt, a claim or the freeing of an entry can reach. `t.withPolls s = s`
says that t differs from s in these fields alone. -/
def State.withPolls (t s : State) : State :=
  { t with
    attns := s.attns, split := s.split, branches := s.branches, ageOrder := s.ageOrder, flags := s.flags,
    noticeArm := s.noticeArm, noticePending := s.noticePending, freeCount := s.freeCount }

/-- State t, but with the fields of s that the freeing of a slot, an engine's take and all that follows at once can reach, but for the
beginning of a frame. -/
def State.withSettle (t s : State) : State :=
  { t with
    split := s.split, branches := s.branches, releaseQueue := s.releaseQueue, freeCount := s.freeCount, intake := s.intake
    responseQueue := s.responseQueue, groups := s.groups, lines := s.lines, flags := s.flags, noticeArm := s.noticeArm
    noticePending := s.noticePending }

/-- State t, but with the fields of s that the end of an event can reach. -/
def State.withEnd (t s : State) : State :=
  { t.withSettle s with sending := s.sending, lastServed := s.lastServed, opState := s.opState }

/-- State t, but with the fields of s that the outcome report of a member can reach. -/
def State.withGroups (t s : State) : State :=
  { t with groups := s.groups, lines := s.lines, flags := s.flags, noticeArm := s.noticeArm, noticePending := s.noticePending }

/-- State t, but with the fields of s that the end of a run can reach. -/
def State.withRun (t s : State) : State :=
  { t with
    attns := s.attns, split := s.split, branches := s.branches, ageOrder := s.ageOrder, flags := s.flags,
    noticeArm := s.noticeArm, noticePending := s.noticePending, freeCount := s.freeCount, intake := s.intake,
    responseQueue := s.responseQueue, groups := s.groups, lines := s.lines, fault := s.fault,
    releaseQueue := s.releaseQueue }

/-! ## The head frame and its answer -/

/-- Frame f stands at the head of the buffer, with `rest` behind it, and Intake takes frames (R29, R41). -/
def State.AtHead (s : State) (f : Frame) (rest : List Frame) : Prop :=
  s.intake = f :: rest ∧ (s.opState = .active ∨ s.opState = .draining ∨ s.opState = .offline) ∧ s.intakeStopped = false

/-- Frame f is at the head, and Intake may place a record (R33). -/
def State.Ready (s : State) (f : Frame) (rest : List Frame) : Prop := s.AtHead f rest ∧ s.responseQueue.length < 12

/-- The rows by which Intake takes a frame. -/
def isIntakeRow : Instr → Bool
  | .badKind | .read | .write | .writeConfirmed | .timedWrite | .timedLatch | .cancel | .mgmtRead | .branchStatusRead => true
  | .mgmtRegisterWrite | .stateWriteActive | .stateWriteQuiet | .stateWriteOffline | .resetCommandBridge => true
  | .branchReset | .branchEnable | .branchDisable | .commitLimitWrite | .stampWrite | .tickShiftWrite => true
  | .eventFlagsClear | .noticeMaskWrite | .noticeArmWrite | .faultRecordClear | .groupOpen | .groupClose => true
  | .groupAbort | .attentionEntryWrite | .tableInsert | .tableReplace | .tableRemove | .tableLookup | .tableNext => true
  | .tableClear | .tableUnknownCommand => true
  | _ => false

/-- The head frame has left the buffer, and one record has entered the Response Queue. -/
def State.answeredWith (s : State) (rest : List Frame) (r : Record) : State :=
  { s with intake := rest, responseQueue := s.responseQueue ++ [r] }

/-- Byte k of a frame's body, 0 beyond its end. -/
def Frame.byte (f : Frame) (k : Nat) : Nat := (f.body.getD k 0).toNat

/-- BODYLEN or a size field of a frame of known KIND is out of range, kind by kind (R24). -/
def Frame.SizesFail (f : Frame) : Prop :=
  (f.kind = 0x11 ∧ (f.body.length ≠ 5 ∨ 256 * f.byte 3 + f.byte 4 = 0 ∨ 512 < 256 * f.byte 3 + f.byte 4)) ∨
  ((f.kind = 0x12 ∨ f.kind = 0x13) ∧ (f.body.length < 4 ∨ 64 < f.byte 3 ∨ f.body.length ≠ 4 + f.byte 3)) ∨
  (f.kind = 0x14 ∧ (f.body.length < 9 ∨ 64 < f.byte 8 ∨ f.body.length ≠ 9 + f.byte 8)) ∨
  (f.kind = 0x15 ∧ f.body.length ≠ 8) ∨
  (f.kind = 0x16 ∧ f.body.length ≠ 1) ∨
  (f.kind = 0x21 ∧ (f.body.length ≠ 3 ∨ f.byte 2 = 0 ∨ 8 < f.byte 2)) ∨
  (f.kind = 0x22 ∧ (f.body.length < 4 ∨ f.byte 3 = 0 ∨ 8 < f.byte 3 ∨ f.body.length ≠ 4 + 4 * f.byte 3)) ∨
  (f.kind = 0x23 ∧ (f.body = [] ∨ ((f.byte 0 = 1 ∨ f.byte 0 = 2) ∧ f.body.length ≠ 9) ∨
    ((f.byte 0 = 3 ∨ f.byte 0 = 4 ∨ f.byte 0 = 5) ∧ f.body.length ≠ 2) ∨ (f.byte 0 = 6 ∧ f.body.length ≠ 1)))

/-- A READ frame (chapter 2, section 2.3.1). -/
def readFrame (reqtag ldn : Byte) (offset length : BitVec 16) : Frame :=
  { kind := 0x11, reqtag := reqtag, body := ldn :: (bytes16 offset ++ bytes16 length) }

/-- The part of a body that a WRITE, a WRITE-CONFIRMED and a TIMED WRITE share. -/
def writeBody (ldn : Byte) (offset : BitVec 16) (data : List Byte) : List Byte :=
  ldn :: (bytes16 offset ++ BitVec.ofNat 8 data.length :: data)

/-- A TIMED LATCH frame. -/
def latchFrame (reqtag : Byte) (stamp : Stamp) (lines action : Byte) (pulseWidth : BitVec 16) : Frame :=
  { kind := 0x15, reqtag := reqtag, body := bytes32 stamp ++ lines :: action :: bytes16 pulseWidth }

/-- A CANCEL frame. -/
def cancelFrame (reqtag target : Byte) : Frame := { kind := 0x16, reqtag := reqtag, body := [target] }

/-- The pair that a CANCEL names: the frame's requester with TARGET TAG (R38). -/
def cancelTargetOf (reqtag target : Byte) : ReqTag :=
  { requester := (ReqTag.ofByte reqtag).requester, tag := target.extractLsb' 0 5 }

/-- A MGMT READ frame. -/
def mgmtReadFrame (reqtag : Byte) (address : BitVec 16) (words : Byte) : Frame :=
  { kind := 0x21, reqtag := reqtag, body := bytes16 address ++ [words] }

/-- A MGMT WRITE frame of one word. -/
def mgmtWriteFrame (reqtag bridge : Byte) (address : BitVec 16) (w : Word) : Frame :=
  { kind := 0x22, reqtag := reqtag, body := bridge :: (bytes16 address ++ 1 :: bytes32 w) }

/-- A MGMT WRITE frame of several words. -/
def mgmtWritesFrame (reqtag bridge : Byte) (address : BitVec 16) (words : List Word) : Frame :=
  { kind := 0x22, reqtag := reqtag,
    body := bridge :: (bytes16 address ++ BitVec.ofNat 8 words.length :: (words.map bytes32).flatten) }

/-- State t comes of s when words with others behind them are applied one at a time from an address upward (R167), each with what
follows at once (log 38). -/
def State.Applied (s : State) (address : Nat) : List Word → State → Prop
  | [], t => t = s
  | w :: rest, t => ∃ r s', registerAt address = some r ∧ s.writeWord r w = .applied s' ∧
    s'.settle.Applied (address + 1) rest t

/-- A TABLE COMMAND frame. -/
def tableFrame (reqtag command : Byte) (operand : List Byte) : Frame :=
  { kind := 0x23, reqtag := reqtag, body := command :: operand }

/-- A MGMT WRITE frame of one word has been taken and answered with a status, FAIL WORD 0: the bridge number is captured,
and nothing else has been done (R39, R40). -/
def State.writeTaken (s : State) (rest : List Frame) (reqtag bridge : Byte) (status : Status) : State :=
  { s.answeredWith rest (mgmtCompletion (ReqTag.ofByte reqtag) status 0 []) with bridgeNumber := bridge.extractLsb' 0 3 }

/-- The Release Queue with a new entry in its place, and due entries marked (R130, R134). -/
def State.inserted (s : State) (e : ReleaseEntry) : List ReleaseEntry :=
  (settleWaiting (insertRelease s.stamp e s.releaseQueue)).map (ReleaseEntry.markDue s.stamp)

/-- An entry but for what a grant pass changes: ISSUED and PIECES. -/
def SplitEntry.ungranted (e : SplitEntry) : SplitEntry := { e with issued := 0, pieces := [] }

/-- A branch but for its Issue Queue, what a grant pass changes. -/
def Branch.ungranted (br : Branch) : Branch := { br with queue := [] }

/-- A branch but for its Issue Queue and for what the end of a stall changes. -/
def Branch.unstalled (br : Branch) : Branch := { br with queue := [], phase := .idle, progress := Progress.none }

/-- An image of eight bytes that R3 refuses, with the fields that R26 reads: TARGET and ALIAS both given or neither; a TARGET with
a field out of range, or the general call for reading; an ALIAS that names the image's own LDN; an OWNER above 7; a class, an
ACCESS, a policy or a retry limit out of range. -/
def FaultyImage (ldn b1 branch busAddress other b5 b6 retry : Byte) : Prop :=
  b1.getLsbD 7 = b1.getLsbD 6 ∨
  (b1.getLsbD 7 = true ∧ (3 < branch.toNat ∨ 0x7F < busAddress.toNat ∨ 0x2F < b5.toNat ∨
    (busAddress = 0 ∧ (b6.extractLsb' 4 4 = 1 ∨ b6.extractLsb' 4 4 = 3)))) ∨
  (b1.getLsbD 6 = true ∧ other = ldn) ∨
  (b1.getLsbD 5 = true ∧ 7 < (b1.extractLsb' 0 4).toNat) ∨
  3 < (b5.extractLsb' 0 4).toNat ∨
  (b6.extractLsb' 4 4 ≠ 1 ∧ b6.extractLsb' 4 4 ≠ 2 ∧ b6.extractLsb' 4 4 ≠ 3) ∨
  1 < (b6.extractLsb' 0 4).toNat ∨
  15 < retry.toNat

/-- The bytes that the transmitter sends for a kind, a REQTAG byte and a body (chapter 2, section 2.1). -/
def wire (kind reqtag : Byte) (body : List Byte) : List Byte :=
  let covered := kind :: reqtag :: BitVec.ofNat 8 body.length :: body
  0xA5 :: (covered ++ bytes16 (crc covered))

end Sys2Proof.Machine
end

