-- ==== Sys2Proof/Certificates/Slice0/Obligations.lean ====
section
/-! DEFINITION. The statements for the provers. A conclusion `exec c s = .next { s with … }` names every change: all other
fields of the state keep their values. An equation `{ t with x := s.x } = s` says the same of a state t but for the field
x. A conclusion `exec c s = .next (State.endEvent t)` says that t is the command's effect, and that the event then ends: the other blocks
do what they do in the event in which they first may, as EventEnds says. -/

open Sys2Proof Sys2Proof.Machine

/-! ## A step, an empty queue, a reset, a flag -/

/-- A step takes the command at the front of the queue and carries it out on the state with the queue's rest. -/
def Obligations.StepTakesFrontCommand : Prop :=
  ∀ (c : Instr) (s : State), step { s with pending := c :: s.pending } = exec c s

/-- The model's choice (log 3, 5): with an empty queue the part takes a step that is due, with a free choice among several,
and when none is due one microsecond passes. -/
def Obligations.IdleQueueRunsThePart : Prop :=
  ∀ s : State, s.pending = [] →
    (s.due = [] → step s = .next s.tick) ∧
    (∀ c, s.due = [c] → step s = exec c s) ∧
    (s.due ≠ [] → ∃ c ∈ s.due, ∃ n, step s = exec c { s with freeCount := n })

/-- COLD_RESET leaves every block at its reset values; the sensed pins and the waiting commands stay as they are. RESET COMMAND 1
is answered, Intake takes no further frame, and the answer's record carries RESET FOLLOWS; at the end of that record's send
every block is at its reset values, with the straps as sampled, and the bridge is ACTIVE. -/
def Obligations.ResetValues : Prop :=
  (∀ (straps : Straps) (s : State), ∃ t, exec (.coldReset straps) s = .next t ∧
    t.straps = straps ∧ t.bridgeNumber = straps.id ∧
    t.commitLimit = (if straps.ovc then 256 else 64) ∧
    t.opState = (if straps.qstart then .quiet else .active) ∧ t.wakeTimer = 0 ∧
    t.rx = .hunting ∧ t.intake = [] ∧ t.intakeStopped = false ∧ t.routes = [] ∧
    (∀ i, t.entry i = none) ∧ t.ageOrder = [] ∧ t.timeoutClasses = #v[2000, 20000, 200000, 2000000] ∧
    (∀ b, (t.branch b).queue = [] ∧ (t.branch b).answers = [] ∧ (t.branch b).state = .disabled ∧
      (t.branch b).op = none ∧ (t.branch b).retryCount = 0 ∧ (t.branch b).lastCause = .absent ∧
      (t.branch b).bus = .free ∧ (t.branch b).busyFlagged = false ∧ (t.branch b).cutShort = false ∧
      (t.branch b).enabled = false ∧ (t.branch b).rate = .khz100 ∧ (t.branch b).gap = 5 ∧
      (t.branch b).retryPause = 10 ∧ (t.branch b).stretchLimit = 25 ∧ (t.branch b).busyLimit = 0) ∧
    t.responseQueue = [] ∧ t.sending = none ∧ t.lastServed = 15 ∧
    t.stamp = 0 ∧ t.tickTimer = 0 ∧ t.tickShift = 0 ∧ t.lateWindow = 1000 ∧ t.releaseQueue = [] ∧
    (∀ g, (t.group g).state = .idle ∧ (t.group g).generation = 0 ∧ (t.group g).members = 0 ∧ (t.group g).done = 0 ∧
      (t.group g).failed = 0 ∧ (t.group g).lines = 0 ∧ (t.group g).action = .set ∧ (t.group g).pulseWidth = 100 ∧
      (t.group g).policy = .hold) ∧
    (∀ l, t.line l = { resting := false, pulse := none }) ∧
    (∀ b, (t.attn b).enabled = false ∧ (t.attn b).mode = .edge ∧ (t.attn b).wake = false ∧ (t.attn b).ldn = 0 ∧
      (t.attn b).offset = 0 ∧ (t.attn b).length = 0 ∧ (t.attn b).holdoff = 0 ∧ (t.attn b).status = .idle ∧
      (t.attn b).pending = false ∧ (t.attn b).levelSpent = false ∧ (t.attn b).line = (s.attn b).line) ∧
    t.flags = 0 ∧ t.noticeMask = 0 ∧ t.noticeArm = false ∧ t.noticePending = false ∧ t.fault = none ∧
    t.holdIn = s.holdIn ∧ t.pending = s.pending) ∧
  (∀ (s : State) (rest : List Frame) (reqtag bridge : Byte), s.Ready (mgmtWriteFrame reqtag bridge 0x009 1) rest →
    exec .resetCommandBridge s = .next
      (State.endEvent { s.answeredWith rest { rt := ReqTag.ofByte reqtag, status := .ok, body := .mgmt 0 [] true } with
        bridgeNumber := bridge.extractLsb' 0 3
        intakeStopped := true })) ∧
  (∀ (s : State) (f : InFlight), s.sending = some f → f.source = .record true →
    exec .sendEnd s = .next
      (State.resetTo s.straps .active s.holdIn (mapAll Attn.line s.attns) s.pending s.freeCount)) ∧
  (∀ (straps : Straps) (s t : State), exec (.coldReset straps) s = .next t →
    { t with opState := .active } =
      State.resetTo straps .active s.holdIn (mapAll Attn.line s.attns) s.pending s.freeCount)

/-- Setting an event flag: it is set from then on, the others keep their values, and when it was clear, its mask bit is 1 and
NOTICE ARM is 1, the notice becomes pending and ARM becomes 0. Nothing else changes. NOTICE MASK stores its eleven bits and
NOTICE ARM its one; the notice is raised, and ARM becomes 0, when ARM is then 1 and a set flag is under the mask. -/
def Obligations.FlagsAndNotices : Prop :=
  (∀ (s : State) (f : EventFlag),
    (s.setFlag f).flag f = true ∧
    (∀ g, g ≠ f → (s.setFlag f).flag g = s.flag g) ∧
    (s.flag f = false → s.noticeMask.getLsbD f.bit = true → s.noticeArm = true →
      (s.setFlag f).noticePending = true ∧ (s.setFlag f).noticeArm = false) ∧
    (s.flag f = true ∨ s.noticeMask.getLsbD f.bit = false ∨ s.noticeArm = false →
      (s.setFlag f).noticePending = s.noticePending ∧ (s.setFlag f).noticeArm = s.noticeArm) ∧
    { s.setFlag f with flags := s.flags, noticeArm := s.noticeArm, noticePending := s.noticePending } = s) ∧
  (∀ (s : State) (rest : List Frame) (reqtag bridge : Byte) (w : Word),
    (s.Ready (mgmtWriteFrame reqtag bridge 0x031 w) rest →
      (s.noticeArm = true → (∃ f : EventFlag, s.flag f = true ∧ w.getLsbD f.bit = true) →
        exec .noticeMaskWrite s = .next (State.endEvent { s.writeTaken rest reqtag bridge .ok with
          noticeMask := w.setWidth 11, noticePending := true, noticeArm := false })) ∧
      ((s.noticeArm = false ∨ ∀ f : EventFlag, s.flag f = false ∨ w.getLsbD f.bit = false) →
        exec .noticeMaskWrite s = .next (State.endEvent { s.writeTaken rest reqtag bridge .ok with noticeMask := w.setWidth 11 }))) ∧
    (s.Ready (mgmtWriteFrame reqtag bridge 0x032 w) rest →
      (w.getLsbD 0 = true → (∃ f : EventFlag, s.flag f = true ∧ s.noticeMask.getLsbD f.bit = true) →
        exec .noticeArmWrite s = .next (State.endEvent { s.writeTaken rest reqtag bridge .ok with
          noticePending := true, noticeArm := false })) ∧
      ((w.getLsbD 0 = false ∨ ∀ f : EventFlag, s.flag f = false ∨ s.noticeMask.getLsbD f.bit = false) →
        exec .noticeArmWrite s = .next (State.endEvent { s.writeTaken rest reqtag bridge .ok with noticeArm := w.getLsbD 0 }))))

/-! ## Reception -/

/-- A frame that passes CHECK: placed at the tail of the intake buffer while it holds fewer than 2 frames, and in QUIET this
is a wake; else discarded with INTAKE_OVERRUN. The receiver returns to hunting. -/
def Obligations.GoodFrameArrives : Prop :=
  ∀ (s : State) (received bytes body : List Byte) (kind reqtag : Byte),
    s.rx = .gathering received → body.length ≤ 255 →
    0xA5 :: (received ++ bytes) = wire kind reqtag body →
    (s.intake.length < 2 → s.opState ≠ .quiet →
      exec (.frameArrival bytes) s =
        .next (State.endEvent { s with rx := .hunting, intake := s.intake ++ [{ kind := kind, reqtag := reqtag, body := body }] })) ∧
    (s.intake.length < 2 → s.opState = .quiet →
      exec (.frameArrival bytes) s = .next (State.setFlag
        { s with
          rx := .hunting, intake := s.intake ++ [{ kind := kind, reqtag := reqtag, body := body }],
          opState := .waking, wakeTimer := 0 } .woke).endEvent) ∧
    (2 ≤ s.intake.length →
      exec (.frameArrival bytes) s = .next (State.setFlag { s with rx := .hunting } .intakeOverrun).endEvent)

/-- While hunting, a byte other than 0xA5 is dropped and a byte 0xA5 begins a frame; while gathering a frame that it does not
complete, a byte 0xA5 is data. A frame whose CHECK fails sets FRAME_ERROR, and hunting resumes with the byte that followed its
SYNC. What the bytes received come to does not depend on where the stream is cut into pieces, but for the ends of the events
between them. -/
def Obligations.ReceiverHuntsAndGathers : Prop :=
  (∀ (s : State) (byte : Byte) (bytes : List Byte), s.rx = .hunting → byte ≠ 0xA5 →
    exec (.frameArrival [byte]) s = .next s.endEvent ∧
    exec (.frameArrival (byte :: bytes)) s = exec (.frameArrival bytes) s) ∧
  (∀ s : State,
    (s.rx = .hunting → exec .syncReceived s = .next (State.endEvent { s with rx := .gathering [] })) ∧
    (∀ received, s.rx = .gathering received → received.length < 2 →
      exec .syncReceived s = .next (State.endEvent { s with rx := .gathering (received ++ [0xA5]) })) ∧
    (∀ received kind reqtag bodylen more, s.rx = .gathering received →
      received ++ [0xA5] = kind :: reqtag :: bodylen :: more → more.length < bodylen.toNat + 2 →
      exec .syncReceived s = .next (State.endEvent { s with rx := .gathering (received ++ [0xA5]) }))) ∧
  (∀ (s : State) (received bytes more : List Byte) (kind reqtag bodylen : Byte),
    s.rx = .gathering received →
    received ++ bytes = kind :: reqtag :: bodylen :: more → more.length = bodylen.toNat + 2 →
    more.drop bodylen.toNat ≠ bytes16 (crc (kind :: reqtag :: bodylen :: more.take bodylen.toNat)) →
    exec (.frameArrival bytes) s =
      exec (.frameArrival (received ++ bytes)) (State.setFlag { s with rx := .hunting } .frameError)) ∧
  (∀ (s : State) (a b : List Byte), exec (.frameArrival a) s = .next (s.receive a).endEvent ∧
    s.receive (a ++ b) = (s.receive a).receive b)

/-! ## Resolution -/

/-- Resolution: a missing entry, and an alias whose target is missing or is an alias itself, have no route; then ACCESS, the
general call for reading and OWNER refuse, a poll having no requester; then a disabled branch. The route has the requested LDN
and the fields of the entry that has TARGET. Reach is judged by the route's width, a COUNT of 0 like any size. -/
def Obligations.RoutesResolve : Prop :=
  (∀ (s : State) (ldn : Byte) (kind : AccessKind) (requester : Option (BitVec 3)),
    (findRoute s.routes ldn = none → s.resolve ldn kind requester = .error .noRoute) ∧
    (∀ e other, findRoute s.routes ldn = some e → e.device = .aliasOf other →
      findRoute s.routes other = none ∨ (∃ x y, findRoute s.routes other = some x ∧ x.device = .aliasOf y) →
      s.resolve ldn kind requester = .error .noRoute) ∧
    (∀ e x b addr w, findRoute s.routes ldn = some e → x.device = .target b addr w →
      x = e ∨ (∃ other, e.device = .aliasOf other ∧ findRoute s.routes other = some x) →
      let allowed : Prop := (kind = .forRead → e.access ≠ .wo ∧ addr ≠ 0) ∧ (kind = .forWrite → e.access ≠ .ro) ∧
        ∀ r o, requester = some r → e.owner = some o → r = o
      (¬allowed → s.resolve ldn kind requester = .error .routeRefused) ∧
      (allowed → (s.branch b).enabled = false → s.resolve ldn kind requester = .error .branchOff) ∧
      (allowed → (s.branch b).enabled = true → s.resolve ldn kind requester = .ok
        { ldn := ldn, branch := b, busAddress := addr, width := w, persist := x.persist, timeoutClass := x.timeoutClass,
          timeoutPolicy := x.timeoutPolicy, retryLimit := x.retryLimit }))) ∧
  (∀ (s : State) (ldn : Byte) (kind : AccessKind) (requester : Option (BitVec 3)) (offset size : Nat),
    (∀ st, s.resolve ldn kind requester = .error st → s.routeFor ldn kind requester offset size = .error st) ∧
    (∀ r, s.resolve ldn kind requester = .ok r →
      let within : Prop := (r.width = 0 → offset = 0) ∧ (r.width = 1 → offset ≤ 255 ∧ offset + size ≤ 256) ∧
        (r.width = 2 → offset ≤ 65535 ∧ offset + size ≤ 65536)
      (within → s.routeFor ldn kind requester offset size = .ok r) ∧
      (¬within → s.routeFor ldn kind requester offset size = .error .badLength)))

/-! ## Taking frames -/

/-- A frame of unknown KIND is refused BAD_KIND; a TABLE COMMAND whose COMMAND byte names none of the six is answered
BAD_FIELD. -/
def Obligations.UnknownCodesAnswered : Prop :=
  (∀ (s : State) (f : Frame) (rest : List Frame), s.Ready f rest →
    f.kind ∉ ([0x11, 0x12, 0x13, 0x14, 0x15, 0x16, 0x21, 0x22, 0x23] : List Byte) →
    exec .badKind s = .next (s.answeredWith rest { rt := f.rt, status := .badKind, body := .completion 0 }).endEvent) ∧
  (∀ (s : State) (rest : List Frame) (reqtag command : Byte) (operand : List Byte),
    s.Ready (tableFrame reqtag command operand) rest → s.opState ≠ .offline →
    command ∉ ([1, 2, 3, 4, 5, 6] : List Byte) →
    exec .tableUnknownCommand s =
      .next (s.answeredWith rest { rt := ReqTag.ofByte reqtag, status := .badField, body := .mgmt 0 [] false }).endEvent)

/-- The head frame is not taken in QUIET and WAKING, nor while a bridge reset is awaited. While the Response Queue holds 12 or
more records, a frame whose outcome needs a record is not taken: a management, table or CANCEL frame, one that fails its
checks of form, one refused OFFLINE, and one that a later check refuses. -/
def Obligations.FramesWaitUntaken : Prop :=
  ∀ (s : State) (f : Frame) (rest : List Frame), s.intake = f :: rest →
    let live : Prop := s.live f.rt = true
    let noWrite (ldn : Byte) (offset count : Nat) : Prop :=
      ∃ st, s.routeFor ldn .forWrite (some f.rt.requester) offset count = .error st
    let queueFull (ldn : Byte) (offset count : Nat) : Prop :=
      ∃ r, s.routeFor ldn .forWrite (some f.rt.requester) offset count = .ok r ∧ 16 ≤ (s.branch r.branch).queue.length
    let outside (stamp : Stamp) : Prop :=
      (stamp - s.stamp).toInt < -(s.lateWindow.toNat : Int) ∨ 2 ^ 30 < (stamp - s.stamp).toInt
    (s.opState = .quiet ∨ s.opState = .waking ∨ s.intakeStopped = true → exec (rowOf f) s = .next s) ∧
    (12 ≤ s.responseQueue.length →
      (f.kind ∉ ([0x11, 0x12, 0x13, 0x14, 0x15] : List Byte) ∨ (∃ st, parseRequest f = .error st) ∨ s.opState = .offline →
        exec (rowOf f) s = .next s) ∧
      (∀ ldn offset length, parseRequest f = .ok (.read ldn offset length) →
        live ∨ (∃ st, s.routeFor ldn .forRead (some f.rt.requester) offset length = .error st) ∨ s.freePlace = none →
        exec (rowOf f) s = .next s) ∧
      (∀ ldn offset data, parseRequest f = .ok (.write ldn offset data) →
        noWrite ldn offset data.length ∨ queueFull ldn offset data.length → exec (rowOf f) s = .next s) ∧
      (∀ ldn offset data, parseRequest f = .ok (.writeConfirmed ldn offset data) →
        live ∨ noWrite ldn offset data.length ∨ queueFull ldn offset data.length → exec (rowOf f) s = .next s) ∧
      (∀ stamp group ldn offset data, parseRequest f = .ok (.timedWrite stamp group ldn offset data) →
        live ∨ noWrite ldn offset data.length ∨ outside stamp ∨
          (group ≠ 0 ∧ ∀ g : Fin 7, group.toNat = g.val + 1 →
            (s.group g).state ≠ .collecting ∨ 32 ≤ (s.group g).members) ∨
          32 ≤ s.releaseQueue.length → exec (rowOf f) s = .next s) ∧
      (∀ stamp lines action width, parseRequest f = .ok (.timedLatch stamp lines action width) →
        live ∨ outside stamp ∨ 32 ≤ s.releaseQueue.length → exec (rowOf f) s = .next s))

/-- Refusals in the order of the checks: BAD_LENGTH by the sizes of each kind, BAD_FIELD of a TIMED LATCH, OFFLINE, TAG_IN_USE,
the route and reach, the stamp window, the group, and BUSY. Each is one record, and changes nothing else. -/
def Obligations.RefusalsInOrder : Prop :=
  (∀ (s : State) (f : Frame) (rest : List Frame), s.Ready f rest →
    let refused (st : Status) : State := s.answeredWith rest
      { rt := f.rt, status := st,
        body := if f.kind ∈ ([0x21, 0x22, 0x23] : List Byte) then .mgmt 0 [] false else .completion 0 }
    let faulty : Prop := f.kind = 0x15 ∧ (f.byte 5 ∉ ([1, 2, 3, 4] : List Nat) ∨ (f.byte 5 = 4 ∧ f.byte 6 = 0 ∧ f.byte 7 = 0))
    (f.SizesFail → exec (rowOf f) s = .next (refused .badLength).endEvent) ∧
    (¬f.SizesFail → faulty → exec (rowOf f) s = .next (refused .badField).endEvent) ∧
    (¬f.SizesFail → ¬faulty → s.opState = .offline → f.kind ∈ ([0x11, 0x12, 0x13, 0x14, 0x15, 0x16, 0x23] : List Byte) →
      exec (rowOf f) s = .next (refused .offline).endEvent)) ∧
  (∀ (s : State) (rest : List Frame) (reqtag ldn : Byte) (offset length : BitVec 16),
    s.Ready (readFrame reqtag ldn offset length) rest → s.opState ≠ .offline →
    1 ≤ length.toNat → length.toNat ≤ 512 →
    let rt := ReqTag.ofByte reqtag
    let refused (st : Status) : State := s.answeredWith rest { rt := rt, status := st, body := .completion 0 }
    (s.live rt = true → exec .read s = .next (refused .tagInUse).endEvent) ∧
    (∀ st, s.live rt = false → s.routeFor ldn .forRead (some rt.requester) offset.toNat length.toNat = .error st →
      exec .read s = .next (refused st).endEvent) ∧
    (∀ r, s.live rt = false → s.routeFor ldn .forRead (some rt.requester) offset.toNat length.toNat = .ok r →
      (∀ i, s.entry i ≠ none) → exec .read s = .next (refused .busy).endEvent)) ∧
  (∀ (s : State) (rest : List Frame) (reqtag ldn : Byte) (offset : BitVec 16) (data : List Byte),
    data.length ≤ 64 → s.opState ≠ .offline →
    let rt := ReqTag.ofByte reqtag
    let refused (st : Status) : State := s.answeredWith rest { rt := rt, status := st, body := .completion 0 }
    let route := s.routeFor ldn .forWrite (some rt.requester) offset.toNat data.length
    let full : Prop := ∃ r, route = .ok r ∧ 16 ≤ (s.branch r.branch).queue.length
    (s.Ready { kind := 0x12, reqtag := reqtag, body := writeBody ldn offset data } rest →
      (∀ st, route = .error st → exec .write s = .next (refused st).endEvent) ∧
      (full → exec .write s = .next (refused .busy).endEvent)) ∧
    (s.Ready { kind := 0x13, reqtag := reqtag, body := writeBody ldn offset data } rest →
      (s.live rt = true → exec .writeConfirmed s = .next (refused .tagInUse).endEvent) ∧
      (∀ st, s.live rt = false → route = .error st → exec .writeConfirmed s = .next (refused st).endEvent) ∧
      (s.live rt = false → full → exec .writeConfirmed s = .next (refused .busy).endEvent)) ∧
    (∀ (stamp : Stamp) (group : Byte),
      s.Ready { kind := 0x14, reqtag := reqtag, body := bytes32 stamp ++ group :: writeBody ldn offset data } rest →
      let inside : Prop := -(s.lateWindow.toNat : Int) ≤ (stamp - s.stamp).toInt ∧ (stamp - s.stamp).toInt ≤ 2 ^ 30
      let joins : Prop := group = 0 ∨
        ∃ g : Fin 7, group.toNat = g.val + 1 ∧ (s.group g).state = .collecting ∧ (s.group g).members < 32
      (s.live rt = true → exec .timedWrite s = .next (refused .tagInUse).endEvent) ∧
      (∀ st, s.live rt = false → route = .error st → exec .timedWrite s = .next (refused st).endEvent) ∧
      (∀ r, s.live rt = false → route = .ok r →
        (¬inside → exec .timedWrite s = .next (refused .badStamp).endEvent) ∧
        (inside → ¬joins → exec .timedWrite s = .next (refused .badGroup).endEvent) ∧
        (inside → joins → 32 ≤ s.releaseQueue.length → exec .timedWrite s = .next (refused .busy).endEvent)))) ∧
  (∀ (s : State) (rest : List Frame) (reqtag lines action : Byte) (stamp : Stamp) (pulseWidth : BitVec 16),
    s.Ready (latchFrame reqtag stamp lines action pulseWidth) rest → s.opState ≠ .offline →
    action ∈ ([1, 2, 3, 4] : List Byte) → (action = 4 → pulseWidth ≠ 0) →
    let rt := ReqTag.ofByte reqtag
    let refused (st : Status) : State := s.answeredWith rest { rt := rt, status := st, body := .completion 0 }
    let inside : Prop := -(s.lateWindow.toNat : Int) ≤ (stamp - s.stamp).toInt ∧ (stamp - s.stamp).toInt ≤ 2 ^ 30
    (s.live rt = true → exec .timedLatch s = .next (refused .tagInUse).endEvent) ∧
    (s.live rt = false → ¬inside → exec .timedLatch s = .next (refused .badStamp).endEvent) ∧
    (s.live rt = false → inside → 32 ≤ s.releaseQueue.length → exec .timedLatch s = .next (refused .busy).endEvent))

/-- An accepted READ becomes a split entry in the lowest-indexed free place, with its owner, route snapshot, START, LENGTH and
DEADLINE and the youngest AGE; a grant pass follows, and the event ends. -/
def Obligations.ReadAccepted : Prop :=
  ∀ (s : State) (rest : List Frame) (reqtag ldn : Byte) (offset length : BitVec 16) (r : Route) (i : Fin 16),
    s.AtHead (readFrame reqtag ldn offset length) rest → s.opState ≠ .offline →
    1 ≤ length.toNat → length.toNat ≤ 512 → s.live (ReqTag.ofByte reqtag) = false →
    s.routeFor ldn .forRead (some (ReqTag.ofByte reqtag).requester) offset.toNat length.toNat = .ok r →
    s.entry i = none → (∀ j, j < i → s.entry j ≠ none) →
    exec .read s = .next (State.endEvent (State.grantPass
      (State.setEntry { s with intake := rest, ageOrder := s.ageOrder ++ [i] } i (some
        { owner := .trunk (ReqTag.ofByte reqtag), route := r, start := offset.toNat, length := length.toNat, issued := 0,
          received := 0, sent := 0, pieces := [],
          deadline := s.stamp + s.timeoutClasses[r.timeoutClass.val].setWidth 32, extended := false,
          state := .gathering, finalStatus := none, finalSent := false, held := [] }))))

/-- An accepted WRITE or WRITE-CONFIRMED becomes an operation at the tail of the Issue Queue of its route's branch, and the event
ends; nothing else changes. -/
def Obligations.WritesAccepted : Prop :=
  ∀ (s : State) (rest : List Frame) (reqtag ldn : Byte) (offset : BitVec 16) (data : List Byte) (r : Route),
    data.length ≤ 64 → s.opState ≠ .offline →
    s.routeFor ldn .forWrite (some (ReqTag.ofByte reqtag).requester) offset.toNat data.length = .ok r →
    (s.branch r.branch).queue.length < 16 →
    (s.AtHead { kind := 0x12, reqtag := reqtag, body := writeBody ldn offset data } rest →
      exec .write s = .next (State.endEvent (({ s with intake := rest } : State).modBranch r.branch fun br =>
        { br with queue := br.queue ++ [
          { body := .posted data, ldn := r.ldn, busAddress := r.busAddress, width := r.width, offset := offset.toNat,
            retryLimit := r.retryLimit, persist := r.persist }] }))) ∧
    (s.AtHead { kind := 0x13, reqtag := reqtag, body := writeBody ldn offset data } rest →
      s.live (ReqTag.ofByte reqtag) = false →
      exec .writeConfirmed s = .next (State.endEvent (({ s with intake := rest } : State).modBranch r.branch fun br =>
        { br with queue := br.queue ++ [
          { body := .confirmed (ReqTag.ofByte reqtag) data, ldn := r.ldn, busAddress := r.busAddress, width := r.width,
            offset := offset.toNat, retryLimit := r.retryLimit, persist := r.persist }] })))

/-- An accepted TIMED WRITE becomes a Release Queue entry in stamp order, due at once when its stamp is; with GROUP 1 to 7 it
carries the group's GENERATION and MEMBERS rises by one. A stamp from LATE WINDOW ticks behind to 2^30 ticks ahead is accepted,
any other refused BAD_STAMP; a closed group, and GROUP above 7, BAD_GROUP; and 32 entries held, BUSY. -/
def Obligations.TimedWriteAccepted : Prop :=
  ∀ (s : State) (rest : List Frame) (reqtag group ldn : Byte) (stamp : Stamp) (offset : BitVec 16) (data : List Byte)
    (r : Route),
    data.length ≤ 64 → s.opState ≠ .offline → s.live (ReqTag.ofByte reqtag) = false →
    s.routeFor ldn .forWrite (some (ReqTag.ofByte reqtag).requester) offset.toNat data.length = .ok r →
    s.AtHead { kind := 0x14, reqtag := reqtag, body := bytes32 stamp ++ group :: writeBody ldn offset data } rest →
    let inside : Prop := -(s.lateWindow.toNat : Int) ≤ (stamp - s.stamp).toInt ∧ (stamp - s.stamp).toInt ≤ 2 ^ 30
    let refused (st : Status) : State :=
      s.answeredWith rest { rt := ReqTag.ofByte reqtag, status := st, body := .completion 0 }
    (¬inside → s.responseQueue.length < 12 → exec .timedWrite s = .next (refused .badStamp).endEvent) ∧
    (inside → s.releaseQueue.length < 32 → group = 0 →
      exec .timedWrite s = .next (State.endEvent { s with
        intake := rest
        releaseQueue := s.inserted (newEntry (ReqTag.ofByte reqtag) stamp (.timedWrite none r offset.toNat data)) })) ∧
    (inside → 7 < group.toNat → s.responseQueue.length < 12 → exec .timedWrite s = .next (refused .badGroup).endEvent) ∧
    (inside → group = 0 → 32 ≤ s.releaseQueue.length → s.responseQueue.length < 12 →
      exec .timedWrite s = .next (refused .busy).endEvent) ∧
    (∀ g : Fin 7, inside → group.toNat = g.val + 1 →
      ((s.group g).state = .collecting → (s.group g).members < 32 → s.releaseQueue.length < 32 →
        exec .timedWrite s = .next (State.endEvent (({ s with
          intake := rest
          releaseQueue := s.inserted (newEntry (ReqTag.ofByte reqtag) stamp
            (.timedWrite (some (g, (s.group g).generation)) r offset.toNat data)) } : State).modGroup g fun x =>
              { x with members := x.members + 1 }))) ∧
      ((s.group g).state = .collecting → (s.group g).members < 32 → 32 ≤ s.releaseQueue.length →
        s.responseQueue.length < 12 → exec .timedWrite s = .next (refused .busy).endEvent) ∧
      ((s.group g).state ≠ .collecting ∨ 32 ≤ (s.group g).members → s.responseQueue.length < 12 →
        exec .timedWrite s = .next (refused .badGroup).endEvent))

/-- An accepted TIMED LATCH becomes a Release Queue entry with its requester and tag, STAMP, LINES, ACTION and PULSE WIDTH,
placed in stamp order; no route, no group and no LDN plays a part. An ACTION that names none, and PULSE with PULSE WIDTH 0, are
refused BAD_FIELD; a stamp outside the window BAD_STAMP; 32 entries held BUSY. One that selects no line is accepted, and its
release changes no line and answers OK. -/
def Obligations.TimedLatchAccepted : Prop :=
  (∀ (s : State) (rest : List Frame) (reqtag lines action : Byte) (stamp : Stamp) (pulseWidth : BitVec 16)
    (a : LatchAction),
    s.AtHead (latchFrame reqtag stamp lines action pulseWidth) rest → s.opState ≠ .offline →
    LatchAction.ofCode action.toNat = some a → (a = .pulse → pulseWidth ≠ 0) → s.live (ReqTag.ofByte reqtag) = false →
    let inside : Prop := -(s.lateWindow.toNat : Int) ≤ (stamp - s.stamp).toInt ∧ (stamp - s.stamp).toInt ≤ 2 ^ 30
    let refused (st : Status) : State :=
      s.answeredWith rest { rt := ReqTag.ofByte reqtag, status := st, body := .completion 0 }
    (inside → s.releaseQueue.length < 32 →
      exec .timedLatch s = .next (State.endEvent { s with
        intake := rest
        releaseQueue := s.inserted
          (newEntry (ReqTag.ofByte reqtag) stamp (.timedLatch (lines.extractLsb' 0 4) a pulseWidth)) })) ∧
    (¬inside → s.responseQueue.length < 12 → exec .timedLatch s = .next (refused .badStamp).endEvent) ∧
    (inside → 32 ≤ s.releaseQueue.length → s.responseQueue.length < 12 → exec .timedLatch s = .next (refused .busy).endEvent)) ∧
  (∀ (s : State) (rest : List Frame) (reqtag lines action : Byte) (stamp : Stamp) (pulseWidth : BitVec 16),
    s.Ready (latchFrame reqtag stamp lines action pulseWidth) rest →
    action ∉ ([1, 2, 3, 4] : List Byte) ∨ (action = 4 ∧ pulseWidth = 0) →
    exec .timedLatch s =
      .next (s.answeredWith rest { rt := ReqTag.ofByte reqtag, status := .badField, body := .completion 0 }).endEvent) ∧
  (∀ (s : State) (e : ReleaseEntry) (rest : List ReleaseEntry) (a : LatchAction) (pulseWidth : BitVec 16),
    s.releaseQueue = e :: rest → e.body = .timedLatch 0 a pulseWidth → e.due = true → s.opState ≠ .offline →
    s.responseQueue.length < 16 →
    exec .releaseTimedLatch s = .next (State.judge { s with
      releaseQueue := rest
      responseQueue := s.responseQueue ++ [{ rt := e.rt, status := .ok, body := .completion 0 }] }).endEvent)

/-- A new Release Queue entry goes immediately before the first entry whose stamp lies later, else to the tail, by the signed
distances, and never ahead of an entry that carries its DUE mark and reads as lying ahead because it has waited more than 2^31 - 1
ticks, which is taken as lying 2^31 ticks behind. One that a write of STAMP moved ahead is compared by its distance (log 39). -/
def Obligations.InsertKeepsStampOrder : Prop :=
  (∀ (counter : Stamp) (e : ReleaseEntry) (q : List ReleaseEntry),
    let longDue (x : ReleaseEntry) : Prop := x.due = true ∧ x.overdue = true ∧ 1 ≤ (x.stamp - counter).toInt
    ∃ before after, q = before ++ after ∧ insertRelease counter e q = before ++ e :: after ∧
      (∀ x ∈ after, ¬longDue x) ∧
      (∀ x, after.head? = some x → (e.stamp - counter).toInt < x.distance counter) ∧
      (∀ front x back, before = front ++ x :: back →
        x.distance counter ≤ (e.stamp - counter).toInt ∨ ∃ y ∈ back, longDue y)) ∧
  (∀ (counter : Stamp) (e : ReleaseEntry), e.due = true → e.overdue = true → 1 ≤ (e.stamp - counter).toInt →
    e.distance counter = -(2 ^ 31)) ∧
  (∀ (counter : Stamp) (e : ReleaseEntry), e.due = false ∨ e.overdue = false ∨ (e.stamp - counter).toInt ≤ 0 →
    e.distance counter = (e.stamp - counter).toInt) ∧
  (∀ (counter : Stamp) (e : ReleaseEntry), e.due = true → (e.stamp - counter).toInt = -(2 ^ 31) →
    (e.stamp - (counter + 1)).toInt = 2 ^ 31 - 1 ∧ (e.wait counter).distance (counter + 1) = -(2 ^ 31)) ∧
  (∀ (counter : Stamp) (e : ReleaseEntry), e.due = false ∨ (e.stamp - counter).toInt ≠ -(2 ^ 31) → e.wait counter = e)

/-! ## The grant pass, freed slots and the end of an event -/

/-- The grant pass, place by place in order of AGE: an entry that is not GATHERING or has no uncreated bytes, or whose queue
holds 16 operations, is passed over; a piece that does not fit the limit ends the pass; else the piece, of at most 64 bytes
below a limit of 128 and of all uncreated bytes from 128 on, is created at the tails, and the same entry is tried again. -/
def Obligations.GrantPassCreatesPieces : Prop :=
  (∀ s : State, s.grantPass = s.grantOver s.ageOrder ∧ s.grantOver [] = s) ∧
  (∀ (s : State) (i : Fin 16) (younger : List (Fin 16)),
    (s.entry i = none → s.grantOver (i :: younger) = s.grantOver younger) ∧
    (∀ e, s.entry i = some e →
      (e.state ≠ .gathering ∨ e.length ≤ e.issued ∨ 16 ≤ (s.branch e.route.branch).queue.length →
        s.grantOver (i :: younger) = s.grantOver younger) ∧
      (e.state = .gathering → e.issued < e.length → (s.branch e.route.branch).queue.length < 16 →
        let n := if s.commitLimit < 128 then min 64 (e.length - e.issued) else e.length - e.issued
        (s.commitLimit < s.committed + (n + 7) / 8 → s.grantOver (i :: younger) = s) ∧
        (s.committed + (n + 7) / 8 ≤ s.commitLimit →
          s.grantOver (i :: younger) = State.grantOver
            ((s.setEntry i (some { e with
              issued := e.issued + n
              pieces := e.pieces ++ [{ offset := e.start + e.issued, length := n, state := .queued }] })).modBranch
                e.route.branch fun br => { br with queue := br.queue ++ [
                  { body := .readPiece i n (e.issued == 0), ldn := e.route.ldn, busAddress := e.route.busAddress,
                    width := e.route.width, offset := e.start + e.issued, retryLimit := e.route.retryLimit,
                    persist := e.route.persist }] }) (i :: younger))))) ∧
  (∀ s : State, s.grantPass.committed ≤ max s.committed s.commitLimit ∧
    (∀ i, (s.grantPass.entry i).map SplitEntry.ungranted = (s.entry i).map SplitEntry.ungranted) ∧
    (∀ i e, s.entry i = some e → ∃ e' more, s.grantPass.entry i = some e' ∧ e'.pieces = e.pieces ++ more) ∧
    (∀ b, (s.grantPass.branch b).ungranted = (s.branch b).ungranted) ∧
    (∀ b, ∃ more, (s.grantPass.branch b).queue = (s.branch b).queue ++ more) ∧
    (s.commitLimit ≤ s.committed → s.grantPass = s) ∧
    { s.grantPass with split := s.split, branches := s.branches } = s)

/-- A slot that is freed goes in a free order (log 5, 40) to the due head that waits for it, after which what becomes the head
is judged at once, to Intake with a write that it accepts and that another source meets, and to the grant pass; the pass comes
last, and what it leaves goes to the head first (log 51). At the end of an event the engines take what they may, answers enter
the Response Queue, the Release Unit judges its head, then a frame begins when it may, and DRAINING ends in QUIET; of several
things the first is a free choice. Their place in the event, and the frame's after the rest, are the model's (log 5, 29, 38). -/
def Obligations.EventEnds : Prop :=
  (∀ (s : State) (e : ReleaseEntry) (rest : List ReleaseEntry) (member : Option (Fin 7 × Byte)) (r : Route) (offset : Nat)
    (data : List Byte), s.releaseQueue = e :: rest → e.body = .timedWrite member r offset data →
    e.waiting = true → e.due = true → s.opState ≠ .offline → (s.branch r.branch).enabled = true →
    (s.branch r.branch).queue.length < 16 →
    s.headTakesSlot = some (({ s with releaseQueue := rest } : State).modBranch r.branch fun br =>
      { br with queue := br.queue ++ [
        { body := .timed e.rt data member, ldn := r.ldn, busAddress := r.busAddress, width := r.width, offset := offset,
          retryLimit := r.retryLimit, persist := r.persist }] })) ∧
  (∀ s : State, s.releaseQueue = [] ∨
      (∃ e rest, s.releaseQueue = e :: rest ∧ (e.waiting = false ∨ e.due = false ∨ s.opState = .offline ∨
        ∀ member r offset data, e.body = .timedWrite member r offset data →
          (s.branch r.branch).enabled = false ∨ 16 ≤ (s.branch r.branch).queue.length)) →
    s.headTakesSlot = none) ∧
  (∀ (s : State) (b : Fin 4) (t : State), s.intakeTakesSlot b = some t ↔
    ∃ f rest u, s.intake = f :: rest ∧ (s.opState = .active ∨ s.opState = .draining) ∧ s.intakeStopped = false ∧
      (rowOf f = .write ∨ rowOf f = .writeConfirmed) ∧ s.decideFrame f = .accept u ∧
      (s.branch b).queue.length < (u.branch b).queue.length ∧ t = { u with intake := rest }) ∧
  (∀ (s : State) (b : Fin 4),
    (∃ n, let c : State := { s with freeCount := n }
      s.slotFreed b = c.grantPass ∨ (∃ t, c.headTakesSlot = some t ∧ s.slotFreed b = t.judge.slotFreed b) ∨
        ((s.headTakesSlot.isSome = true ∨ (s.branch b).queue.length < (s.grantPass.branch b).queue.length) ∧
          ∃ t, c.intakeTakesSlot b = some t ∧ s.slotFreed b = t.slotFreed b)) ∧
    (s.headTakesSlot = none →
      s.intakeTakesSlot b = none ∨ (s.grantPass.branch b).queue.length ≤ (s.branch b).queue.length →
      s.slotFreed b = s.grantPass)) ∧
  (∀ s : State, (s.judgeHead = none → s.judge = s) ∧ (∀ t, s.judgeHead = some t → s.judge = t.judge)) ∧
  (∀ s : State, (s.follows = [] → s.settle = s) ∧
    (s.follows ≠ [] → ∃ f ∈ s.follows, ∃ n, s.settle = State.settle (State.follow { s with freeCount := n } f))) ∧
  (∀ (s : State) (b : Fin 4), (Follow.take b ∈ s.follows ↔ s.mayTake b = true) ∧
    (s.mayTake b = true ↔
      (s.branch b).phase = .idle ∧ (s.branch b).resetting = false ∧ (s.branch b).answers = [] ∧ (s.branch b).queue ≠ [] ∧
        (s.opState = .active ∨ s.opState = .draining ∨ s.opState = .offline)) ∧ s.follow (.take b) = s.takeNext b) ∧
  (∀ (s : State) (b : Fin 4),
    (Follow.post b ∈ s.follows ↔ (s.branch b).answers ≠ [] ∧ s.responseQueue.length < 16) ∧
    (∀ r rest, (s.branch b).answers = r :: rest →
      s.follow (.post b) = ({ s with responseQueue := s.responseQueue ++ [r] } : State).modBranch b fun br =>
        { br with answers := rest, phase := if br.phase = .posting ∧ rest = [] then .idle else br.phase })) ∧
  (∀ s : State, (Follow.judge ∈ s.follows ↔ s.judgeHead.isSome = true) ∧
    s.follow .judge = s.judge ∧
    (s.releaseQueue = [] → s.judgeHead = none) ∧
    (∀ e rest, s.releaseQueue = e :: rest →
      (s.judgeHead = none ↔ (s.opState = .offline ∧ 16 ≤ s.responseQueue.length) ∨ (s.opState ≠ .offline ∧ (e.due = false ∨
        (e.waiting = true ∧
          match e.body with
          | .timedWrite _ r _ _ => ((s.branch r.branch).enabled = true ∧ 16 ≤ (s.branch r.branch).queue.length) ∨
              ((s.branch r.branch).enabled = false ∧ 16 ≤ s.responseQueue.length)
          | .timedLatch _ _ _ => 16 ≤ s.responseQueue.length))))) ∧
    (∀ c, s.judgeHead ≠ none → s.headRow = some c → exec c s = .next s.judge.endEvent)) ∧
  (∀ s : State, s.endEvent = (s.settle.beginFrame.settle).quiesce ∧
    (s.beginsFrame = true ↔ s.sending = none ∧ s.holdIn = false ∧
      (s.responseQueue ≠ [] ∨ s.noticePending = true ∨ ∃ i, s.frameReady i = true)) ∧
    (s.beginsFrame = false → s.beginFrame = s) ∧
    (s.beginsFrame = true → exec .frameSendBegin s = .next s.beginFrame.endEvent)) ∧
  (∀ s : State,
    let finished : Prop := s.opState = .draining ∧ (∀ i, s.entry i = none) ∧ (∀ b, (s.branch b).queue = []) ∧
      s.responseQueue = [] ∧ s.noticePending = false ∧ s.sending = none ∧ s.intake = []
    (finished → s.quiesce = { s with opState := .quiet }) ∧ (¬finished → s.quiesce = s)) ∧
  (∀ s : State, s.endEvent.Settled) ∧
  (∀ s : State, (∀ i, (s.settle.entry i).map SplitEntry.ungranted = (s.entry i).map SplitEntry.ungranted) ∧
    (∀ b, (s.branch b).phase ≠ .idle → (s.branch b).phase ≠ .posting →
      { s.settle.branch b with queue := [], answers := [] } = { s.branch b with queue := [], answers := [] }) ∧
    s.responseQueue <+: s.settle.responseQueue ∧ s.settle.withSettle s = s ∧ s.endEvent.withEnd s = s)

/-! ## Cancels -/

/-- CANCEL: NOT_FOUND without a holder; TOO_LATE for a split entry past GATHERING and for a write on its way to the bus; and a
Release Queue entry is removed, and its group is told. That a group which this makes fire acts before what a due head behind it
does is the model's choice (log 48). -/
def Obligations.CancelOfWaitingWork : Prop :=
  ∀ (s : State) (rest : List Frame) (reqtag target : Byte),
    s.Ready (cancelFrame reqtag target) rest → s.opState ≠ .offline →
    let rt := ReqTag.ofByte reqtag
    let pair := cancelTargetOf reqtag target
    (s.live pair = false →
      exec .cancel s = .next (s.answeredWith rest { rt := rt, status := .notFound, body := .completion 0 }).endEvent) ∧
    (∀ i e, s.placeOf pair = some i → s.entry i = some e → e.state ≠ .gathering →
      exec .cancel s = .next (s.answeredWith rest { rt := rt, status := .tooLate, body := .completion 0 }).endEvent) ∧
    (s.live pair = true → s.placeOf pair = none → (∀ e ∈ s.releaseQueue, e.rt ≠ pair) →
      exec .cancel s = .next (s.answeredWith rest { rt := rt, status := .tooLate, body := .completion 0 }).endEvent) ∧
    (∀ before e after, s.placeOf pair = none → s.releaseQueue = before ++ e :: after → e.rt = pair →
      (∀ x ∈ before ++ after, x.rt ≠ pair) →
      let taken : State := { s with
        intake := rest
        releaseQueue := before ++ after
        responseQueue := s.responseQueue ++ [{ rt := rt, status := .ok, body := .completion 0 }] }
      exec .cancel s = .next (taken.cancelMember e.member).endEvent ∧
      (e.member = none → exec .cancel s = .next taken.endEvent) ∧
      (∀ g, e.member = some (g, (s.group g).generation) → (s.group g).state = .collecting →
        (s.group g).done + (s.group g).failed < (s.group g).members →
        exec .cancel s = .next (taken.modGroup g fun x => { x with members := x.members - 1 }).endEvent))

/-- CANCEL of a read in GATHERING: it is answered OK and the entry is abandoned with CANCELLED; its QUEUED and HELD pieces are
released, and its bytes discarded but for those of a frame in flight; the engine that runs its ACTIVE piece is told. -/
def Obligations.CancelOfRead : Prop :=
  ∀ (s : State) (rest : List Frame) (reqtag target : Byte) (i : Fin 16) (e : SplitEntry),
    s.Ready (cancelFrame reqtag target) rest → s.opState ≠ .offline →
    s.placeOf (cancelTargetOf reqtag target) = some i → s.entry i = some e → e.state = .gathering → e.finalSent = false →
    ∃ t e', exec .cancel s = .next (State.endEvent t) ∧ t.entry i = some e' ∧
      e'.state = .abandoned ∧ e'.finalStatus = some .cancelled ∧ e'.held = e.held.take (s.bytesInFlight i) ∧
      e'.received = e.received ∧ e'.sent = e.sent ∧ (∀ p ∈ e'.pieces, p.state = .active ∧ p ∈ e.pieces) ∧
      (∀ o ∈ (t.branch e.route.branch).queue, o.isPieceOf i = false) ∧
      (∀ o, (s.branch e.route.branch).op = some o → o.isPieceOf i = true → (s.branch e.route.branch).told = none →
        (s.branch e.route.branch).phase ∈
          ([.start, .address, .subaddress, .restart, .readData, .stall, .stop] : List Phase) →
        (t.branch e.route.branch).told = some .unwanted ∧ (t.branch e.route.branch).op = some o) ∧
      t.intake <:+ rest ∧
      s.responseQueue ++ [{ rt := ReqTag.ofByte reqtag, status := .ok, body := .completion 0 }] <+: t.responseQueue ∧
      (∀ j, j ≠ i → (t.entry j).map SplitEntry.ungranted = (s.entry j).map SplitEntry.ungranted) ∧ t.withSettle s = s ∧
      (s.headHasWaited = false →
        t.responseQueue = s.responseQueue ++ [{ rt := ReqTag.ofByte reqtag, status := .ok, body := .completion 0 }] ∧
        { t with
          intake := s.intake, responseQueue := s.responseQueue, split := s.split, branches := s.branches,
          freeCount := s.freeCount } = s)

/-! ## Management reads -/

/-- MGMT READ: the words of the range at one moment, high byte first; BAD_ADDRESS with no DATA when an address of it is
unmapped. A read of branch b's status word also clears its cut-short indication. -/
def Obligations.MgmtReadAnswers : Prop :=
  (∀ (s : State) (rest : List Frame) (reqtag : Byte) (address : BitVec 16) (words : Byte),
    s.Ready (mgmtReadFrame reqtag address words) rest → 1 ≤ words.toNat → words.toNat ≤ 8 →
    (∀ b : Fin 4, ¬(address.toNat ≤ 0x45 + 8 * b.val ∧ 0x45 + 8 * b.val < address.toNat + words.toNat)) →
    (∀ rs, registersFrom address.toNat words.toNat = some rs →
      exec .mgmtRead s = .next (s.answeredWith rest
        { rt := ReqTag.ofByte reqtag, status := .ok,
          body := .mgmt 0 (rs.map fun r => bytes32 (s.readWord r)).flatten false }).endEvent) ∧
    ((∃ k < words.toNat, registerAt (address.toNat + k) = none) →
      exec .mgmtRead s = .next (s.answeredWith rest
        { rt := ReqTag.ofByte reqtag, status := .badAddress, body := .mgmt 0 [] false }).endEvent)) ∧
  (∀ (s : State) (rest : List Frame) (reqtag : Byte), s.Ready (mgmtReadFrame reqtag 0x000 1) rest →
    exec .mgmtRead s = .next (s.answeredWith rest
      { rt := ReqTag.ofByte reqtag, status := .ok, body := .mgmt 0 [0x57, 0xA6, 0x04, 0x40] false }).endEvent) ∧
  (∀ (s : State) (rest : List Frame) (reqtag : Byte), s.Ready (mgmtReadFrame reqtag 0x029 1) rest →
    exec .mgmtRead s = .next (s.answeredWith rest
      { rt := ReqTag.ofByte reqtag, status := .ok, body := .mgmt 0 (bytes32 s.stamp) false }).endEvent) ∧
  (∀ (s : State) (rest : List Frame) (reqtag : Byte) (b : Fin 4),
    s.Ready (mgmtReadFrame reqtag (BitVec.ofNat 16 (0x45 + 8 * b.val)) 1) rest →
    exec .branchStatusRead s = .next ((s.answeredWith rest
      { rt := ReqTag.ofByte reqtag, status := .ok, body := .mgmt 0 (bytes32 (s.branch b).statusWord) false }).modBranch b
        fun br => { br with cutShort := false }).endEvent)

/-- The words of the management space. Which address holds which word, and which addresses are unmapped; and the fields of the
words that carry more than one value, as sums over their bit positions, so that every other bit reads 0; and the numbers of the
codes in them. That the code field of a split summary reads 0 while FINAL STATUS is absent is the model's choice (log 47). -/
def Obligations.ManagementWordsLayout : Prop :=
  ([0x000, 0x001, 0x002, 0x004, 0x005, 0x008, 0x009, 0x020, 0x021, 0x022, 0x023, 0x024, 0x025, 0x026, 0x027, 0x028, 0x029,
      0x02A, 0x02B, 0x030, 0x031, 0x032, 0x034, 0x035, 0x036, 0x0B0].map registerAt =
    ([.ident, .revision, .firstCapability, .bridgeNumber, .straps, .state, .resetCommand, .commitLimit, .committed,
      .occupancy, .entriesInUse, .timeoutClass 0, .timeoutClass 1, .timeoutClass 2, .timeoutClass 3, .tickShift, .stamp,
      .lateWindow, .releaseDepth, .eventFlags, .noticeMask, .noticeArm, .fault 0, .fault 1, .fault 2,
      .latchLevels] : List Register).map some) ∧
  (∀ k : Fin 12, registerAt (0x010 + k.val) = some (.capability k)) ∧
  (∀ b : Fin 4, (List.range 8).map (fun k => registerAt (0x040 + 8 * b.val + k)) =
      [some (.branchControl b), some (.branchGap b), some (.branchPause b), some (.branchStretch b), some (.branchBusy b),
        some (.branchStatus b), some (.branchDepth b), none] ∧
    (List.range 4).map (fun k => registerAt (0x060 + 4 * b.val + k)) =
      [some (.attnControl b), some (.attnPlace b), some (.attnSize b), some (.attnStatus b)]) ∧
  (∀ g : Fin 7, (List.range 4).map (fun k => registerAt (0x074 + 4 * g.val + k)) =
    [some (.groupCommand g), some (.groupAction g), some (.groupWidth g), some (.groupStatus g)]) ∧
  (∀ i : Fin 16, registerAt (0x0A0 + i.val) = some (.splitSummary i) ∧
    registerAt (0x0C0 + 2 * i.val) = some (.splitPlace i) ∧ registerAt (0x0C1 + 2 * i.val) = some (.splitCounters i)) ∧
  (∀ a : Nat, a ∈ ([0x003, 0x006, 0x007, 0x02C, 0x02D, 0x02E, 0x02F, 0x033, 0x070, 0x071, 0x072, 0x073] : List Nat) ∨
      (0x00A ≤ a ∧ a ≤ 0x00F) ∨ (0x01C ≤ a ∧ a ≤ 0x01F) ∨ (0x037 ≤ a ∧ a ≤ 0x03F) ∨ (0x090 ≤ a ∧ a ≤ 0x09F) ∨
      (0x0B1 ≤ a ∧ a ≤ 0x0BF) ∨ 0x0E0 ≤ a → registerAt a = none) ∧
  ((List.map EngineState.code [.disabled, .idle, .gap, .busyOther, .start, .address, .subaddress, .writeData, .restart,
      .readData, .stall, .stop, .pause, .posting, .clearing, .resetting] = List.range 16) ∧
    [OpState.code .active, OpState.code .quiet, OpState.code .draining, OpState.code .offline, OpState.code .waking] =
      [0, 1, 2, 3, 4] ∧
    List.map Status.code [.ok, .short, .badKind, .badLength, .tagInUse, .busy, .offline, .noRoute, .routeRefused, .branchOff,
      .badStamp, .badGroup, .nack, .dataNack, .arbExhausted, .stuck, .branchReset, .timeout, .cancelled, .notFound, .tooLate,
      .aborted, .tableFull, .keyExists, .keyAbsent, .badField, .badAddress, .groupBusy] =
      [0x00, 0x01, 0x10, 0x11, 0x12, 0x13, 0x14, 0x15, 0x16, 0x17, 0x18, 0x19, 0x20, 0x21, 0x22, 0x23, 0x24, 0x30, 0x31, 0x32,
        0x33, 0x34, 0x40, 0x41, 0x42, 0x43, 0x44, 0x45] ∧
    List.map EventFlag.bit [.intakeOverrun, .frameError, .splitSlow, .splitTimeout, .writeFailed, .branchStuck, .branchBlocked,
      .releaseSlip, .groupFailed, .attnNoRoute, .woke] = List.range 11 ∧
    List.map Rate.code [.khz50, .khz100, .khz400, .khz1000] = [0, 1, 2, 3] ∧
    List.map Bus.code [.free, .busySelf, .busyOther] = [0, 1, 2] ∧
    List.map LastCause.code [.absent, .addressNack, .arbitration] = [0, 1, 2] ∧
    List.map AttnMode.code [.edge, .level] = [0, 1] ∧ List.map AttnStatus.code [.idle, .polling, .holdoff] = [0, 1, 2] ∧
    List.map GroupState.code [.idle, .collecting, .armed] = [0, 1, 2] ∧
    List.map LatchAction.code [.set, .clear, .toggle, .pulse] = [1, 2, 3, 4] ∧
    (∀ n a, LatchAction.ofCode n = some a ↔ a.code = n) ∧
    List.map GroupPolicy.code [.hold, .fireAnyway] = [0, 1] ∧
    List.map EntryState.code [.gathering, .delivering, .closing, .abandoned] = [0, 1, 2, 3]) ∧
  (∀ s : State,
    let reads (r : Register) (v : Nat) : Prop := (s.readWord r).toNat = v
    reads .ident 0x57A60440 ∧ reads .revision 1 ∧ reads .firstCapability 0x010 ∧ reads .resetCommand 0 ∧
    (∀ k : Fin 12, reads (.capability k) (([0x0001, 0x014, 0x00100200, 0x00080008, 0x0002, 0x018, 0x00040010, 0x00040004,
      0x0003, 0x000, 0x00200007, 0x00400010] : List Nat).getD k.val 0)) ∧
    reads .bridgeNumber s.bridgeNumber.toNat ∧
    reads .straps (s.straps.id.toNat + 2 ^ 4 * s.straps.ovc.toNat + 2 ^ 5 * s.straps.qstart.toNat) ∧
    reads .state s.opState.code ∧
    reads .latchLevels ((s.line 0).driven.toNat + 2 * (s.line 1).driven.toNat + 2 ^ 2 * (s.line 2).driven.toNat +
      2 ^ 3 * (s.line 3).driven.toNat) ∧
    (s.commitLimit < 2 ^ 32 → reads .commitLimit s.commitLimit) ∧ (s.committed < 2 ^ 32 → reads .committed s.committed) ∧
    (s.occupancy < 2 ^ 32 → reads .occupancy s.occupancy) ∧
    (∀ n, n = (s.split.toList.filter Option.isSome).length → reads .entriesInUse n) ∧
    (∀ c : Fin 4, reads (.timeoutClass c) s.timeoutClasses[c.val].toNat) ∧
    reads .tickShift s.tickShift.val ∧ reads .stamp s.stamp.toNat ∧ reads .lateWindow s.lateWindow.toNat ∧
    (s.releaseQueue.length < 2 ^ 32 → reads .releaseDepth s.releaseQueue.length) ∧
    reads .eventFlags s.flags.toNat ∧ reads .noticeMask s.noticeMask.toNat ∧ reads .noticeArm s.noticeArm.toNat ∧
    (s.fault = none → ∀ k, reads (.fault k) 0) ∧
    (∀ r, s.fault = some r → r.offset < 2 ^ 32 →
      reads (.fault 0) (2 ^ 31 + 2 ^ 30 * r.more.toNat + 2 ^ 24 * r.branch.val + 2 ^ 8 * r.status.code.toNat +
        r.busAddress.toNat) ∧ reads (.fault 1) r.ldn.toNat ∧ reads (.fault 2) r.offset) ∧
    (∀ b : Fin 4, let br := s.branch b
      let a := s.attn b
      reads (.branchControl b) (br.enabled.toNat + 2 ^ 4 * br.rate.code) ∧ reads (.branchGap b) br.gap.toNat ∧
      reads (.branchPause b) br.retryPause.toNat ∧ reads (.branchStretch b) br.stretchLimit.toNat ∧
      reads (.branchBusy b) br.busyLimit.toNat ∧
      (br.retryCount < 2 ^ 5 → br.answers.length < 2 ^ 9 → reads (.branchStatus b)
        (br.state.code + 2 ^ 4 * br.bus.code + 2 ^ 8 * br.retryCount + 2 ^ 13 * br.lastCause.code +
          2 ^ 15 * br.cutShort.toNat + 2 ^ 16 * br.answers.length)) ∧
      (br.queue.length < 2 ^ 32 → reads (.branchDepth b) br.queue.length) ∧
      reads (.attnControl b) (a.enabled.toNat + 2 * a.mode.code + 2 ^ 3 * a.wake.toNat) ∧
      reads (.attnPlace b) (2 ^ 16 * a.ldn.toNat + a.offset.toNat) ∧
      (a.length < 2 ^ 6 → reads (.attnSize b) (2 ^ 8 * a.length + a.holdoff.toNat)) ∧
      reads (.attnStatus b) (a.status.code + 2 ^ 2 * a.pending.toNat + 2 ^ 3 * a.levelSpent.toNat + 2 ^ 4 * a.line.toNat)) ∧
    (∀ g : Fin 7, let x := s.group g
      reads (.groupCommand g) 0 ∧
      reads (.groupAction g) (x.lines.toNat + 2 ^ 8 * x.action.code + 2 ^ 16 * x.policy.code) ∧
      reads (.groupWidth g) x.pulseWidth.toNat ∧
      (x.members < 2 ^ 6 → x.done < 2 ^ 6 → x.failed < 2 ^ 6 → reads (.groupStatus g)
        (2 ^ 24 * x.generation.toNat + 2 ^ 18 * x.members + 2 ^ 12 * x.done + 2 ^ 6 * x.failed + x.state.code))) ∧
    (∀ i : Fin 16, s.entry i = none →
      reads (.splitSummary i) 0 ∧ reads (.splitPlace i) 0 ∧ reads (.splitCounters i) 0) ∧
    (∀ (i : Fin 16) (e : SplitEntry), s.entry i = some e →
      (e.pieces.length < 2 ^ 4 → reads (.splitSummary i) (2 ^ 31 +
        (match e.owner with
          | .trunk rt => 2 ^ 27 * rt.requester.toNat + 2 ^ 22 * rt.tag.toNat
          | .attn b => 2 ^ 30 + 2 ^ 22 * b.val) +
        2 ^ 20 * e.state.code + 2 ^ 19 * e.finalStatus.isSome.toNat + 2 ^ 18 * e.extended.toNat +
        2 ^ 14 * e.pieces.length + (match e.finalStatus with
          | none => 0
          | some st => st.code.toNat))) ∧
      (e.start < 2 ^ 16 → e.length < 2 ^ 10 → reads (.splitPlace i) (2 ^ 16 * e.start + e.length)) ∧
      (e.issued < 2 ^ 10 → e.received < 2 ^ 10 → e.sent < 2 ^ 10 →
        reads (.splitCounters i) (2 ^ 20 * e.issued + 2 ^ 10 * e.received + e.sent))))

/-! ## Table commands -/

/-- INSERT: BAD_FIELD for a faulty image, then KEY_EXISTS for an LDN that is held, then TABLE_FULL with 64 entries held; else
the entry is held under its LDN, the number of entries rises by one, and no other LDN is affected. -/
def Obligations.TableInsertAdds : Prop :=
  ∀ (s : State) (rest : List Frame) (reqtag : Byte) (image : List Byte),
    s.Ready (tableFrame reqtag 1 image) rest → s.opState ≠ .offline → image.length = 8 →
    let rt := ReqTag.ofByte reqtag
    (∀ ldn b1 branch addr other b5 b6 retry, image = [ldn, b1, branch, addr, other, b5, b6, retry] →
      (FaultyImage ldn b1 branch addr other b5 b6 retry →
        exec .tableInsert s = .next (s.answeredWith rest { rt := rt, status := .badField, body := .mgmt 0 [] false }).endEvent) ∧
      (¬FaultyImage ldn b1 branch addr other b5 b6 retry → ∃ e, entryOfImage image = some e ∧ e.ldn = ldn)) ∧
    (∀ e old, entryOfImage image = some e → findRoute s.routes e.ldn = some old →
      exec .tableInsert s = .next (s.answeredWith rest { rt := rt, status := .keyExists, body := .mgmt 0 [] false }).endEvent) ∧
    (∀ e, entryOfImage image = some e → findRoute s.routes e.ldn = none → 64 ≤ s.routes.length →
      exec .tableInsert s = .next (s.answeredWith rest { rt := rt, status := .tableFull, body := .mgmt 0 [] false }).endEvent) ∧
    (∀ e, entryOfImage image = some e → findRoute s.routes e.ldn = none → s.routes.length < 64 →
      ∃ table, exec .tableInsert s = .next
          (State.endEvent { s.answeredWith rest { rt := rt, status := .ok, body := .mgmt 0 [] false } with routes := table }) ∧
        table.length = s.routes.length + 1 ∧ findRoute table e.ldn = some e ∧
        (∀ ldn, ldn ≠ e.ldn → findRoute table ldn = findRoute s.routes ldn))

/-- REPLACE and REMOVE: KEY_ABSENT for an LDN that is not held; else the held entry is exchanged or taken out, its image before
the change is answered, and no other LDN is affected. -/
def Obligations.TableReplaceRemove : Prop :=
  (∀ (s : State) (rest : List Frame) (reqtag : Byte) (image : List Byte),
    s.Ready (tableFrame reqtag 2 image) rest → s.opState ≠ .offline → image.length = 8 →
    let rt := ReqTag.ofByte reqtag
    (entryOfImage image = none →
      exec .tableReplace s = .next (s.answeredWith rest { rt := rt, status := .badField, body := .mgmt 0 [] false }).endEvent) ∧
    (∀ e, entryOfImage image = some e → findRoute s.routes e.ldn = none →
      exec .tableReplace s = .next (s.answeredWith rest { rt := rt, status := .keyAbsent, body := .mgmt 0 [] false }).endEvent) ∧
    (∀ e old, entryOfImage image = some e → findRoute s.routes e.ldn = some old →
      ∃ table, exec .tableReplace s = .next
          (State.endEvent { s.answeredWith rest { rt := rt, status := .ok, body := .mgmt 0 (imageOfEntry old) false } with routes := table }) ∧
        table.length = s.routes.length ∧ findRoute table e.ldn = some e ∧
        (∀ ldn, ldn ≠ e.ldn → findRoute table ldn = findRoute s.routes ldn))) ∧
  (∀ (s : State) (rest : List Frame) (reqtag ldn : Byte),
    s.Ready (tableFrame reqtag 3 [ldn]) rest → s.opState ≠ .offline →
    let rt := ReqTag.ofByte reqtag
    (findRoute s.routes ldn = none →
      exec .tableRemove s = .next (s.answeredWith rest { rt := rt, status := .keyAbsent, body := .mgmt 0 [] false }).endEvent) ∧
    (∀ old, findRoute s.routes ldn = some old →
      ∃ table, exec .tableRemove s = .next
          (State.endEvent { s.answeredWith rest { rt := rt, status := .ok, body := .mgmt 0 (imageOfEntry old) false } with routes := table }) ∧
        findRoute table ldn = none ∧ (∀ x, x ≠ ldn → findRoute table x = findRoute s.routes x) ∧
        (s.routes.Pairwise (fun x y => x.ldn.toNat < y.ldn.toNat) → table.length + 1 = s.routes.length)))

/-- LOOKUP returns the entry held under an LDN as it is held; NEXT the held entry with the smallest greater LDN, in a table that
holds every LDN once, in ascending order; KEY_ABSENT with no DATA when there is none. CLEAR empties the table, and no LDN has
a route then. -/
def Obligations.TableLookupNextClear : Prop :=
  (∀ (s : State) (rest : List Frame) (reqtag ldn : Byte),
    s.Ready (tableFrame reqtag 4 [ldn]) rest → s.opState ≠ .offline →
    let rt := ReqTag.ofByte reqtag
    (findRoute s.routes ldn = none →
      exec .tableLookup s = .next (s.answeredWith rest { rt := rt, status := .keyAbsent, body := .mgmt 0 [] false }).endEvent) ∧
    (∀ e, findRoute s.routes ldn = some e →
      exec .tableLookup s =
        .next (s.answeredWith rest { rt := rt, status := .ok, body := .mgmt 0 (imageOfEntry e) false }).endEvent) ∧
    (∀ e other, findRoute s.routes ldn = some e → e.device = .aliasOf other →
      ∃ b1, imageOfEntry e = [ldn, b1, 0, 0, other, BitVec.ofNat 8 e.timeoutClass.val,
          e.access.code ++ e.timeoutPolicy.code, BitVec.ofNat 8 e.retryLimit.val] ∧
        b1.getLsbD 7 = false ∧ b1.getLsbD 6 = true ∧ b1.getLsbD 5 = e.owner.isSome ∧ b1.getLsbD 4 = e.persist)) ∧
  (∀ (s : State) (rest : List Frame) (reqtag ldn : Byte),
    s.Ready (tableFrame reqtag 5 [ldn]) rest → s.opState ≠ .offline →
    s.routes.Pairwise (fun x y => x.ldn.toNat < y.ldn.toNat) →
    let rt := ReqTag.ofByte reqtag
    ((∀ e ∈ s.routes, e.ldn.toNat ≤ ldn.toNat) →
      exec .tableNext s = .next (s.answeredWith rest { rt := rt, status := .keyAbsent, body := .mgmt 0 [] false }).endEvent) ∧
    (∀ e ∈ s.routes, ldn.toNat < e.ldn.toNat →
      (∀ x ∈ s.routes, ldn.toNat < x.ldn.toNat → e.ldn.toNat ≤ x.ldn.toNat) →
      exec .tableNext s =
        .next (s.answeredWith rest { rt := rt, status := .ok, body := .mgmt 0 (imageOfEntry e) false }).endEvent ∧
      (imageOfEntry e).head? = some e.ldn)) ∧
  (∀ (s : State) (rest : List Frame) (reqtag : Byte),
    s.Ready (tableFrame reqtag 6 []) rest → s.opState ≠ .offline →
    exec .tableClear s = .next
      (State.endEvent { s.answeredWith rest { rt := ReqTag.ofByte reqtag, status := .ok, body := .mgmt 0 [] false } with routes := [] })) ∧
  (∀ (s : State) (ldn : Byte) (kind : AccessKind) (requester : Option (BitVec 3)), s.routes = [] →
    s.resolve ldn kind requester = .error .noRoute)

/-! ## Register writes -/

/-- COMMIT LIMIT is stored clamped to 64 to 1023; a grant pass follows, and the event ends. -/
def Obligations.CommitLimitWritten : Prop :=
  ∀ (s : State) (rest : List Frame) (reqtag bridge : Byte) (w : Word),
    s.Ready (mgmtWriteFrame reqtag bridge 0x020 w) rest →
    let limit := if w.toNat < 64 then 64 else if 1023 < w.toNat then 1023 else w.toNat
    exec .commitLimitWrite s = .next (State.endEvent (State.grantPass
      { s.writeTaken rest reqtag bridge .ok with commitLimit := limit }))

/-- TICK SHIFT, LATE WINDOW, the timeout classes, the fields of a branch and those of a group store a legal value, and refuse any
other with BAD_FIELD; a limit lowered below its running timer finds the clock stuck, or the bus blocked, at once; EVENT FLAGS
clears the flags whose bits are 1; a write of the fault record's first word empties it. -/
def Obligations.RegisterFieldsWritten : Prop :=
  ∀ (s : State) (rest : List Frame) (reqtag bridge : Byte) (w : Word),
    let taken := s.writeTaken rest reqtag bridge .ok
    let refused := s.writeTaken rest reqtag bridge .badField
    (s.Ready (mgmtWriteFrame reqtag bridge 0x028 w) rest →
      (∀ n : Fin 8, w.toNat = n.val → exec .tickShiftWrite s = .next (State.endEvent { taken with tickShift := n })) ∧
      (7 < w.toNat → exec .tickShiftWrite s = .next refused.endEvent)) ∧
    (s.Ready (mgmtWriteFrame reqtag bridge 0x030 w) rest →
      ∃ v, exec .eventFlagsClear s = .next (State.endEvent { taken with flags := v }) ∧
        ∀ k < 11, v.getLsbD k = (s.flags.getLsbD k && !w.getLsbD k)) ∧
    (s.Ready (mgmtWriteFrame reqtag bridge 0x034 w) rest →
      exec .faultRecordClear s = .next (State.endEvent { taken with fault := none })) ∧
    (s.Ready (mgmtWriteFrame reqtag bridge 0x02A w) rest →
      (∀ x : BitVec 16, w.toNat = x.toNat → exec .mgmtRegisterWrite s = .next (State.endEvent { taken with lateWindow := x })) ∧
      (65535 < w.toNat → exec .mgmtRegisterWrite s = .next refused.endEvent)) ∧
    (∀ c : Fin 4, s.Ready (mgmtWriteFrame reqtag bridge (BitVec.ofNat 16 (0x024 + c.val)) w) rest →
      (∀ x : BitVec 24, w.toNat = x.toNat → x ≠ 0 →
        exec .mgmtRegisterWrite s = .next (State.endEvent { taken with timeoutClasses := s.timeoutClasses.set c.val x c.isLt })) ∧
      (w = 0 ∨ 16777215 < w.toNat → exec .mgmtRegisterWrite s = .next refused.endEvent)) ∧
    (∀ b : Fin 4, s.Ready (mgmtWriteFrame reqtag bridge (BitVec.ofNat 16 (0x041 + 8 * b.val)) w) rest →
      (∀ x : Byte, w.toNat = x.toNat →
        exec .mgmtRegisterWrite s = .next (taken.modBranch b fun br => { br with gap := x }).endEvent) ∧
      (255 < w.toNat → exec .mgmtRegisterWrite s = .next refused.endEvent)) ∧
    (∀ b : Fin 4, s.Ready (mgmtWriteFrame reqtag bridge (BitVec.ofNat 16 (0x042 + 8 * b.val)) w) rest →
      (∀ x : Byte, w.toNat = x.toNat →
        exec .mgmtRegisterWrite s = .next (taken.modBranch b fun br => { br with retryPause := x }).endEvent) ∧
      (255 < w.toNat → exec .mgmtRegisterWrite s = .next refused.endEvent)) ∧
    (∀ b : Fin 4, s.Ready (mgmtWriteFrame reqtag bridge (BitVec.ofNat 16 (0x043 + 8 * b.val)) w) rest →
      (∀ x : Byte, w.toNat = x.toNat →
        let stored := taken.modBranch b fun br => { br with stretchLimit := x }
        let runs : Prop := (s.branch b).phase ∈
          ([.start, .address, .subaddress, .writeData, .restart, .readData, .stop, .clearing] : List Phase)
        (¬runs ∨ x = 0 ∨ (s.branch b).stretchCounter ≤ x.toNat * 1000 → exec .mgmtRegisterWrite s = .next stored.endEvent) ∧
        (runs → x ≠ 0 → x.toNat * 1000 < (s.branch b).stretchCounter →
          ∃ t, exec (.clockStuck b (s.branch b).stretchCounter) { stored with intake := [] } = .next (State.endEvent t) ∧
            t = State.judgeClock { stored with intake := [] } b ∧
            exec .mgmtRegisterWrite s = .next (State.endEvent { t with intake := rest }))) ∧
      (255 < w.toNat → exec .mgmtRegisterWrite s = .next refused.endEvent)) ∧
    (∀ b : Fin 4, s.Ready (mgmtWriteFrame reqtag bridge (BitVec.ofNat 16 (0x044 + 8 * b.val)) w) rest →
      (∀ x : Byte, w.toNat = x.toNat →
        let exceeded : Prop := (s.branch b).enabled = true ∧ (s.branch b).bus = .busyOther ∧ (s.branch b).busyFlagged = false ∧
          x ≠ 0 ∧ x.toNat * 1000 < (s.branch b).busyTimer
        (¬exceeded → exec .mgmtRegisterWrite s = .next (taken.modBranch b fun br => { br with busyLimit := x }).endEvent) ∧
        (exceeded → exec .mgmtRegisterWrite s = .next (State.setFlag
          (taken.modBranch b fun br => { br with busyLimit := x, busyFlagged := true }) .branchBlocked).endEvent)) ∧
      (255 < w.toNat → exec .mgmtRegisterWrite s = .next refused.endEvent)) ∧
    (∀ g : Fin 7, s.Ready (mgmtWriteFrame reqtag bridge (BitVec.ofNat 16 (0x075 + 4 * g.val)) w) rest →
      (∀ (action : LatchAction) (policy : GroupPolicy), (w.extractLsb' 8 3).toNat = action.code →
        (w.extractLsb' 16 2).toNat = policy.code →
        exec .mgmtRegisterWrite s = .next (taken.modGroup g fun x =>
          { x with lines := w.extractLsb' 0 4, action := action, policy := policy }).endEvent) ∧
      (w.extractLsb' 8 3 ∉ ([1, 2, 3, 4] : List (BitVec 3)) ∨ w.extractLsb' 16 2 ∉ ([0, 1] : List (BitVec 2)) →
        exec .mgmtRegisterWrite s = .next refused.endEvent)) ∧
    (∀ g : Fin 7, s.Ready (mgmtWriteFrame reqtag bridge (BitVec.ofNat 16 (0x076 + 4 * g.val)) w) rest →
      (∀ x : BitVec 16, w.toNat = x.toNat → x ≠ 0 →
        exec .mgmtRegisterWrite s = .next (taken.modGroup g fun y => { y with pulseWidth := x }).endEvent) ∧
      (w = 0 ∨ 65535 < w.toNat → exec .mgmtRegisterWrite s = .next refused.endEvent))

/-- A MGMT WRITE of 1 to 8 words at any ADDRESS, taken by the row of its first word (log 9): the words are applied in order from
ADDRESS upward. When all of them can be, the answer is OK; else the write stops at the first word k that is unmapped
(BAD_ADDRESS) or that the word's register refuses, FAIL WORD is k, the words before it stay applied, and no later word is looked
at. A read-only word is passed over. The answer's record stands in the Response Queue where it was when the write was taken,
ahead of every record that the words cause, and is filled in at the end: R178 states this of OFFLINE, and for other writes it is
the model's (log 11). What follows at once a word is done before the next (log 38). -/
def Obligations.LongWriteStops : Prop :=
  (∀ (s : State) (rest : List Frame) (reqtag bridge : Byte) (address : BitVec 16) (first : Word) (others : List Word),
    others.length ≤ 7 → s.Ready (mgmtWritesFrame reqtag bridge address (first :: others)) rest →
    let row := mgmtWriteRow address.toNat first
    let words := first :: others
    let started := s.writeTaken [] reqtag bridge .ok
    let answered (t : State) (status : Status) (failWord : Nat) : State := { t with
      intake := rest
      responseQueue := t.responseQueue.set s.responseQueue.length
        { rt := ReqTag.ofByte reqtag, status := status, body := .mgmt failWord [] t.intakeStopped } }
    (∀ before w after t, words = before ++ w :: after → started.Applied address.toNat before t →
      (registerAt (address.toNat + before.length) = none → exec row s = .next (answered t .badAddress before.length).endEvent) ∧
      (∀ r st, registerAt (address.toNat + before.length) = some r → t.writeWord r w = .stops st →
        exec row s = .next (answered t st before.length).endEvent) ∧
      (∀ r u, after = [] → registerAt (address.toNat + before.length) = some r → t.writeWord r w = .applied u →
        exec row s = .next (answered u .ok 0).endEvent)) ∧
    (∃ before w after t, words = before ++ w :: after ∧ started.Applied address.toNat before t ∧
      (registerAt (address.toNat + before.length) = none ∨
        (∃ r st, registerAt (address.toNat + before.length) = some r ∧ t.writeWord r w = .stops st) ∨
        (after = [] ∧ ∃ r u, registerAt (address.toNat + before.length) = some r ∧ t.writeWord r w = .applied u)))) ∧
  (∀ (s : State) (r : Register) (w : Word),
    r ∈ ([.ident, .revision, .firstCapability, .bridgeNumber, .straps, .committed, .occupancy, .entriesInUse,
      .releaseDepth, .fault 1, .fault 2, .latchLevels] : List Register) ∨ (∃ k, r = .capability k) ∨
      (∃ b, r = .branchStatus b ∨ r = .branchDepth b ∨ r = .attnStatus b) ∨ (∃ g, r = .groupStatus g) ∨
      (∃ i, r = .splitSummary i ∨ r = .splitPlace i ∨ r = .splitCounters i) →
    s.writeWord r w = .applied s) ∧
  (∀ (s : State) (rest : List Frame) (reqtag bridge : Byte) (a b c : Word),
    let ended (t : State) (status : Status) (failWord : Nat) : State := { t with
      intake := rest
      responseQueue := t.responseQueue.set s.responseQueue.length
        { rt := ReqTag.ofByte reqtag, status := status, body := .mgmt failWord [] false } }
    (∀ x : BitVec 16, s.Ready (mgmtWritesFrame reqtag bridge 0x02A [a, b, c]) rest → a.toNat = x.toNat →
      let t := State.settle { s.writeTaken [] reqtag bridge .ok with lateWindow := x }
      t.lateWindow = x ∧ exec .mgmtRegisterWrite s = .next (ended t .badAddress 2).endEvent) ∧
    (∀ x : BitVec 24, s.Ready (mgmtWritesFrame reqtag bridge 0x027 [a, b, c]) rest → a.toNat = x.toNat → x ≠ 0 →
      7 < b.toNat →
      let t := State.settle { s.writeTaken [] reqtag bridge .ok with timeoutClasses := s.timeoutClasses.set 3 x }
      t.timeoutClasses = s.timeoutClasses.set 3 x ∧ exec .mgmtRegisterWrite s = .next (ended t .badField 1).endEvent)) ∧
  (∀ (s : State) (rest : List Frame) (reqtag bridge : Byte) (address : BitVec 16) (w : Word),
    s.Ready (mgmtWriteFrame reqtag bridge address w) rest → registerAt address.toNat = none →
    exec .mgmtRegisterWrite s = .next (s.writeTaken rest reqtag bridge .badAddress).endEvent) ∧
  (∀ (s : State) (rest : List Frame) (reqtag bridge : Byte) (address : BitVec 16) (w : Word),
    s.Ready (mgmtWriteFrame reqtag bridge address w) rest →
    address ∈ ([0x000, 0x001, 0x002, 0x004, 0x005, 0x021, 0x022, 0x023, 0x02B, 0x035, 0x036, 0x0B0] : List (BitVec 16)) →
    exec .mgmtRegisterWrite s = .next (s.writeTaken rest reqtag bridge .ok).endEvent)

/-! ## Operating states and resets -/

/-- Writes of STATE: QUIET takes ACTIVE to DRAINING; ACTIVE takes DRAINING back, and in OFFLINE makes a bridge reset follow the
answer; the state that is already held changes nothing; QUIET in OFFLINE is BAD_FIELD. The values 2 and 4 are BAD_FIELD, and every
value from 5 upward is OK and ignored. RESET COMMAND 0 is OK and does nothing; a value that names no reset is BAD_FIELD. -/
def Obligations.StateWrites : Prop :=
  ∀ (s : State) (rest : List Frame) (reqtag bridge : Byte),
    (s.Ready (mgmtWriteFrame reqtag bridge 0x008 1) rest →
      (s.opState = .active →
        exec .stateWriteQuiet s = .next (State.endEvent { s.writeTaken rest reqtag bridge .ok with opState := .draining })) ∧
      (s.opState = .draining → exec .stateWriteQuiet s = .next (s.writeTaken rest reqtag bridge .ok).endEvent) ∧
      (s.opState = .offline → exec .stateWriteQuiet s = .next (s.writeTaken rest reqtag bridge .badField).endEvent)) ∧
    (s.Ready (mgmtWriteFrame reqtag bridge 0x008 0) rest →
      (s.opState = .active → exec .stateWriteActive s = .next (s.writeTaken rest reqtag bridge .ok).endEvent) ∧
      (s.opState = .draining →
        exec .stateWriteActive s = .next (State.endEvent { s.writeTaken rest reqtag bridge .ok with opState := .active })) ∧
      (s.opState = .offline →
        exec .stateWriteActive s = .next
          (State.endEvent { s.answeredWith rest { rt := ReqTag.ofByte reqtag, status := .ok, body := .mgmt 0 [] true } with
            bridgeNumber := bridge.extractLsb' 0 3
            intakeStopped := true }))) ∧
    (s.Ready (mgmtWriteFrame reqtag bridge 0x008 3) rest → s.opState = .offline →
      exec .stateWriteOffline s = .next (s.writeTaken rest reqtag bridge .ok).endEvent) ∧
    (∀ w : Word, s.Ready (mgmtWriteFrame reqtag bridge 0x008 w) rest →
      (w = 2 ∨ w = 4 → exec .mgmtRegisterWrite s = .next (s.writeTaken rest reqtag bridge .badField).endEvent) ∧
      (5 ≤ w.toNat → exec .mgmtRegisterWrite s = .next (s.writeTaken rest reqtag bridge .ok).endEvent)) ∧
    (∀ w : Word, s.Ready (mgmtWriteFrame reqtag bridge 0x009 w) rest →
      (w = 0 → exec .mgmtRegisterWrite s = .next (s.writeTaken rest reqtag bridge .ok).endEvent) ∧
      (w ∉ ([0, 1, 0x10, 0x11, 0x12, 0x13] : List Word) →
        exec .mgmtRegisterWrite s = .next (s.writeTaken rest reqtag bridge .badField).endEvent))

/-- Entry into OFFLINE: the Issue Queues are emptied and their confirmed and timed writes answered ABORTED; every entry whose
FINAL frame has not begun is abandoned with ABORTED; a transfer is told to end; every group is IDLE, every PENDING mark clear;
the Release Queue is as it was. -/
def Obligations.OfflineEntered : Prop :=
  ∀ (s : State) (rest : List Frame) (reqtag bridge : Byte),
    s.Ready (mgmtWriteFrame reqtag bridge 0x008 3) rest → s.opState = .active ∨ s.opState = .draining →
    ∃ t more, exec .stateWriteOffline s = .next (State.endEvent t) ∧ t.opState = .offline ∧
      t.responseQueue = s.responseQueue ++ mgmtCompletion (ReqTag.ofByte reqtag) .ok 0 [] :: more ∧
      (∀ b, (t.branch b).queue = []) ∧
      (∀ b o rt, o ∈ (s.branch b).queue → o.tag? = some rt →
        { rt := rt, status := .aborted, body := .completion o.offset } ∈ t.responseQueue ∨
        { rt := rt, status := .aborted, body := .completion o.offset } ∈ (t.branch b).answers) ∧
      (∀ b o, (s.branch b).op = some o → (s.branch b).told = none →
        (s.branch b).phase ∈
          ([.start, .address, .subaddress, .writeData, .restart, .readData, .stall, .stop] : List Phase) →
        (t.branch b).told = some .aborted ∧ (t.branch b).op = some o) ∧
      (∀ i e, s.entry i = some e → e.delivers = true → s.finalBegun i e = false →
        ∃ e', t.entry i = some e' ∧ e'.state = .abandoned ∧ e'.finalStatus = some .aborted ∧
          e'.held = e.held.take (s.bytesInFlight i) ∧ ∀ p ∈ e'.pieces, p.state = .active ∧ p ∈ e.pieces) ∧
      (∀ g, t.group g = { s.group g with state := .idle }) ∧
      (∀ b, (t.attn b).pending = false) ∧
      { t with
        opState := s.opState, responseQueue := s.responseQueue, split := s.split, branches := s.branches,
        ageOrder := s.ageOrder, attns := s.attns, groups := s.groups, freeCount := s.freeCount, intake := s.intake,
        bridgeNumber := s.bridgeNumber } = s ∧ t.intake = rest

/-- A branch reset: the branch's queue is emptied, its confirmed and timed writes answered BRANCH_RESET and its posted writes
handed to the fault record; its GATHERING entries close with BRANCH_RESET; its engine is told to end its run, and shows
RESETTING unless it is DISABLED. The answer of the command stands ahead of every record the reset causes (the model's choice,
log 11). -/
def Obligations.BranchResetEffects : Prop :=
  ∀ (s : State) (rest : List Frame) (reqtag bridge : Byte) (b : Fin 4),
    s.Ready (mgmtWriteFrame reqtag bridge 0x009 (BitVec.ofNat 32 (0x10 + b.val))) rest → s.FinalsFit →
    ∃ t more, exec .branchReset s = .next (State.endEvent t) ∧
      ((s.branch b).op = none → (t.branch b).queue = [] ∧ t.releaseQueue = s.releaseQueue) ∧
      (∀ o ∈ (t.branch b).queue, o.isRead = true ∨ ∃ e ∈ s.releaseQueue, o.tag? = some e.rt) ∧
      (t.branch b).enabled = (s.branch b).enabled ∧
      ((s.branch b).state ≠ .disabled → (t.branch b).state = .resetting) ∧
      ((s.branch b).state = .disabled → (t.branch b).state = .disabled) ∧
      (∀ o, (s.branch b).op = some o → (s.branch b).told = none → (s.branch b).resetting = false →
        (s.branch b).phase ∈
          ([.start, .address, .subaddress, .writeData, .restart, .readData, .stall, .stop] : List Phase) →
        (t.branch b).told = some .branchReset ∧ (t.branch b).op = some o) ∧
      t.responseQueue = s.responseQueue ++ mgmtCompletion (ReqTag.ofByte reqtag) .ok 0 [] :: more ∧
      (∀ o rt, o ∈ (s.branch b).queue → o.tag? = some rt →
        { rt := rt, status := .branchReset, body := .completion o.offset } ∈ t.responseQueue ∨
        { rt := rt, status := .branchReset, body := .completion o.offset } ∈ (t.branch b).answers) ∧
      (∀ o data, o ∈ (s.branch b).queue → o.body = .posted data → t.fault ≠ none ∧ t.flag .writeFailed = true) ∧
      (∀ i e, s.entry i = some e → e.state = .gathering → e.route.branch = b →
        ∃ e', t.entry i = some e' ∧ e'.state = .closing ∧ e'.finalStatus = some .branchReset ∧
          e'.held = e.held.take (s.bytesInFlight i) ∧ ∀ p ∈ e'.pieces, p.state = .active ∧ p ∈ e.pieces) ∧
      ((s.branch b).op = none → t.attns = s.attns.set b.val { s.attn b with pending := false } b.isLt) ∧
      ((s.branch b).op = none → (∀ o ∈ (s.branch b).queue, ∀ data, o.body ≠ .posted data) → t.fault = none) ∧
      (∀ c, c ≠ b → (t.branch c).unstalled = (s.branch c).unstalled) ∧
      t.opState = s.opState ∧ t.intake = rest ∧ { t.withRun s with bridgeNumber := s.bridgeNumber } = s

/-- Enabling a disabled branch, and a write that finds ENABLED as it stands, which stores RATE alone; a RATE code above 3 is
BAD_FIELD. Disabling an enabled branch resets it: its queue is emptied, and its engine shows RESETTING. -/
def Obligations.BranchEnableDisable : Prop :=
  ∀ (s : State) (rest : List Frame) (reqtag bridge : Byte) (b : Fin 4) (w : Word),
    s.Ready (mgmtWriteFrame reqtag bridge (BitVec.ofNat 16 (0x040 + 8 * b.val)) w) rest →
    let code := w.extractLsb' 4 3
    (w.getLsbD 0 = true → 3 < code.toNat → exec .branchEnable s = .next (s.writeTaken rest reqtag bridge .badField).endEvent) ∧
    (w.getLsbD 0 = false → 3 < code.toNat → exec .branchDisable s = .next (s.writeTaken rest reqtag bridge .badField).endEvent) ∧
    (∀ rate : Rate, rate.code = code.toNat →
      (w.getLsbD 0 = true → (s.branch b).enabled = false → (s.branch b).phase = .disabled →
        exec .branchEnable s = .next (State.endEvent ((s.writeTaken rest reqtag bridge .ok).modBranch b fun br =>
          { br with
            rate := rate, enabled := true, busyTimer := 0, busyFlagged := false
            phase := if br.answers = [] then .idle else .posting }))) ∧
      (w.getLsbD 0 = true → (s.branch b).enabled = true →
        exec .branchEnable s =
          .next (State.endEvent ((s.writeTaken rest reqtag bridge .ok).modBranch b fun br => { br with rate := rate }))) ∧
      (w.getLsbD 0 = false → (s.branch b).enabled = false →
        exec .branchDisable s =
          .next (State.endEvent ((s.writeTaken rest reqtag bridge .ok).modBranch b fun br => { br with rate := rate }))) ∧
      (w.getLsbD 0 = false → (s.branch b).enabled = true →
        ∃ t, exec .branchDisable s = .next (State.endEvent t) ∧ (t.branch b).enabled = false ∧ (t.branch b).rate = rate ∧
          (t.branch b).queue = [] ∧ (t.branch b).busyTimer = 0 ∧ (t.branch b).busyFlagged = false ∧
          ((s.branch b).state ≠ .disabled → (t.branch b).state = .resetting) ∧
          (∀ c, c ≠ b → (t.branch c).unstalled = (s.branch c).unstalled) ∧
          t.opState = s.opState ∧ t.intake = rest ∧ { t.withRun s with bridgeNumber := s.bridgeNumber } = s))

/-! ## Stamp counter, groups, attention entries -/

/-- The counter advances by one and a new tick begins with the length TICK SHIFT gives; a write of STAMP stores the value and
starts a tick, of that length too (the model's choice, log 42). Both mark the entries found due, which in QUIET wakes the
bridge, and a write expires the deadlines found due, in no order with the release of entries. At an advance the head of the
Release Queue is judged in the step, and the expiries are later steps: the model's choice (log 50). -/
def Obligations.StampCounterMoves : Prop :=
  (∀ s : State, s.opState ≠ .quiet ∨ (∀ e ∈ s.releaseQueue, e.due = true ∨ isDue (s.stamp + 1) e.stamp = false) →
    exec .stampAdvance s = .next (State.endEvent { s with
      stamp := s.stamp + 1, tickTimer := 0, tickLength := 2 ^ s.tickShift.val
      releaseQueue := s.releaseQueue.map fun e => (e.wait s.stamp).markDue (s.stamp + 1) })) ∧
  (∀ s : State, s.opState = .quiet → (∃ e ∈ s.releaseQueue, e.due = false ∧ isDue (s.stamp + 1) e.stamp = true) →
    exec .stampAdvance s = .next (State.setFlag { s with
      stamp := s.stamp + 1, tickTimer := 0, tickLength := 2 ^ s.tickShift.val
      releaseQueue := s.releaseQueue.map fun e => (e.wait s.stamp).markDue (s.stamp + 1)
      opState := .waking, wakeTimer := 0 } .woke).endEvent) ∧
  (∀ (s : State) (rest : List Frame) (reqtag bridge : Byte) (w : Word),
    s.Ready (mgmtWriteFrame reqtag bridge 0x029 w) rest →
    ((∀ i, State.expiryDue { s with stamp := w } i = false) →
      exec .stampWrite s = .next (State.endEvent { s.writeTaken rest reqtag bridge .ok with
        stamp := w, tickTimer := 0, tickLength := 2 ^ s.tickShift.val
        releaseQueue := s.releaseQueue.map (ReleaseEntry.markDue w) })) ∧
    (∃ t, exec .stampWrite s = .next (State.endEvent t) ∧ t.stamp = w ∧ t.tickTimer = 0 ∧ t.tickLength = 2 ^ s.tickShift.val ∧
      (t.releaseQueue.map fun e => { e with waiting := false }) <:+
        (s.releaseQueue.map fun e => { e.markDue w with waiting := false }) ∧ t.opState = s.opState ∧
      (∀ i e, s.entry i = some e → State.expiryDue { s with stamp := w } i = true → e.route.timeoutPolicy = .abandon →
        ∃ e', t.entry i = some e' ∧ e'.state = .abandoned ∧ e'.finalStatus = some .timeout))) ∧
  (∀ (counter stamp : Stamp), isDue counter stamp = true ↔ (counter - stamp).toNat < 2 ^ 31) ∧
  (∀ (counter : Stamp) (e : ReleaseEntry), e.markDue counter = { e with due := e.due || isDue counter e.stamp })

/-- OPEN in IDLE: GENERATION advances by one modulo 256, the counts become 0 and STATE COLLECTING; else GROUP_BUSY. CLOSE in
COLLECTING arms the group, elsewhere it is BAD_FIELD; ABORT makes it IDLE. A report counts a member, and a cancel takes one
off, in a COLLECTING or ARMED group of the generation with a member uncounted; else both are ignored. An ARMED group whose
counts equal MEMBERS fires: its lines are acted upon, or with failures under HOLD only GROUP_FAILED is set. That CLOSE fires in OFFLINE
too is the model's choice (log 46). -/
def Obligations.GroupCommands : Prop :=
  (∀ (s : State) (rest : List Frame) (reqtag bridge : Byte) (g : Fin 7),
    let address : BitVec 16 := BitVec.ofNat 16 (0x074 + 4 * g.val)
    let x := s.group g
    let taken := s.writeTaken rest reqtag bridge .ok
    (s.Ready (mgmtWriteFrame reqtag bridge address 1) rest →
      (x.state = .idle →
        exec .groupOpen s = .next (taken.modGroup g fun y =>
          { y with
            state := .collecting, generation := BitVec.ofNat 8 ((y.generation.toNat + 1) % 256)
            members := 0, done := 0, failed := 0 }).endEvent) ∧
      (x.state ≠ .idle → exec .groupOpen s = .next (s.writeTaken rest reqtag bridge .groupBusy).endEvent)) ∧
    (s.Ready (mgmtWriteFrame reqtag bridge address 2) rest →
      (x.state ≠ .collecting → exec .groupClose s = .next (s.writeTaken rest reqtag bridge .badField).endEvent) ∧
      (x.state = .collecting → x.done + x.failed ≠ x.members →
        exec .groupClose s = .next (taken.modGroup g fun y => { y with state := .armed }).endEvent) ∧
      (x.state = .collecting → x.done + x.failed = x.members → x.failed = 0 ∨ x.policy = .fireAnyway →
        exec .groupClose s = .next (State.latch (taken.modGroup g fun y => { y with state := .idle })
          x.lines x.action x.pulseWidth.toNat).endEvent) ∧
      (x.state = .collecting → x.done + x.failed = x.members → x.failed ≠ 0 → x.policy = .hold →
        exec .groupClose s =
          .next (State.setFlag (taken.modGroup g fun y => { y with state := .idle }) .groupFailed).endEvent)) ∧
    (s.Ready (mgmtWriteFrame reqtag bridge address 3) rest →
      exec .groupAbort s = .next (taken.modGroup g fun y => { y with state := .idle }).endEvent)) ∧
  (∀ (straps : Straps) (opState : OpState) (holdIn : Bool) (inputs : Vector Bool 4) (waiting : List Instr) (n : Nat)
    (g : Fin 7), ((State.resetTo straps opState holdIn inputs waiting n).group g).generation = 0) ∧
  (∀ (s : State) (g : Fin 7) (generation : Byte),
    let x := s.group g
    (x.state = .idle ∨ x.generation ≠ generation ∨ x.members ≤ x.done + x.failed →
      (∀ ok, s.reportMember (some (g, generation)) ok = s) ∧ s.cancelMember (some (g, generation)) = s) ∧
    (x.state ≠ .idle → x.generation = generation → x.done + x.failed < x.members →
      let becomes (t : State) (y : Group) : Prop :=
        (x.state = .collecting ∨ y.done + y.failed < y.members → t = s.modGroup g fun _ => y) ∧
        (x.state = .armed → y.done + y.failed = y.members → y.failed = 0 ∨ y.policy = .fireAnyway →
          t = State.latch (s.modGroup g fun _ => { y with state := .idle }) x.lines x.action x.pulseWidth.toNat) ∧
        (x.state = .armed → y.done + y.failed = y.members → y.failed ≠ 0 → y.policy = .hold →
          t = State.setFlag (s.modGroup g fun _ => { y with state := .idle }) .groupFailed)
      becomes (s.reportMember (some (g, generation)) true) { x with done := x.done + 1 } ∧
      becomes (s.reportMember (some (g, generation)) false) { x with failed := x.failed + 1 } ∧
      becomes (s.cancelMember (some (g, generation))) { x with members := x.members - 1 })) ∧
  (∀ s : State, (∀ ok, s.reportMember none ok = s) ∧ s.cancelMember none = s)

/-- Writes of an attention entry: the fields are stored and LEVEL SPENT becomes no; MODE 2 and 3, and a LENGTH of 0 or above 32,
are BAD_FIELD; ENABLED no clears PENDING; a line found low under LEVEL triggers, here a poll that cannot be routed. -/
def Obligations.AttentionEntryWritten : Prop :=
  ∀ (s : State) (rest : List Frame) (reqtag bridge : Byte) (b : Fin 4) (w : Word),
    let taken := s.writeTaken rest reqtag bridge .ok
    (s.Ready (mgmtWriteFrame reqtag bridge (BitVec.ofNat 16 (0x060 + 4 * b.val)) w) rest →
      let code := w.extractLsb' 1 2
      let stored : Attn → Attn := fun a =>
        { a with
          enabled := w.getLsbD 0, mode := if code = 0 then .edge else .level, wake := w.getLsbD 3, levelSpent := false
          pending := w.getLsbD 0 && a.pending }
      (code = 2 ∨ code = 3 → exec .attentionEntryWrite s = .next (s.writeTaken rest reqtag bridge .badField).endEvent) ∧
      (code = 0 ∨ (code = 1 ∧ ((s.attn b).line = true ∨ w.getLsbD 0 = false ∨ s.opState = .offline)) →
        exec .attentionEntryWrite s = .next (State.endEvent (taken.modAttn b stored))) ∧
      (code = 1 → w.getLsbD 0 = true → s.opState ≠ .offline → (s.attn b).line = false → (s.attn b).status = .idle →
        (s.attn b).pending = false → (s.attn b).length = 0 →
        exec .attentionEntryWrite s = .next (State.endEvent (State.setFlag
          (taken.modAttn b fun a => { stored a with levelSpent := true }) .attnNoRoute)))) ∧
    (s.Ready (mgmtWriteFrame reqtag bridge (BitVec.ofNat 16 (0x061 + 4 * b.val)) w) rest →
      (s.attn b).levelSpent = false ∨ (s.attn b).mode = .edge ∨ (s.attn b).line = true →
      exec .attentionEntryWrite s = .next (State.endEvent (taken.modAttn b fun a =>
        { a with ldn := w.extractLsb' 16 8, offset := w.extractLsb' 0 16, levelSpent := false }))) ∧
    (s.Ready (mgmtWriteFrame reqtag bridge (BitVec.ofNat 16 (0x062 + 4 * b.val)) w) rest →
      let length := (w.extractLsb' 8 6).toNat
      (length = 0 ∨ 32 < length → exec .attentionEntryWrite s = .next (s.writeTaken rest reqtag bridge .badField).endEvent) ∧
      (1 ≤ length → length ≤ 32 → (s.attn b).levelSpent = false ∨ (s.attn b).mode = .edge ∨ (s.attn b).line = true →
        exec .attentionEntryWrite s = .next (State.endEvent (taken.modAttn b fun a =>
          { a with length := length, holdoff := w.extractLsb' 0 8, levelSpent := false }))))

/-! ## Branch Engines -/

/-- An IDLE engine with an empty answer list takes the head of its queue in ACTIVE, DRAINING and OFFLINE: START when the bus is
FREE and the gap has passed, else it waits. A piece becomes ACTIVE. Otherwise it takes nothing. That the bus is BUSY under SELF
from START on is the model's choice (log 12). -/
def Obligations.EngineTakesOperation : Prop :=
  (∀ (s : State) (b : Fin 4) (o : Operation) (rest : List Operation),
    (s.branch b).phase = .idle → (s.branch b).resetting = false → (s.branch b).answers = [] →
    (s.branch b).queue = o :: rest → s.opState = .active ∨ s.opState = .draining ∨ s.opState = .offline →
    ∃ t more, exec (.engineTakeOperation b) s = .next (State.endEvent t) ∧ t = s.takeNext b ∧
      (t.branch b).op = some o ∧ (t.branch b).queue = rest ++ more ∧
      (t.branch b).retryCount = 0 ∧ (t.branch b).lastCause = .absent ∧
      (t.branch b).phase = (if (s.branch b).bus ≠ .free then .busyOther
        else if (s.branch b).gap.toNat ≤ (s.branch b).gapTimer then .start else .gap) ∧
      ((t.branch b).phase = .start → (t.branch b).bus = .busySelf ∧ (t.branch b).rateInUse = (s.branch b).rate) ∧
      (∀ i n first e, o.body = .readPiece i n first → s.entry i = some e →
        ∃ e' new, t.entry i = some e' ∧ e'.received = e.received ∧ e'.pieces =
          e.pieces.map (fun p => if p.offset = o.offset ∧ p.state = .queued then { p with state := .active } else p) ++
            new) ∧
      (∀ c, c ≠ b → (t.branch c).ungranted = (s.branch c).ungranted) ∧
      t.intake <:+ s.intake ∧ s.responseQueue <+: t.responseQueue ∧ t.withSettle s = s ∧
      (s.headHasWaited = false →
        { t with split := s.split, branches := s.branches, freeCount := s.freeCount, intake := s.intake } = s)) ∧
  (∀ (s : State) (b : Fin 4),
    (s.branch b).phase ≠ .idle ∨ (s.branch b).resetting = true ∨ (s.branch b).answers ≠ [] ∨ (s.branch b).queue = [] ∨
      s.opState = .quiet ∨ s.opState = .waking →
    exec (.engineTakeOperation b) s = .next s)

/-- The bytes that an engine sends: BUS ADDRESS with the direction bit, so 0x00 for a general call's write; the SUBADDRESS WIDTH
bytes of OFFSET, high byte first; the bytes of DATA in order. A write's direction is 0, a piece's is 1 from its repeated START,
or from START with width 0. After each byte that it receives the engine gives ACK, and NACK after the last and when told to end,
and after a NACK it makes STOP. -/
def Obligations.BytesOnTheBus : Prop :=
  (∀ (br : Branch) (o : Operation), br.op = some o →
    (br.phase = .address → br.sends = some (o.busAddress ++ (if br.progress.readDirection then 1#1 else 0#1))) ∧
    (br.phase = .address → o.busAddress = 0 → br.progress.readDirection = false → br.sends = some 0x00) ∧
    (br.phase = .subaddress → o.width = 1 → br.progress.subaddressDone = 0 → br.sends = some (BitVec.ofNat 8 o.offset)) ∧
    (br.phase = .subaddress → o.width = 2 → br.progress.subaddressDone = 0 →
      br.sends = some (BitVec.ofNat 8 (o.offset / 256))) ∧
    (br.phase = .subaddress → o.width = 2 → br.progress.subaddressDone = 1 → br.sends = some (BitVec.ofNat 8 o.offset)) ∧
    (br.phase = .writeData → br.sends = o.data[br.progress.dataDone]?) ∧
    (br.phase ∉ ([.address, .subaddress, .writeData] : List Phase) → br.sends = none)) ∧
  (∀ (br : Branch) (o : Operation), (br.makeStart o).progress.readDirection = (o.isRead && decide (o.width = 0))) ∧
  (∀ (s : State) (b : Fin 4) (o : Operation), (s.branch b).op = some o → o.isRead = true → (s.branch b).told = none →
    (s.branch b).phase = .subaddress → (s.branch b).progress.subaddressDone + 1 = o.width.val →
    ∃ t, exec (.byteAck b) s = .next (State.endEvent t) ∧ (t.branch b).phase = .restart ∧ (t.branch b).op = some o ∧
      (t.branch b).progress.readDirection = true) ∧
  (∀ (br : Branch) (n : Nat), br.givesAck n = true ↔ br.told = none ∧ br.progress.dataDone + 1 < n) ∧
  (∀ (s : State) (b : Fin 4) (byte : Byte) (o : Operation) (i : Fin 16) (n : Nat) (first : Bool),
    (s.branch b).op = some o → o.body = .readPiece i n first → (s.branch b).phase = .readData →
    ∃ t, exec (.readByteReceived b byte) s = .next (State.endEvent t) ∧
      ((s.branch b).givesAck n = false → (t.branch b).phase = .stop) ∧
      ((s.branch b).givesAck n = true → (t.branch b).phase = .readData ∨ (t.branch b).phase = .stall))

/-- Waiting for the bus: the gap or the retry pause ends and the operation starts; a START by another party makes the bus BUSY
under OTHER; a STOP frees it and restarts the gap timer, and with GAP 0 the operation starts at that STOP; a STOP after an address
NACK begins the retry pause, and with RETRY PAUSE 0 the operation goes on at once. That another party's START met in START costs no
retry, and that the engine's own START is followed by ADDRESS, is the model's choice (log 12); so are the raised gap timer (log 4)
and the stretch counter's 0 at a START that is seen (log 19). -/
def Obligations.WaitsForTheBus : Prop :=
  ∀ (s : State) (b : Fin 4),
    let freed : Branch → Branch := fun br => { br with bus := .free, gapTimer := 0, busyTimer := 0, stretchCounter := 0 }
    let started (o : Operation) : Branch → Branch := fun br =>
      { br with
        phase := .start, bus := .busySelf, rateInUse := br.rate, stretchCounter := 0, stopReason := .done
        progress := { Progress.none with readDirection := o.isRead && decide (o.width = 0) } }
    (∀ o, (s.branch b).op = some o → (s.branch b).phase = .gap →
      exec (.gapElapsed b) s = .next (s.modBranch b fun br => started o { br with gapTimer := max br.gapTimer br.gap.toNat })) ∧
    (∀ o, (s.branch b).op = some o → (s.branch b).phase = .pause →
      ∃ t, exec (.pauseElapsed b) s = .next t ∧ (t.branch b).op = some o ∧
        (t.branch b).retryCount = (s.branch b).retryCount ∧
        ((s.branch b).bus ≠ .free → (t.branch b).phase = .busyOther) ∧
        ((s.branch b).bus = .free → (t.branch b).gapTimer =
            min 255 ((s.branch b).gapTimer + ((s.branch b).pauseLength - (s.branch b).pauseTimer)) ∧
          ((s.branch b).gap.toNat ≤ (t.branch b).gapTimer → (t.branch b).phase = .start ∧ (t.branch b).bus = .busySelf) ∧
          ((t.branch b).gapTimer < (s.branch b).gap.toNat → (t.branch b).phase = .gap)) ∧
        (∀ c, c ≠ b → t.branch c = s.branch c) ∧ { t with branches := s.branches } = s) ∧
    ((s.branch b).phase = .start ∨ (s.branch b).phase = .restart →
      exec (.busStartSeen b .self) s = .next (s.modBranch b fun br => { br with phase := .address, stretchCounter := 0 })) ∧
    ((s.branch b).phase ∈ ([.idle, .posting, .disabled, .pause, .clearing] : List Phase) → (s.branch b).bus = .free →
      exec (.busStartSeen b .other) s = .next (State.endEvent (s.modBranch b fun br =>
        { br with bus := .busyOther, busyTimer := 0, busyFlagged := false, stretchCounter := 0 }))) ∧
    ((s.branch b).phase = .gap ∨ (s.branch b).phase = .start → (s.branch b).bus ≠ .busyOther →
      exec (.busStartSeen b .other) s = .next (State.endEvent (s.modBranch b fun br =>
        { br with
          bus := .busyOther, busyTimer := 0, busyFlagged := false, phase := .busyOther, progress := Progress.none
          stretchCounter := 0 }))) ∧
    ((s.branch b).op = none → (s.branch b).phase ≠ .stall →
      exec (.busStopSeen b .other) s = .next (s.modBranch b freed).endEvent) ∧
    (∀ o, (s.branch b).op = some o → (s.branch b).phase = .busyOther →
      ((s.branch b).gap ≠ 0 →
        exec (.busStopSeen b .other) s = .next (State.endEvent (s.modBranch b fun br =>
          { freed br with phase := .gap, progress := Progress.none }))) ∧
      ((s.branch b).gap = 0 →
        exec (.busStopSeen b .other) s = .next (State.endEvent (s.modBranch b fun br => started o (freed br))))) ∧
    (∀ o, (s.branch b).op = some o → (s.branch b).phase = .stop → (s.branch b).told = none →
      (s.branch b).stopReason = .addressNack → (s.branch b).retryCount ≤ o.retryLimit.val →
      (o.persist = true ∨ ∀ i n first, o.body = .readPiece i n first → first = true) →
      ((s.branch b).retryPause ≠ 0 →
        exec (.busStopSeen b .self) s = .next (State.endEvent (s.modBranch b fun br =>
          { freed br with
            phase := .pause, pauseTimer := 0, pauseLength := br.retryPause.toNat * 16, progress := Progress.none }))) ∧
      ((s.branch b).retryPause = 0 → (s.branch b).gap ≠ 0 →
        exec (.busStopSeen b .self) s = .next (State.endEvent (s.modBranch b fun br =>
          { freed br with phase := .gap, progress := Progress.none }))) ∧
      ((s.branch b).retryPause = 0 → (s.branch b).gap = 0 →
        exec (.busStopSeen b .self) s = .next (State.endEvent (s.modBranch b fun br => started o (freed br)))))

/-- A lost arbitration counts a retry and leaves the operation waiting in BUSY_OTHER; when RETRY COUNT then exceeds RETRY LIMIT
the run ends, and a confirmed write is answered ARB_EXHAUSTED. A loss on the STOP after the last byte restarts nothing: a write
ends OK, and a piece has all its bytes. On the STOP after an address NACK it counts in the NACK's place, not as well. That a loss on
the STOP after a data NACK ends the run with DATA_NACK is the model's choice (log 15). The bus belongs to the winner. -/
def Obligations.ArbitrationLost : Prop :=
  ∀ (s : State) (b : Fin 4) (o : Operation),
    (s.branch b).op = some o → (s.branch b).told = none →
    let waits (count : Nat) : Prop :=
      ∃ t, exec (.arbitrationLoss b) s = .next (State.endEvent t) ∧ (t.branch b).phase = .busyOther ∧ (t.branch b).op = some o ∧
        (t.branch b).retryCount = count ∧ (t.branch b).lastCause = .arbitration ∧
        (t.branch b).bus = .busyOther ∧ (t.branch b).progress = Progress.none ∧ (t.branch b).queue = (s.branch b).queue ∧
        (∀ c, c ≠ b → (t.branch c).unstalled = (s.branch c).unstalled) ∧
        { t with branches := s.branches, freeCount := s.freeCount } = s
    let ends (rt : ReqTag) (st : Status) (position : Nat) : Prop :=
      ∃ t, exec (.arbitrationLoss b) s = .next (State.endEvent t) ∧ (t.branch b).op = none ∧ (t.branch b).bus = .busyOther ∧
        (t.branch b).retryCount = 0 ∧
        ({ rt := rt, status := st, body := .completion position } ∈ t.responseQueue ∨
          { rt := rt, status := st, body := .completion position } ∈ (t.branch b).answers) ∧
        (∀ c, c ≠ b → (t.branch c).unstalled = (s.branch c).unstalled) ∧
        { t with branches := s.branches, responseQueue := s.responseQueue, freeCount := s.freeCount } = s
    ((s.branch b).phase ∈ ([.start, .address, .subaddress, .writeData, .restart, .readData] : List Phase) →
      ((s.branch b).retryCount + 1 ≤ o.retryLimit.val → waits ((s.branch b).retryCount + 1)) ∧
      (∀ rt data, o.retryLimit.val < (s.branch b).retryCount + 1 → o.body = .confirmed rt data →
        ends rt .arbExhausted o.offset)) ∧
    ((s.branch b).phase = .stop →
      (∀ rt data, (s.branch b).stopReason = .done → o.body = .confirmed rt data → ends rt .ok o.offset) ∧
      (∀ rt data, (s.branch b).stopReason = .dataNack → o.body = .confirmed rt data →
        ends rt .dataNack (o.offset + (s.branch b).progress.dataDone)) ∧
      ((s.branch b).stopReason = .addressNack → (s.branch b).retryCount ≤ o.retryLimit.val →
        waits (s.branch b).retryCount) ∧
      (∀ rt data, (s.branch b).stopReason = .addressNack → o.retryLimit.val < (s.branch b).retryCount →
        o.body = .confirmed rt data → ends rt .arbExhausted o.offset) ∧
      (∀ i n first e, (s.branch b).stopReason = .done → o.body = .readPiece i n first → s.entry i = some e →
        e.state = .gathering ∨ e.state = .delivering → e.finalSent = false → o.offset + n ≤ e.start + e.received →
        ∃ t e', exec (.arbitrationLoss b) s = .next (State.endEvent t) ∧ (t.branch b).op = none ∧ (t.branch b).bus = .busyOther ∧
          t.entry i = some e' ∧ e'.state = e.state ∧ e'.held = e.held ∧ e'.received = e.received ∧
          (∀ p ∈ e'.pieces, p.state ≠ .active) ∧ t.withRun s = s))

/-- Each acknowledge takes a write one byte further: the address byte, the subaddress bytes, the data bytes, then STOP. A NACK of
the address byte counts a failed attempt and makes STOP, also when the engine is told to end; a NACK of a subaddress byte or of a write's data byte makes STOP and
changes neither RETRY COUNT nor LAST CAUSE. That an acknowledge or a NACK met in START or RESTART is the address byte's is the
model's choice (log 12). -/
def Obligations.AcksAndNacks : Prop :=
  (∀ (s : State) (b : Fin 4) (o : Operation),
    (s.branch b).op = some o → o.isRead = false → (s.branch b).told = none → (s.branch b).progress.readDirection = false →
    let toData : Branch → Branch := fun br =>
      if o.data = [] then { br with phase := .stop, stopReason := .done } else { br with phase := .writeData }
    ((s.branch b).phase ∈ ([.start, .address, .restart] : List Phase) →
      exec (.byteAck b) s = .next (s.modBranch b fun br =>
        let acked := { br with stretchCounter := 0, progress := { br.progress with addressAcked := true } }
        if o.width = 0 then toData acked else { acked with phase := .subaddress }).endEvent) ∧
    ((s.branch b).phase = .subaddress →
      exec (.byteAck b) s = .next (s.modBranch b fun br =>
        let acked := { br with
          stretchCounter := 0, progress := { br.progress with subaddressDone := br.progress.subaddressDone + 1 } }
        if br.progress.subaddressDone + 1 < o.width.val then acked else toData acked).endEvent) ∧
    ((s.branch b).phase = .writeData →
      exec (.byteAck b) s = .next (s.modBranch b fun br =>
        let acked := { br with stretchCounter := 0, progress := { br.progress with dataDone := br.progress.dataDone + 1 } }
        if br.progress.dataDone + 1 < o.data.length then acked else { acked with phase := .stop, stopReason := .done }).endEvent)) ∧
  (∀ (s : State) (b : Fin 4) (o : Operation), (s.branch b).op = some o →
    ((s.branch b).phase ∈ ([.start, .address, .restart] : List Phase) →
      exec (.addressNack b) s = .next (s.modBranch b fun br =>
        { br with
          phase := .stop, stopReason := .addressNack, stretchCounter := 0
          retryCount := br.retryCount + 1, lastCause := .addressNack })) ∧
    ((s.branch b).phase = .subaddress ∨ (s.branch b).phase = .writeData →
      exec (.dataNack b) s = .next (s.modBranch b fun br =>
        { br with phase := .stop, stopReason := .dataNack, stretchCounter := 0 })))

/-- The acknowledges of a piece: after its first address byte its subaddress bytes follow, then its repeated START; and before a
data byte room is asked for: with room the byte's place is reserved and the engine reads; with 512 bytes taken it goes to
STALL; a byte that the entry already holds is read without a place. That an acknowledge met in START or RESTART is the address
byte's is the model's choice (log 12). -/
def Obligations.ReadsAskForRoom : Prop :=
  ∀ (s : State) (b : Fin 4) (o : Operation) (i : Fin 16) (n : Nat) (first : Bool),
    (s.branch b).op = some o → o.body = .readPiece i n first → (s.branch b).told = none →
    ((s.branch b).phase ∈ ([.start, .address, .restart] : List Phase) → (s.branch b).progress.readDirection = false →
      o.width ≠ 0 →
      exec (.byteAck b) s = .next (s.modBranch b fun br =>
        { br with
          phase := .subaddress, stretchCounter := 0, progress := { br.progress with addressAcked := true } }).endEvent) ∧
    ((s.branch b).phase = .subaddress → (s.branch b).progress.subaddressDone + 1 < o.width.val →
      exec (.byteAck b) s = .next (s.modBranch b fun br =>
        { br with
          stretchCounter := 0, progress := { br.progress with subaddressDone := br.progress.subaddressDone + 1 } }).endEvent) ∧
    ((s.branch b).phase = .subaddress → (s.branch b).progress.subaddressDone + 1 = o.width.val →
      exec (.byteAck b) s = .next (s.modBranch b fun br =>
        { br with
          phase := .restart, stretchCounter := 0
          progress := { br.progress with
            subaddressDone := br.progress.subaddressDone + 1, readDirection := true } }).endEvent) ∧
    ((s.branch b).phase ∈ ([.start, .address, .restart] : List Phase) → (s.branch b).progress.readDirection = true →
      let ready (phase : Phase) (reserved : Bool) : Branch → Branch := fun br =>
        { br with
          phase := phase, stretchCounter := 0
          progress := { br.progress with addressAcked := true, reserved := reserved } }
      ∀ e, s.entry i = some e → e.state = .gathering →
        (o.offset + (s.branch b).progress.dataDone = e.start + e.received → s.occupancy < 512 →
          exec (.byteAck b) s = .next (s.modBranch b (ready .readData true)).endEvent) ∧
        (o.offset + (s.branch b).progress.dataDone = e.start + e.received → 512 ≤ s.occupancy →
          exec (.byteAck b) s = .next (s.modBranch b (ready .stall false)).endEvent) ∧
        (o.offset + (s.branch b).progress.dataDone ≠ e.start + e.received →
          exec (.byteAck b) s = .next (s.modBranch b (ready .readData false)).endEvent))

/-- A byte of a piece is received. One that its entry wants goes into its reserved place, RECEIVED grows, and the byte that makes
RECEIVED equal LENGTH takes the entry to DELIVERING with OK; any other byte is dropped. After the piece's last byte: STOP. -/
def Obligations.ReadByteStored : Prop :=
  ∀ (s : State) (b : Fin 4) (byte : Byte) (o : Operation) (i : Fin 16) (n : Nat) (first : Bool) (e : SplitEntry),
    (s.branch b).op = some o → o.body = .readPiece i n first → (s.branch b).told = none →
    (s.branch b).phase = .readData → s.entry i = some e →
    let position := o.offset + (s.branch b).progress.dataDone
    let stored : SplitEntry := { e with
      received := e.received + 1, held := e.held ++ [byte]
      state := if e.received + 1 = e.length then .delivering else .gathering
      finalStatus := if e.received + 1 = e.length then some .ok else e.finalStatus }
    let next (phase : Phase) (reserved : Bool) : Branch → Branch := fun br =>
      { br with
        phase := phase, stretchCounter := 0
        progress := { br.progress with reserved := reserved, dataDone := br.progress.dataDone + 1 } }
    (e.state = .gathering → position = e.start + e.received → (s.branch b).progress.reserved = true →
      ((s.branch b).progress.dataDone + 1 = n →
        exec (.readByteReceived b byte) s = .next ((s.setEntry i (some stored)).modBranch b fun br =>
          { next .stop false br with stopReason := .done }).endEvent) ∧
      ((s.branch b).progress.dataDone + 1 < n → e.received + 1 ≠ e.length → s.occupancy < 512 →
        exec (.readByteReceived b byte) s = .next ((s.setEntry i (some stored)).modBranch b (next .readData true)).endEvent) ∧
      ((s.branch b).progress.dataDone + 1 < n → e.received + 1 ≠ e.length → 512 ≤ s.occupancy →
        exec (.readByteReceived b byte) s = .next ((s.setEntry i (some stored)).modBranch b (next .stall false)).endEvent)) ∧
    (e.state ≠ .gathering ∨ position ≠ e.start + e.received →
      ∃ t, exec (.readByteReceived b byte) s = .next (State.endEvent t) ∧ t.split = s.split ∧
        (t.branch b).progress.dataDone = (s.branch b).progress.dataDone + 1 ∧
        ((s.branch b).progress.dataDone + 1 = n → (t.branch b).phase = .stop) ∧
        (∀ c, c ≠ b → (t.branch c).unstalled = (s.branch c).unstalled) ∧
        { t with branches := s.branches, freeCount := s.freeCount } = s)

/-- An engine told to end its run: from GAP, BUSY_OTHER and PAUSE the run ends at once; from STALL it reads one more byte; from
START and RESTART it goes to STOP; else it goes on to the byte's end. The first cause stands. After the byte in hand it makes STOP, an
address NACK counts as ever, and a byte received is not offered. The run ends with the status of the cause, but OK for a write whose
bytes have all been acknowledged; a lost arbitration ends it in the same way, without a retry. The model's choices: that START and
RESTART show STOP at once (log 17), that a reserved place is given back when told (log 18), and that the cause of an abandoned read,
which no write has, counts as ABORTED (log 30). -/
def Obligations.RunsToldToEnd : Prop :=
  (∀ (s : State) (b : Fin 4) (o : Operation) (cause : EndCause), (s.branch b).op = some o →
    let told (phase : Phase) : Prop :=
      ((s.tellEnd b cause).branch b).phase = phase ∧ ((s.tellEnd b cause).branch b).op = some o ∧
        ((s.tellEnd b cause).branch b).told = some ((s.branch b).told.getD cause) ∧
        ((s.tellEnd b cause).branch b).progress.reserved = false ∧
        (∀ c, c ≠ b → ((s.tellEnd b cause).branch c).unstalled = (s.branch c).unstalled) ∧
        { s.tellEnd b cause with branches := s.branches, freeCount := s.freeCount } = s
    ((s.branch b).phase = .start ∨ (s.branch b).phase = .restart → told .stop) ∧
    ((s.branch b).phase = .stall → told .readData) ∧
    (∀ p, p ∈ ([.address, .subaddress, .writeData, .readData, .stop] : List Phase) → (s.branch b).phase = p → told p) ∧
    ((s.branch b).phase = .gap ∨ (s.branch b).phase = .busyOther ∨ (s.branch b).phase = .pause →
      ((s.tellEnd b cause).branch b).op = none ∧ (s.tellEnd b cause).withRun s = s ∧
      ∀ rt data, o.body = .confirmed rt data → (s.branch b).progress = Progress.none →
        let r : Record :=
          { rt := rt, status := if cause = .branchReset then .branchReset else .aborted, body := .completion o.offset }
        r ∈ (s.tellEnd b cause).responseQueue ∨ r ∈ ((s.tellEnd b cause).branch b).answers)) ∧
  (∀ (s : State) (b : Fin 4) (o : Operation) (cause : EndCause), (s.branch b).op = some o →
    (s.branch b).told = some cause →
    ((s.branch b).phase ∈ ([.address, .subaddress, .writeData] : List Phase) →
      ∃ p : Progress, exec (.byteAck b) s = .next (s.modBranch b fun br =>
          { br with phase := .stop, stopReason := .done, stretchCounter := 0, progress := p }).endEvent ∧
        p.addressAcked = (decide ((s.branch b).phase = .address) || (s.branch b).progress.addressAcked) ∧
        p.subaddressDone = (s.branch b).progress.subaddressDone + (if (s.branch b).phase = .subaddress then 1 else 0) ∧
        p.dataDone = (s.branch b).progress.dataDone + (if (s.branch b).phase = .writeData then 1 else 0)) ∧
    ((s.branch b).phase = .address →
      exec (.addressNack b) s = .next (s.modBranch b fun br =>
        { br with
          phase := .stop, stopReason := .addressNack, stretchCounter := 0
          retryCount := br.retryCount + 1, lastCause := .addressNack })) ∧
    (∀ byte i n first, o.body = .readPiece i n first → (s.branch b).phase = .readData →
      ∃ t, exec (.readByteReceived b byte) s = .next (State.endEvent t) ∧ (t.branch b).phase = .stop ∧ (t.branch b).op = some o ∧
        (t.branch b).told = some cause ∧ { t with branches := s.branches, freeCount := s.freeCount } = s) ∧
    ((s.branch b).phase = .stop →
      let reached : Prop := (s.branch b).progress.addressAcked = true ∧
        (s.branch b).progress.subaddressDone = o.width.val ∧ (s.branch b).progress.dataDone = o.data.length
      let ended : Status := if cause = .branchReset then .branchReset else .aborted
      let ends (c : Instr) (bus : Bus) : Prop :=
        ∃ t, exec c s = .next (State.endEvent t) ∧ (t.branch b).op = none ∧ (t.branch b).told = none ∧ (t.branch b).bus = bus ∧
          (∀ rt, o.tag? = some rt →
            (reached → { rt := rt, status := .ok, body := .completion o.offset } ∈ t.responseQueue ++ (t.branch b).answers) ∧
            (¬reached →
              { rt := rt, status := ended, body := .completion o.offset } ∈ t.responseQueue ++ (t.branch b).answers)) ∧
          (∀ data, o.body = .posted data → (reached ∨ ended = .aborted → t.fault = s.fault) ∧
            (¬reached → ended = .branchReset → t.fault ≠ none ∧ t.flag .writeFailed = true)) ∧
          (∀ rt data m, o.body = .timed rt data m → ¬reached → ended = .aborted → t.groups = s.groups) ∧
          t.withRun s = s
      ends (.runEnd b) .free ∧ ends (.arbitrationLoss b) .busyOther))

/-- The stretch counter against STRETCH LIMIT, where 0 means no limit: a stuck clock sets BRANCH_STUCK, ends a run and starts a bus
clear, and cuts a bus clear short. The run ends with STUCK, with the cause's status when the engine was told to end, or with OK for a
write whose bytes have all been acknowledged; its outcome is handed on as its kind requires. The counter takes the time that the
line has been found low, 0 when it is found high, and counts on while it is low (log 19). The end of a bus clear; and the busy limit,
flagged once for a busy period. -/
def Obligations.StuckClockAndClears : Prop :=
  ∀ (s : State) (b : Fin 4),
    let runs : Prop := (s.branch b).phase ∈
      ([.start, .address, .subaddress, .writeData, .restart, .readData, .stop, .clearing] : List Phase)
    (∀ held : Nat, runs → (s.branch b).stretchLimit = 0 ∨ held ≤ (s.branch b).stretchLimit.toNat * 1000 →
      exec (.clockStuck b held) s = .next (s.modBranch b fun br => { br with stretchCounter := held }).endEvent) ∧
    (∀ held : Nat, ¬runs → exec (.clockStuck b held) s = .next s) ∧
    ((s.tick.branch b).stretchCounter = (s.branch b).stretchCounter + 1 ↔ runs ∧ 0 < (s.branch b).stretchCounter) ∧
    (runs → (s.branch b).stretchLimit ≠ 0 → (s.branch b).stretchLimit.toNat * 1000 < (s.branch b).stretchCounter →
      Instr.clockStuck b (s.branch b).stretchCounter ∈ s.due) ∧
    (∀ (held : Nat) (o : Operation), runs → (s.branch b).phase ≠ .clearing → (s.branch b).stretchLimit ≠ 0 →
      (s.branch b).stretchLimit.toNat * 1000 < held → (s.branch b).op = some o →
      let p := (s.branch b).progress
      let reached : Prop := o.isRead = false ∧ p.addressAcked = true ∧ p.subaddressDone = o.width.val ∧
        p.dataDone = o.data.length
      ∃ t, exec (.clockStuck b held) s = .next (State.endEvent t) ∧ t.flag .branchStuck = true ∧ (t.branch b).op = none ∧
        (t.branch b).told = none ∧ (t.branch b).phase = .clearing ∧
        (∀ c, c ≠ b → (t.branch c).unstalled = (s.branch c).unstalled) ∧ t.withRun s = s ∧
        ∀ st : Status, (reached → st = .ok) → (¬reached → (s.branch b).told = none → st = .stuck) →
          (∀ cause, ¬reached → (s.branch b).told = some cause →
            st = if cause = .branchReset then .branchReset else .aborted) →
          (∀ rt, o.tag? = some rt →
            { rt := rt, status := st, body := .completion o.offset } ∈ t.responseQueue ++ (t.branch b).answers) ∧
          (∀ data, o.body = .posted data → (st = .ok ∨ st = .aborted → t.fault = s.fault) ∧
            (st ≠ .ok → st ≠ .aborted → t.flag .writeFailed = true ∧
              (s.fault = none → t.fault = some ⟨b, o.busAddress, o.ldn, o.offset, st, false⟩) ∧
              (∀ r, s.fault = some r → t.fault = some { r with more := true }))) ∧
          (∀ rt data m, o.body = .timed rt data m → st = .aborted → t.groups = s.groups) ∧
          (∀ rt data g, o.body = .timed rt data (some (g, (s.group g).generation)) → (s.group g).state = .collecting →
            (s.group g).done + (s.group g).failed < (s.group g).members → st ≠ .aborted →
            t.group g = if st = .ok then { s.group g with done := (s.group g).done + 1 }
              else { s.group g with failed := (s.group g).failed + 1 }) ∧
          (o.isRead = false → t.split = s.split) ∧
          (∀ i n first e, o.body = .readPiece i n first → s.entry i = some e → e.finalSent = false →
            (e.state = .gathering → (s.branch b).told = none → e.start + e.received < o.offset + n →
              ∃ e', t.entry i = some e' ∧ e'.state = .closing ∧ e'.finalStatus = some .stuck ∧
                e'.held = e.held.take (s.bytesInFlight i) ∧ e'.pieces = []) ∧
            (e.state = .gathering ∨ e.state = .delivering → o.offset + n ≤ e.start + e.received →
              ∃ e', t.entry i = some e' ∧ e'.state = e.state ∧ e'.held = e.held ∧ ∀ q ∈ e'.pieces, q.state ≠ .active) ∧
            (e.state = .closing ∨ e.state = .abandoned →
              t.entry i = some { e with pieces := e.pieces.filter fun q => q.state ≠ .active }))) ∧
    (∀ held : Nat, (s.branch b).phase = .clearing → (s.branch b).stretchLimit ≠ 0 →
      (s.branch b).stretchLimit.toNat * 1000 < held →
      ∃ t, exec (.clockStuck b held) s = .next (State.endEvent t) ∧ t.flag .branchStuck = true ∧ (t.branch b).cutShort = true ∧
        (t.branch b).bus = .free ∧ (t.branch b).gapTimer = 0 ∧ (t.branch b).resetting = false ∧
        (t.branch b).phase = (if (s.branch b).enabled = false then .disabled
          else if (s.branch b).answers = [] then .idle else .posting) ∧
        (∀ c, c ≠ b → t.branch c = s.branch c) ∧
        { t with
          branches := s.branches, flags := s.flags, noticeArm := s.noticeArm, noticePending := s.noticePending } = s) ∧
    (∀ stopMade : Bool, (s.branch b).phase = .clearing →
      exec (.busClearEnd b stopMade) s = .next (State.endEvent (s.modBranch b fun br =>
        { br with
          bus := .free, gapTimer := 0, busyTimer := 0, stretchCounter := 0, resetting := false
          cutShort := br.cutShort || !stopMade
          phase := if br.enabled = false then .disabled else if br.answers = [] then .idle else .posting }))) ∧
    ((s.branch b).enabled = true → (s.branch b).bus = .busyOther → (s.branch b).busyFlagged = false →
      (s.branch b).busyLimit ≠ 0 →
      exec (.busyLimitExceeded b) s = .next (State.setFlag (s.modBranch b fun br =>
        { br with
          busyTimer := max br.busyTimer (br.busyLimit.toNat * 1000 + 1), busyFlagged := true }) .branchBlocked).endEvent) ∧
    ((s.branch b).enabled = true → (s.branch b).bus = .busyOther → (s.branch b).busyFlagged = true →
      (s.branch b).busyLimit.toNat * 1000 < (s.branch b).busyTimer → exec (.busyLimitExceeded b) s = .next s.endEvent)

/-- The end of a write's run: the operation is dropped, the bus is FREE and the gap timer restarts; a confirmed or timed write is
answered, a failed posted write goes to the fault record, and a group member is reported. A list's head enters the queue. -/
def Obligations.RunEndsHandOn : Prop :=
  (∀ (s : State) (b : Fin 4) (o : Operation) (st : Status),
    (s.branch b).op = some o → o.isRead = false → (s.branch b).phase = .stop → (s.branch b).told = none →
    ((s.branch b).stopReason = .done ∧ st = .ok) ∨ ((s.branch b).stopReason = .dataNack ∧ st = .dataNack) ∨
      ((s.branch b).stopReason = .addressNack ∧ o.retryLimit.val < (s.branch b).retryCount ∧ st = .nack) →
    ∃ t, exec (.runEnd b) s = .next (State.endEvent t) ∧ (t.branch b).op = none ∧ (t.branch b).bus = .free ∧
      (t.branch b).gapTimer = 0 ∧ (t.branch b).retryCount = 0 ∧ (t.branch b).lastCause = .absent ∧
      (t.branch b).queue = (s.branch b).queue ∧
      (t.branch b).phase = (if (s.branch b).resetting = true then .clearing
        else if (t.branch b).answers = [] then .idle else .posting) ∧
      (∀ rt, o.tag? = some rt →
        let position := if st = .dataNack then o.offset + (s.branch b).progress.dataDone else o.offset
        let r : Record := { rt := rt, status := st, body := .completion position }
        ((s.branch b).answers = [] ∧ s.responseQueue.length < 16 →
          t.responseQueue = s.responseQueue ++ [r] ∧ (t.branch b).answers = []) ∧
        ((s.branch b).answers ≠ [] ∨ 16 ≤ s.responseQueue.length →
          t.responseQueue = s.responseQueue ∧ (t.branch b).answers = (s.branch b).answers ++ [r])) ∧
      (∀ data, o.body = .posted data → t.responseQueue = s.responseQueue ∧ t.groups = s.groups ∧
        (st = .ok → t.fault = s.fault ∧ t.flags = s.flags) ∧
        (st ≠ .ok →
          t.flag .writeFailed = true ∧
          (s.fault = none → t.fault = some ⟨b, o.busAddress, o.ldn, o.offset, st, false⟩) ∧
          (∀ r, s.fault = some r → t.fault = some { r with more := true }))) ∧
      (∀ rt data member, o.body = .timed rt data member →
        let reported := s.reportMember member (decide (st = .ok))
        t.groups = reported.groups ∧ t.lines = reported.lines ∧ t.flags = reported.flags) ∧
      (∀ rt data g, o.body = .timed rt data (some (g, (s.group g).generation)) → (s.group g).state = .collecting →
        (s.group g).done + (s.group g).failed < (s.group g).members →
        t.group g = if st = .ok then { s.group g with done := (s.group g).done + 1 }
          else { s.group g with failed := (s.group g).failed + 1 }) ∧
      (∀ c, c ≠ b → (t.branch c).unstalled = (s.branch c).unstalled) ∧
      t.split = s.split ∧ t.attns = s.attns ∧ t.opState = s.opState ∧ t.releaseQueue = s.releaseQueue ∧
      t.withRun s = s) ∧
  (∀ (s : State) (b : Fin 4) (r : Record) (rest : List Record), (s.branch b).answers = r :: rest →
    (s.responseQueue.length < 16 →
      exec (.answerPosted b) s = .next (State.endEvent
        (({ s with responseQueue := s.responseQueue ++ [r] } : State).modBranch b fun br =>
          { br with answers := rest, phase := if br.phase = .posting ∧ rest = [] then .idle else br.phase }))) ∧
    (16 ≤ s.responseQueue.length → exec (.answerPosted b) s = .next s))

/-- The end of a piece's run: with success, or with an error after every byte of it is stored, its piece is HELD or released and
the read goes on; a later piece without PERSIST that meets NACK closes the read SHORT with its bytes kept; any other error
closes it with that status and no bytes but a frame's. For an entry already CLOSING or ABANDONED the piece is only released,
and an entry whose FINAL frame has been sent is freed. -/
def Obligations.ReadRunEnds : Prop :=
  ∀ (s : State) (b : Fin 4) (o : Operation) (i : Fin 16) (n : Nat) (first : Bool) (e : SplitEntry),
    (s.branch b).op = some o → o.body = .readPiece i n first → s.entry i = some e →
    s.FinalsFit → (s.branch b).phase = .stop → (s.branch b).told = none →
    let failed : Prop := (s.branch b).stopReason = .dataNack ∨ ((s.branch b).stopReason = .addressNack ∧
      ((first = false ∧ o.persist = false) ∨ o.retryLimit.val < (s.branch b).retryCount))
    let ends (P : SplitEntry → Prop) : Prop :=
      ∃ t e', exec (.runEnd b) s = .next (State.endEvent t) ∧ (t.branch b).op = none ∧ t.entry i = some e' ∧
        e'.received = e.received ∧ e'.sent = e.sent ∧ P e' ∧
        (∀ c, c ≠ b → (t.branch c).unstalled = (s.branch c).unstalled) ∧ t.opState = s.opState ∧
        t.fault = s.fault ∧ t.intake <:+ s.intake ∧ s.responseQueue <+: t.responseQueue ∧ t.withRun s = s ∧
        (s.headHasWaited = false →
          t.responseQueue = s.responseQueue ∧ t.groups = s.groups ∧ t.releaseQueue = s.releaseQueue)
    let closes (st : Status) : Prop :=
      ends fun e' => e'.state = .closing ∧ e'.finalStatus = some st ∧ e'.held = e.held.take (s.bytesInFlight i) ∧
        e'.pieces = []
    (e.state = .gathering ∨ (e.state = .delivering ∧ e.finalSent = false) →
      (s.branch b).stopReason = .done ∨ (failed ∧ o.offset + n ≤ e.start + e.received) →
      ends fun e' => e'.state = e.state ∧ e'.held = e.held ∧ ∀ p ∈ e'.pieces, p.state ≠ .active) ∧
    (e.state = .gathering → (s.branch b).stopReason = .addressNack → first = false → o.persist = false →
      e.start + e.received < o.offset + n →
      ends fun e' => e'.state = .closing ∧ e'.finalStatus = some .short ∧ e'.held = e.held ∧
        ∀ p ∈ e'.pieces, p.state = .held) ∧
    (e.state = .gathering → (s.branch b).stopReason = .addressNack → o.retryLimit.val < (s.branch b).retryCount →
      first = true ∨ o.persist = true → e.start + e.received < o.offset + n → closes .nack) ∧
    (e.state = .gathering → (s.branch b).stopReason = .dataNack → e.start + e.received < o.offset + n →
      closes .dataNack) ∧
    (e.state = .closing ∨ e.state = .abandoned → e.finalSent = false → (s.branch b).stopReason = .done ∨ failed →
      ends fun e' => e' = { e with pieces := e.pieces.filter fun p => p.state ≠ .active }) ∧
    (∀ rt, e.finalSent = true → e.owner = .trunk rt → e.state ≠ .gathering → (s.branch b).stopReason = .done ∨ failed →
      (e.state = .delivering → o.offset + n ≤ e.start + e.received) → (∀ c, (s.attn c).pending = false) →
      ∃ t, exec (.runEnd b) s = .next (State.endEvent t) ∧ (t.branch b).op = none ∧ t.entry i = none ∧
        t.ageOrder = s.ageOrder.filter (fun j => j ≠ i) ∧ t.withRun s = s)

/-! ## Deadlines -/

/-- A due deadline: under EXTEND it is put off once by the class value, with SPLIT_SLOW; under ABANDON, or when it was put off
before, the entry is abandoned with TIMEOUT, with SPLIT_TIMEOUT, and the engine that runs its piece is told. A deadline that is
not due changes nothing. That the expiry is a step of its own behind an advance of the counter is the model's choice (log 50).
-/
def Obligations.DeadlineExpires : Prop :=
  ∀ (s : State) (i : Fin 16) (e : SplitEntry), s.entry i = some e →
    (e.state = .gathering ∨ e.state = .delivering → s.finalBegun i e = false →
      (s.stamp - e.deadline).toNat < 2 ^ 31 →
      (e.route.timeoutPolicy = .extend → e.extended = false →
        exec (.deadlineExpiry i) s = .next (State.endEvent (State.setFlag (s.setEntry i (some { e with
          deadline := e.deadline + s.timeoutClasses[e.route.timeoutClass.val].setWidth 32
          extended := true })) .splitSlow))) ∧
      (e.route.timeoutPolicy = .abandon ∨ e.extended = true →
        ∃ t e', exec (.deadlineExpiry i) s = .next (State.endEvent t) ∧ t.entry i = some e' ∧ e'.state = .abandoned ∧
          e'.finalStatus = some .timeout ∧ e'.held = e.held.take (s.bytesInFlight i) ∧
          (∀ p ∈ e'.pieces, p.state = .active ∧ p ∈ e.pieces) ∧ t.flag .splitTimeout = true ∧
          (∀ o, (s.branch e.route.branch).op = some o → o.isPieceOf i = true → (s.branch e.route.branch).told = none →
            (s.branch e.route.branch).phase ∈
              ([.start, .address, .subaddress, .restart, .readData, .stall, .stop] : List Phase) →
            (t.branch e.route.branch).told = some .unwanted ∧ (t.branch e.route.branch).op = some o) ∧
          (∀ j, j ≠ i → (t.entry j).map SplitEntry.ungranted = (s.entry j).map SplitEntry.ungranted) ∧
          t.opState = s.opState ∧ t.fault = s.fault ∧ t.intake <:+ s.intake ∧ s.responseQueue <+: t.responseQueue ∧
          t.withRun s = s ∧ (s.headHasWaited = false →
            t.responseQueue = s.responseQueue ∧ t.groups = s.groups ∧ t.releaseQueue = s.releaseQueue))) ∧
    (e.state = .closing ∨ e.state = .abandoned ∨ s.finalBegun i e = true ∨ 2 ^ 31 ≤ (s.stamp - e.deadline).toNat →
      exec (.deadlineExpiry i) s = .next s)

/-! ## Trunk Transmitter -/

/-- With HOLD-IN released and no frame in flight, the head record of the Response Queue is sent before all else, as the frame its
kind names; the record leaves the queue. While HOLD-IN is asserted or a frame is in flight, none begins. -/
def Obligations.RecordFrameBegins : Prop :=
  (∀ (s : State) (r : Record) (rest : List Record), s.sending = none → s.holdIn = false → s.responseQueue = r :: rest →
    (∀ offset, r.body = .completion offset →
      exec .frameSendBegin s = .next (State.endEvent { s with
        responseQueue := rest
        sending := some
          { source := .record false, dataCount := 0, final := false,
            bytes := wire 0x81 r.rt.toByte (s.bridgeNumber.setWidth 8 :: r.status.code :: 1 ::
              bytes16 (BitVec.ofNat 16 offset)) } })) ∧
    (∀ failWord data follows, r.body = .mgmt failWord data follows →
      exec .frameSendBegin s = .next (State.endEvent { s with
        responseQueue := rest
        sending := some
          { source := .record follows, dataCount := 0, final := false,
            bytes := wire 0x82 r.rt.toByte (s.bridgeNumber.setWidth 8 :: r.status.code ::
              BitVec.ofNat 8 failWord :: data) } }))) ∧
  (∀ s : State, s.sending ≠ none ∨ s.holdIn = true → exec .frameSendBegin s = .next s) ∧
  (∀ rt : ReqTag, rt.toByte.extractLsb' 5 3 = rt.requester ∧ rt.toByte.extractLsb' 0 5 = rt.tag)

/-- With no record waiting, a pending notice is sent with every flag that is set, and its mark is cleared; else the first entry
with a frame ready, counted on from the place after LAST SERVED, sends its frame; with no candidate nothing begins. An entry has
a frame ready when none of its own is in flight and its FINAL has not been sent, and enough of its bytes wait: 128, all of them,
any when 448 are taken or it is CLOSING with SHORT; or it has only its status left to send. -/
def Obligations.NoticeOrSplitBegins : Prop :=
  (∀ (s : State) (i : Fin 16), s.frameReady i = true ↔ ∃ e, s.entry i = some e ∧
    (∀ f, s.sending = some f → f.source ≠ .split i) ∧ e.finalSent = false ∧
    let short : Prop := e.state = .closing ∧ e.finalStatus = some .short
    (((e.state = .gathering ∨ e.state = .delivering ∨ short) ∧ e.held ≠ [] ∧
        (128 ≤ e.held.length ∨ e.received = e.length ∨ 448 ≤ s.occupancy ∨ short)) ∨
      (short ∧ e.held = []) ∨ (e.state = .closing ∧ ¬short) ∨ e.state = .abandoned)) ∧
  (∀ s : State, s.sending = none → s.holdIn = false → s.responseQueue = [] →
    (s.noticePending = true →
      exec .frameSendBegin s = .next (State.endEvent { s with
        noticePending := false
        sending := some
          { source := .notice, dataCount := 0, final := false,
            bytes := wire 0x83 0 (s.bridgeNumber.setWidth 8 :: bytes16 (s.flags.setWidth 16)) } })) ∧
    (s.noticePending = false → (∀ i, s.frameReady i = false) → exec .frameSendBegin s = .next s) ∧
    (∀ (i : Fin 16) (e : SplitEntry), s.noticePending = false → s.frameReady i = true → s.entry i = some e →
      (∀ k : Fin 16, (k - (s.lastServed + 1)).val < (i - (s.lastServed + 1)).val → s.frameReady k = false) →
      let begins (data : List Byte) (status : Status) (final : Bool) : Prop :=
        let tail := status.code :: (if final then 1 else 0) :: (bytes16 (BitVec.ofNat 16 (e.start + e.sent)) ++ data)
        exec .frameSendBegin s = .next (State.endEvent { s with
          lastServed := i
          sending := some
            { source := .split i, dataCount := data.length, final := final,
              bytes := match e.owner with
                | .trunk rt => wire 0x81 rt.toByte (s.bridgeNumber.setWidth 8 :: tail)
                | .attn b => wire 0x84 0 (s.bridgeNumber.setWidth 8 :: BitVec.ofNat 8 b.val :: tail) } })
      (e.state = .gathering → begins (e.held.take 128) .ok false) ∧
      (e.state = .delivering → begins (e.held.take 128) .ok (decide (e.held.length ≤ 128))) ∧
      (e.state = .closing → e.finalStatus = some .short →
        begins (e.held.take 128) (if e.held.length ≤ 128 then .short else .ok) (decide (e.held.length ≤ 128))) ∧
      (∀ st, e.state = .closing ∨ e.state = .abandoned → e.finalStatus = some st →
        (e.state = .closing → st ≠ .short) → begins [] st true)))

/-- The end of a send. A record or a notice needs nothing further. A data frame's bytes count as sent, and pieces sent whole are
released; after the FINAL frame the entry is freed when no piece is ACTIVE: the lowest waiting attention entry claims the place,
and the entry of a freed poll goes to HOLDOFF. DRAINING ends in QUIET. HOLD-IN is sensed. -/
def Obligations.SendEnds : Prop :=
  (∀ (s : State) (f : InFlight), s.sending = some f → f.source = .record false ∨ f.source = .notice →
    exec .sendEnd s = .next (State.endEvent { s with sending := none }) ∧
    (s.opState = .draining → s.responseQueue = [] → s.noticePending = false → s.intake = [] → (∀ i, s.entry i = none) →
      (∀ b, (s.branch b).queue = [] ∧ (s.branch b).answers = []) → (∀ e ∈ s.releaseQueue, e.due = false) →
      exec .sendEnd s = .next { s with sending := none, opState := .quiet })) ∧
  (∀ (s : State) (f : InFlight) (i : Fin 16) (e : SplitEntry), s.sending = some f → f.source = .split i →
    s.entry i = some e → e.finalSent = false →
    (f.final = false ∨ (∃ p ∈ e.pieces, p.state = .active) →
      ∃ t e', exec .sendEnd s = .next (State.endEvent t) ∧ t.sending = none ∧ t.entry i = some e' ∧
        e'.sent = e.sent + f.dataCount ∧
        e'.held = e.held.drop f.dataCount ∧ e'.received = e.received ∧ e'.state = e.state ∧ e'.finalSent = f.final ∧
        (∀ p ∈ e'.pieces, p.state = .held → e'.sent < min (p.offset - e.start + p.length) e.received) ∧
        (∀ j, j ≠ i → (t.entry j).map SplitEntry.ungranted = (s.entry j).map SplitEntry.ungranted) ∧
        { t with sending := s.sending, split := s.split, branches := s.branches, freeCount := s.freeCount } = s) ∧
    (f.final = true → (∀ p ∈ e.pieces, p.state ≠ .active) →
      (∀ rt, e.owner = .trunk rt → (∀ b, (s.attn b).pending = false) →
        ∃ t, exec .sendEnd s = .next (State.endEvent t) ∧ t.sending = none ∧ t.entry i = none ∧
          t.ageOrder = s.ageOrder.filter (fun j => j ≠ i) ∧
          (∀ j, j ≠ i → (t.entry j).map SplitEntry.ungranted = (s.entry j).map SplitEntry.ungranted) ∧
          { t with
            sending := s.sending, split := s.split, branches := s.branches, ageOrder := s.ageOrder,
            freeCount := s.freeCount } = s) ∧
      (∀ rt b r, e.owner = .trunk rt → s.opState = .active ∨ s.opState = .draining →
        (∀ j, j ≠ i → (s.entry j).isSome = true) →
        (s.attn b).status = .idle → (s.attn b).pending = true → 1 ≤ (s.attn b).length →
        (∀ c, c < b → (s.attn c).status ≠ .idle ∨ (s.attn c).pending = false) →
        s.routeFor (s.attn b).ldn .forRead none (s.attn b).offset.toNat (s.attn b).length = .ok r →
        ∃ t e', exec .sendEnd s = .next (State.endEvent t) ∧ t.entry i = some e' ∧ e'.owner = .attn b ∧ e'.route = r ∧
          e'.state = .gathering ∧ t.attns = s.attns.set b.val { s.attn b with pending := false, status := .polling } b.isLt ∧
          t.ageOrder = s.ageOrder.filter (fun j => j ≠ i) ++ [i]) ∧
      (∀ b, e.owner = .attn b → (∀ c, c ≠ b → (s.attn c).pending = false) →
        let held (a : Attn) : State → Prop := fun t =>
          t.entry i = none ∧ t.attns = s.attns.set b.val a b.isLt ∧ t.ageOrder = s.ageOrder.filter (fun j => j ≠ i)
        ((s.attn b).holdoff ≠ 0 →
          ∃ t, exec .sendEnd s = .next (State.endEvent t) ∧ held { s.attn b with
            status := .holdoff, holdoffTimer := 0, holdoffLength := (s.attn b).holdoff.toNat * 1000 } t) ∧
        ((s.attn b).holdoff = 0 → (s.attn b).enabled = false ∨ s.opState = .offline ∨
            ((s.attn b).pending = false ∧ ((s.attn b).mode = .edge ∨ (s.attn b).line = true)) →
          ∃ t, exec .sendEnd s = .next (State.endEvent t) ∧ held { s.attn b with
            status := .idle, pending := false, holdoffTimer := 0, holdoffLength := 0 } t)))) ∧
  (∀ s : State, exec .holdInAssert s = .next { s with holdIn := true }) ∧
  (∀ s : State, exec .holdInRelease s = .next (State.endEvent { s with holdIn := false })) ∧
  (∀ s : State, s.Settled → s.holdIn = true → s.sending = none → s.responseQueue = [] → s.noticePending = false →
    (∀ i, s.frameReady i = false) → exec .holdInRelease s = .next { s with holdIn := false })

/-! ## Timed release, latch lines -/

/-- The due head leaves the Release Queue: a write into its enabled branch's queue, or with BRANCH_OFF and its group told; a
latch with its action and OK; in OFFLINE with ABORTED. Without a place it waits, and RELEASE_SLIP is set once. A head that is
not due stays. What becomes the head is judged at once. -/
def Obligations.HeadReleased : Prop :=
  ∀ (s : State) (e : ReleaseEntry) (rest : List ReleaseEntry), s.releaseQueue = e :: rest →
    let waits := if e.waiting = true then s
      else (State.setFlag { s with releaseQueue := { e with waiting := true } :: rest } .releaseSlip).endEvent
    (∀ member r offset data, e.body = .timedWrite member r offset data → e.due = true → s.opState ≠ .offline →
      ((s.branch r.branch).enabled = true → (s.branch r.branch).queue.length < 16 →
        exec .releaseTimedWrite s = .next (State.judge
          (({ s with releaseQueue := rest } : State).modBranch r.branch fun br =>
            { br with queue := br.queue ++ [
              { body := .timed e.rt data member, ldn := r.ldn, busAddress := r.busAddress, width := r.width,
                offset := offset, retryLimit := r.retryLimit, persist := r.persist }] })).endEvent) ∧
      ((s.branch r.branch).enabled = true → 16 ≤ (s.branch r.branch).queue.length →
        exec .releaseTimedWrite s = .next waits) ∧
      ((s.branch r.branch).enabled = false → s.responseQueue.length < 16 →
        let off : State := { s with
          releaseQueue := rest
          responseQueue := s.responseQueue ++ [{ rt := e.rt, status := .branchOff, body := .completion offset }] }
        exec .releaseBranchOff s = .next (off.reportMember member false).judge.endEvent ∧
        (member = none → exec .releaseBranchOff s = .next off.judge.endEvent) ∧
        (∀ g, member = some (g, (s.group g).generation) → (s.group g).state = .collecting →
          (s.group g).done + (s.group g).failed < (s.group g).members →
          exec .releaseBranchOff s = .next (off.modGroup g fun x => { x with failed := x.failed + 1 }).judge.endEvent)) ∧
      ((s.branch r.branch).enabled = false → 16 ≤ s.responseQueue.length →
        exec .releaseBranchOff s = .next waits)) ∧
    (∀ lines action width, e.body = .timedLatch lines action width → e.due = true → s.opState ≠ .offline →
      (s.responseQueue.length < 16 →
        exec .releaseTimedLatch s = .next (State.latch { s with
          releaseQueue := rest
          responseQueue := s.responseQueue ++ [{ rt := e.rt, status := .ok, body := .completion 0 }] }
            lines action width.toNat).judge.endEvent) ∧
      (16 ≤ s.responseQueue.length → exec .releaseTimedLatch s = .next waits)) ∧
    (s.opState = .offline → s.responseQueue.length < 16 →
      exec .offlineAbortAnswer s = .next (State.judge { s with
        releaseQueue := rest
        responseQueue := s.responseQueue ++ [{ rt := e.rt, status := .aborted, body := .completion e.abortOffset }] }).endEvent) ∧
    (e.due = false → exec .releaseTimedWrite s = .next s ∧ exec .releaseBranchOff s = .next s ∧
      exec .releaseTimedLatch s = .next s)

/-- What each action does to a selected line with and without a running pulse; an unselected line and all else stay. At the end
of a pulse the line is driven at RESTING. LATCH LEVELS shows the levels driven. -/
def Obligations.PulsesAndLatches : Prop :=
  (∀ (s : State) (lines : BitVec 4) (width : Nat) (l : Fin 4),
    let after (action : LatchAction) : Line := (s.latch lines action width).line l
    (lines.getLsbD l.val = false → ∀ action, after action = s.line l) ∧
    (lines.getLsbD l.val = true →
      after .set = { s.line l with resting := true } ∧
      after .clear = { s.line l with resting := false } ∧
      after .toggle = { s.line l with resting := !(s.line l).resting } ∧
      ((s.line l).pulse = none →
        after .pulse =
          { s.line l with pulse := some { level := !(s.line l).resting, width := width, timer := 0 } }) ∧
      (∀ p, (s.line l).pulse = some p →
        after .pulse = { s.line l with pulse := some { level := p.level, width := width, timer := 0 } }))) ∧
  (∀ (s : State) (lines : BitVec 4) (action : LatchAction) (width : Nat),
    { s.latch lines action width with lines := s.lines } = s) ∧
  (∀ (s : State) (l : Fin 4),
    exec (.pulseEnd l) s = .next (s.modLine l fun x => { x with pulse := none })) ∧
  (∀ (s : State) (l : Fin 4),
    ((s.line l).pulse = none → (s.line l).driven = (s.line l).resting) ∧
    (∀ p, (s.line l).pulse = some p → (s.line l).driven = p.level) ∧
    (s.readWord .latchLevels).getLsbD l.val = (s.line l).driven)

/-! ## Attention steps, the end of a wake -/

/-- A falling edge: kept as PENDING while the entry is busy or the bridge sleeps, a poll when it is IDLE; it wakes a QUIET
bridge under WAKE. A high line clears LEVEL SPENT. The end of a holdoff, where a low line under LEVEL makes an attempt whatever
LEVEL SPENT is (log 25); that an attempt on a high line that fails leaves LEVEL SPENT yes is log 44. The end of the wake time:
with no waiting entry it is the end of the event in ACTIVE, in which the engines take while Intake's head frame is left to a
later step, the model's choice (R177; log 49); with waiting entries only the frame of the step is stated, not which of them
claim a place (R161). -/
def Obligations.AttentionSteps : Prop :=
  (∀ (s : State) (b : Fin 4),
    let low (x : State) : State := x.modAttn b fun a => { a with line := false }
    let kept (x : State) : State := x.modAttn b fun a => { a with line := false, pending := true }
    ((s.attn b).enabled = false → exec (.attentionTrigger b) s = .next (low s)) ∧
    ((s.attn b).enabled = true → s.opState = .offline → exec (.attentionTrigger b) s = .next (low s).endEvent) ∧
    ((s.attn b).enabled = true → s.opState = .active ∨ s.opState = .draining →
      (s.attn b).status ≠ .idle ∨ (s.attn b).pending = true →
      exec (.attentionTrigger b) s = .next (kept s).endEvent) ∧
    ((s.attn b).enabled = true → s.opState = .waking ∨ (s.opState = .quiet ∧ (s.attn b).wake = false) →
      exec (.attentionTrigger b) s = .next (kept s).endEvent) ∧
    ((s.attn b).enabled = true → s.opState = .quiet → (s.attn b).wake = true →
      exec (.attentionTrigger b) s =
        .next (State.setFlag { kept s with opState := .waking, wakeTimer := 0 } .woke).endEvent) ∧
    ((s.attn b).enabled = true → s.opState = .active ∨ s.opState = .draining → (s.attn b).status = .idle →
      (s.attn b).pending = false →
      ((s.attn b).length = 0 ∨
          (∃ st, s.routeFor (s.attn b).ldn .forRead none (s.attn b).offset.toNat (s.attn b).length = .error st) →
        exec (.attentionTrigger b) s = .next (State.endEvent (State.setFlag (s.modAttn b fun a =>
          { a with line := false, levelSpent := decide (a.mode = .level) || a.levelSpent }) .attnNoRoute))) ∧
      (∀ r, 1 ≤ (s.attn b).length →
        s.routeFor (s.attn b).ldn .forRead none (s.attn b).offset.toNat (s.attn b).length = .ok r →
        (s.freePlace = none → exec (.attentionTrigger b) s = .next (kept s).endEvent) ∧
        (∀ i, s.freePlace = some i →
          exec (.attentionTrigger b) s = .next (State.endEvent (State.grantPass (State.setEntry
            { s with
              attns := s.attns.set b.val { s.attn b with line := false, pending := false, status := .polling } b.isLt
              ageOrder := s.ageOrder ++ [i] } i (some
            { owner := .attn b, route := r, start := (s.attn b).offset.toNat, length := (s.attn b).length, issued := 0,
              received := 0, sent := 0, pieces := [],
              deadline := s.stamp + s.timeoutClasses[r.timeoutClass.val].setWidth 32, extended := false,
              state := .gathering, finalStatus := none, finalSent := false, held := [] })))))))) ∧
  (∀ (s : State) (b : Fin 4),
    exec (.attentionLineRise b) s = .next (s.modAttn b fun a => { a with line := true, levelSpent := false })) ∧
  (∀ (s : State) (b : Fin 4), (s.attn b).status = .holdoff →
    let ended (pending : Bool) : State := s.modAttn b fun a =>
      { a with status := .idle, pending := pending, holdoffTimer := 0, holdoffLength := 0 }
    ((s.attn b).enabled = false ∨ s.opState = .offline ∨
      ((s.attn b).pending = false ∧ ((s.attn b).mode = .edge ∨ (s.attn b).line = true)) →
      exec (.holdoffEnd b) s = .next (ended false).endEvent) ∧
    ((s.attn b).enabled = true → s.opState = .quiet ∨ s.opState = .waking →
      (s.attn b).pending = true ∨ ((s.attn b).mode = .level ∧ (s.attn b).line = false) →
      exec (.holdoffEnd b) s = .next (ended true).endEvent) ∧
    ((s.attn b).enabled = true → s.opState = .active ∨ s.opState = .draining →
      (s.attn b).pending = true ∨ ((s.attn b).mode = .level ∧ (s.attn b).line = false) →
      ((s.attn b).length = 0 ∨
          (∃ st, s.routeFor (s.attn b).ldn .forRead none (s.attn b).offset.toNat (s.attn b).length = .error st) →
        exec (.holdoffEnd b) s = .next (State.endEvent (State.setFlag ((ended false).modAttn b fun a =>
          { a with levelSpent := decide (a.mode = .level) || a.levelSpent }) .attnNoRoute))) ∧
      (∀ r, 1 ≤ (s.attn b).length →
        s.routeFor (s.attn b).ldn .forRead none (s.attn b).offset.toNat (s.attn b).length = .ok r →
        (s.freePlace = none → exec (.holdoffEnd b) s = .next (ended true).endEvent) ∧
        (∀ i, s.freePlace = some i →
          ∃ t e, exec (.holdoffEnd b) s = .next (State.endEvent t) ∧ t.entry i = some e ∧ e.owner = .attn b ∧ e.route = r ∧
            (t.attn b).status = .polling ∧ (t.attn b).pending = false)))) ∧
  (∀ s : State, s.opState = .waking →
    ((∀ b, (s.attn b).status ≠ .idle ∨ (s.attn b).pending = false) →
      exec .wakeTimeEnd s = .next (State.endEvent { s with opState := .active, wakeTimer := 0 })) ∧
    (∃ t, exec .wakeTimeEnd s = .next (State.endEvent t) ∧ t.opState = .active ∧ t.wakeTimer = 0 ∧
      { t.withPolls s with opState := s.opState, wakeTimer := s.wakeTimer } = s))

/-! ## Images, invariants -/

/-- The image of every entry that R3 allows is eight bytes and reads back as that entry: no field is lost or exchanged. -/
def Obligations.RouteImageRoundTrip : Prop :=
  ∀ e : RouteEntry, e.device ≠ .aliasOf e.ldn → (∀ b w, e.device = .target b 0 w → e.access = .wo) →
    (imageOfEntry e).length = 8 ∧ entryOfImage (imageOfEntry e) = some e

/-- Every step keeps every queue, table and counter within its capacity, and the Route Table in ascending order. -/
def Obligations.BoundedKept : Prop := ∀ s t : State, s.Bounded → step s = .next t → t.Bounded

/-- Every step keeps the requester and tag pairs of the tag holders different from one another. -/
def Obligations.TagsStayUnique : Prop := ∀ s t : State, s.TagsUnique → step s = .next t → t.TagsUnique

/-- Every step keeps the occupancy of the completion buffer at 512 bytes or below. -/
def Obligations.BufferNeverOverfills : Prop := ∀ s t : State, s.BufferFits → step s = .next t → t.BufferFits

/-- Every step keeps it so that an engine holds an operation exactly in the phases that hold one. That STOP is one of them,
where R87's table says yes or no, is the model's choice (log 20); the phase stands for STATE also while RESETTING is shown (log
16). -/
def Obligations.EnginesHoldTheirOperations : Prop := ∀ s t : State, s.EnginesHold → step s = .next t → t.EnginesHold

/-- Every step keeps it so that a FINAL frame is an entry's last, and that no frame of a free place is in flight. -/
def Obligations.FinalFrameComesLast : Prop := ∀ s t : State, s.FinalsFit → step s = .next t → t.FinalsFit

/-- Every step keeps it so that nothing is left undone that the part does in the event in which it first may: no engine may take an
operation, no answer enter the Response Queue, no head of the Release Queue leave it or begin to wait, no frame begin, and DRAINING
has a reason to last. -/
def Obligations.NothingIsLeftUndone : Prop := ∀ s t : State, s.Settled → step s = .next t → t.Settled

/-- The invariants hold after a reset. -/
def Obligations.InvariantsAtReset : Prop :=
  State.reset.Bounded ∧ State.reset.TagsUnique ∧ State.reset.BufferFits ∧ State.reset.EnginesHold ∧
    State.reset.FinalsFit ∧ State.reset.Settled
end

