-- ==== Sys2Proof/Laws/State.lean ====
section
/-! SUPPORT. The field lemmas of State: what each update leaves unchanged, each by rfl, and what it reads back. -/

namespace Sys2Proof.Machine

/-! ## modBranch -/

@[simp] theorem modBranch_pending (s : State) (b : Fin 4) (f : Branch → Branch) : (s.modBranch b f).pending = s.pending := rfl
@[simp] theorem modBranch_freeCount (s : State) (b : Fin 4) (f : Branch → Branch) : (s.modBranch b f).freeCount = s.freeCount := rfl
@[simp] theorem modBranch_rx (s : State) (b : Fin 4) (f : Branch → Branch) : (s.modBranch b f).rx = s.rx := rfl
@[simp] theorem modBranch_intake (s : State) (b : Fin 4) (f : Branch → Branch) : (s.modBranch b f).intake = s.intake := rfl
@[simp] theorem modBranch_intakeStopped (s : State) (b : Fin 4) (f : Branch → Branch) : (s.modBranch b f).intakeStopped = s.intakeStopped := rfl
@[simp] theorem modBranch_bridgeNumber (s : State) (b : Fin 4) (f : Branch → Branch) : (s.modBranch b f).bridgeNumber = s.bridgeNumber := rfl
@[simp] theorem modBranch_holdIn (s : State) (b : Fin 4) (f : Branch → Branch) : (s.modBranch b f).holdIn = s.holdIn := rfl
@[simp] theorem modBranch_straps (s : State) (b : Fin 4) (f : Branch → Branch) : (s.modBranch b f).straps = s.straps := rfl
@[simp] theorem modBranch_routes (s : State) (b : Fin 4) (f : Branch → Branch) : (s.modBranch b f).routes = s.routes := rfl
@[simp] theorem modBranch_split (s : State) (b : Fin 4) (f : Branch → Branch) : (s.modBranch b f).split = s.split := rfl
@[simp] theorem modBranch_ageOrder (s : State) (b : Fin 4) (f : Branch → Branch) : (s.modBranch b f).ageOrder = s.ageOrder := rfl
@[simp] theorem modBranch_commitLimit (s : State) (b : Fin 4) (f : Branch → Branch) : (s.modBranch b f).commitLimit = s.commitLimit := rfl
@[simp] theorem modBranch_timeoutClasses (s : State) (b : Fin 4) (f : Branch → Branch) : (s.modBranch b f).timeoutClasses = s.timeoutClasses := rfl
@[simp] theorem modBranch_responseQueue (s : State) (b : Fin 4) (f : Branch → Branch) : (s.modBranch b f).responseQueue = s.responseQueue := rfl
@[simp] theorem modBranch_sending (s : State) (b : Fin 4) (f : Branch → Branch) : (s.modBranch b f).sending = s.sending := rfl
@[simp] theorem modBranch_lastServed (s : State) (b : Fin 4) (f : Branch → Branch) : (s.modBranch b f).lastServed = s.lastServed := rfl
@[simp] theorem modBranch_stamp (s : State) (b : Fin 4) (f : Branch → Branch) : (s.modBranch b f).stamp = s.stamp := rfl
@[simp] theorem modBranch_tickTimer (s : State) (b : Fin 4) (f : Branch → Branch) : (s.modBranch b f).tickTimer = s.tickTimer := rfl
@[simp] theorem modBranch_tickLength (s : State) (b : Fin 4) (f : Branch → Branch) : (s.modBranch b f).tickLength = s.tickLength := rfl
@[simp] theorem modBranch_tickShift (s : State) (b : Fin 4) (f : Branch → Branch) : (s.modBranch b f).tickShift = s.tickShift := rfl
@[simp] theorem modBranch_lateWindow (s : State) (b : Fin 4) (f : Branch → Branch) : (s.modBranch b f).lateWindow = s.lateWindow := rfl
@[simp] theorem modBranch_releaseQueue (s : State) (b : Fin 4) (f : Branch → Branch) : (s.modBranch b f).releaseQueue = s.releaseQueue := rfl
@[simp] theorem modBranch_groups (s : State) (b : Fin 4) (f : Branch → Branch) : (s.modBranch b f).groups = s.groups := rfl
@[simp] theorem modBranch_lines (s : State) (b : Fin 4) (f : Branch → Branch) : (s.modBranch b f).lines = s.lines := rfl
@[simp] theorem modBranch_attns (s : State) (b : Fin 4) (f : Branch → Branch) : (s.modBranch b f).attns = s.attns := rfl
@[simp] theorem modBranch_flags (s : State) (b : Fin 4) (f : Branch → Branch) : (s.modBranch b f).flags = s.flags := rfl
@[simp] theorem modBranch_noticeMask (s : State) (b : Fin 4) (f : Branch → Branch) : (s.modBranch b f).noticeMask = s.noticeMask := rfl
@[simp] theorem modBranch_noticeArm (s : State) (b : Fin 4) (f : Branch → Branch) : (s.modBranch b f).noticeArm = s.noticeArm := rfl
@[simp] theorem modBranch_noticePending (s : State) (b : Fin 4) (f : Branch → Branch) : (s.modBranch b f).noticePending = s.noticePending := rfl
@[simp] theorem modBranch_fault (s : State) (b : Fin 4) (f : Branch → Branch) : (s.modBranch b f).fault = s.fault := rfl
@[simp] theorem modBranch_opState (s : State) (b : Fin 4) (f : Branch → Branch) : (s.modBranch b f).opState = s.opState := rfl
@[simp] theorem modBranch_wakeTimer (s : State) (b : Fin 4) (f : Branch → Branch) : (s.modBranch b f).wakeTimer = s.wakeTimer := rfl

/-! ## setEntry -/

@[simp] theorem setEntry_pending (s : State) (i : Fin 16) (e : Option SplitEntry) : (s.setEntry i e).pending = s.pending := rfl
@[simp] theorem setEntry_freeCount (s : State) (i : Fin 16) (e : Option SplitEntry) : (s.setEntry i e).freeCount = s.freeCount := rfl
@[simp] theorem setEntry_rx (s : State) (i : Fin 16) (e : Option SplitEntry) : (s.setEntry i e).rx = s.rx := rfl
@[simp] theorem setEntry_intake (s : State) (i : Fin 16) (e : Option SplitEntry) : (s.setEntry i e).intake = s.intake := rfl
@[simp] theorem setEntry_intakeStopped (s : State) (i : Fin 16) (e : Option SplitEntry) : (s.setEntry i e).intakeStopped = s.intakeStopped := rfl
@[simp] theorem setEntry_bridgeNumber (s : State) (i : Fin 16) (e : Option SplitEntry) : (s.setEntry i e).bridgeNumber = s.bridgeNumber := rfl
@[simp] theorem setEntry_holdIn (s : State) (i : Fin 16) (e : Option SplitEntry) : (s.setEntry i e).holdIn = s.holdIn := rfl
@[simp] theorem setEntry_straps (s : State) (i : Fin 16) (e : Option SplitEntry) : (s.setEntry i e).straps = s.straps := rfl
@[simp] theorem setEntry_routes (s : State) (i : Fin 16) (e : Option SplitEntry) : (s.setEntry i e).routes = s.routes := rfl
@[simp] theorem setEntry_ageOrder (s : State) (i : Fin 16) (e : Option SplitEntry) : (s.setEntry i e).ageOrder = s.ageOrder := rfl
@[simp] theorem setEntry_commitLimit (s : State) (i : Fin 16) (e : Option SplitEntry) : (s.setEntry i e).commitLimit = s.commitLimit := rfl
@[simp] theorem setEntry_timeoutClasses (s : State) (i : Fin 16) (e : Option SplitEntry) : (s.setEntry i e).timeoutClasses = s.timeoutClasses := rfl
@[simp] theorem setEntry_branches (s : State) (i : Fin 16) (e : Option SplitEntry) : (s.setEntry i e).branches = s.branches := rfl
@[simp] theorem setEntry_responseQueue (s : State) (i : Fin 16) (e : Option SplitEntry) : (s.setEntry i e).responseQueue = s.responseQueue := rfl
@[simp] theorem setEntry_sending (s : State) (i : Fin 16) (e : Option SplitEntry) : (s.setEntry i e).sending = s.sending := rfl
@[simp] theorem setEntry_lastServed (s : State) (i : Fin 16) (e : Option SplitEntry) : (s.setEntry i e).lastServed = s.lastServed := rfl
@[simp] theorem setEntry_stamp (s : State) (i : Fin 16) (e : Option SplitEntry) : (s.setEntry i e).stamp = s.stamp := rfl
@[simp] theorem setEntry_tickTimer (s : State) (i : Fin 16) (e : Option SplitEntry) : (s.setEntry i e).tickTimer = s.tickTimer := rfl
@[simp] theorem setEntry_tickLength (s : State) (i : Fin 16) (e : Option SplitEntry) : (s.setEntry i e).tickLength = s.tickLength := rfl
@[simp] theorem setEntry_tickShift (s : State) (i : Fin 16) (e : Option SplitEntry) : (s.setEntry i e).tickShift = s.tickShift := rfl
@[simp] theorem setEntry_lateWindow (s : State) (i : Fin 16) (e : Option SplitEntry) : (s.setEntry i e).lateWindow = s.lateWindow := rfl
@[simp] theorem setEntry_releaseQueue (s : State) (i : Fin 16) (e : Option SplitEntry) : (s.setEntry i e).releaseQueue = s.releaseQueue := rfl
@[simp] theorem setEntry_groups (s : State) (i : Fin 16) (e : Option SplitEntry) : (s.setEntry i e).groups = s.groups := rfl
@[simp] theorem setEntry_lines (s : State) (i : Fin 16) (e : Option SplitEntry) : (s.setEntry i e).lines = s.lines := rfl
@[simp] theorem setEntry_attns (s : State) (i : Fin 16) (e : Option SplitEntry) : (s.setEntry i e).attns = s.attns := rfl
@[simp] theorem setEntry_flags (s : State) (i : Fin 16) (e : Option SplitEntry) : (s.setEntry i e).flags = s.flags := rfl
@[simp] theorem setEntry_noticeMask (s : State) (i : Fin 16) (e : Option SplitEntry) : (s.setEntry i e).noticeMask = s.noticeMask := rfl
@[simp] theorem setEntry_noticeArm (s : State) (i : Fin 16) (e : Option SplitEntry) : (s.setEntry i e).noticeArm = s.noticeArm := rfl
@[simp] theorem setEntry_noticePending (s : State) (i : Fin 16) (e : Option SplitEntry) : (s.setEntry i e).noticePending = s.noticePending := rfl
@[simp] theorem setEntry_fault (s : State) (i : Fin 16) (e : Option SplitEntry) : (s.setEntry i e).fault = s.fault := rfl
@[simp] theorem setEntry_opState (s : State) (i : Fin 16) (e : Option SplitEntry) : (s.setEntry i e).opState = s.opState := rfl
@[simp] theorem setEntry_wakeTimer (s : State) (i : Fin 16) (e : Option SplitEntry) : (s.setEntry i e).wakeTimer = s.wakeTimer := rfl

/-! ## modAttn -/

@[simp] theorem modAttn_pending (s : State) (b : Fin 4) (f : Attn → Attn) : (s.modAttn b f).pending = s.pending := rfl
@[simp] theorem modAttn_freeCount (s : State) (b : Fin 4) (f : Attn → Attn) : (s.modAttn b f).freeCount = s.freeCount := rfl
@[simp] theorem modAttn_rx (s : State) (b : Fin 4) (f : Attn → Attn) : (s.modAttn b f).rx = s.rx := rfl
@[simp] theorem modAttn_intake (s : State) (b : Fin 4) (f : Attn → Attn) : (s.modAttn b f).intake = s.intake := rfl
@[simp] theorem modAttn_intakeStopped (s : State) (b : Fin 4) (f : Attn → Attn) : (s.modAttn b f).intakeStopped = s.intakeStopped := rfl
@[simp] theorem modAttn_bridgeNumber (s : State) (b : Fin 4) (f : Attn → Attn) : (s.modAttn b f).bridgeNumber = s.bridgeNumber := rfl
@[simp] theorem modAttn_holdIn (s : State) (b : Fin 4) (f : Attn → Attn) : (s.modAttn b f).holdIn = s.holdIn := rfl
@[simp] theorem modAttn_straps (s : State) (b : Fin 4) (f : Attn → Attn) : (s.modAttn b f).straps = s.straps := rfl
@[simp] theorem modAttn_routes (s : State) (b : Fin 4) (f : Attn → Attn) : (s.modAttn b f).routes = s.routes := rfl
@[simp] theorem modAttn_split (s : State) (b : Fin 4) (f : Attn → Attn) : (s.modAttn b f).split = s.split := rfl
@[simp] theorem modAttn_ageOrder (s : State) (b : Fin 4) (f : Attn → Attn) : (s.modAttn b f).ageOrder = s.ageOrder := rfl
@[simp] theorem modAttn_commitLimit (s : State) (b : Fin 4) (f : Attn → Attn) : (s.modAttn b f).commitLimit = s.commitLimit := rfl
@[simp] theorem modAttn_timeoutClasses (s : State) (b : Fin 4) (f : Attn → Attn) : (s.modAttn b f).timeoutClasses = s.timeoutClasses := rfl
@[simp] theorem modAttn_branches (s : State) (b : Fin 4) (f : Attn → Attn) : (s.modAttn b f).branches = s.branches := rfl
@[simp] theorem modAttn_responseQueue (s : State) (b : Fin 4) (f : Attn → Attn) : (s.modAttn b f).responseQueue = s.responseQueue := rfl
@[simp] theorem modAttn_sending (s : State) (b : Fin 4) (f : Attn → Attn) : (s.modAttn b f).sending = s.sending := rfl
@[simp] theorem modAttn_lastServed (s : State) (b : Fin 4) (f : Attn → Attn) : (s.modAttn b f).lastServed = s.lastServed := rfl
@[simp] theorem modAttn_stamp (s : State) (b : Fin 4) (f : Attn → Attn) : (s.modAttn b f).stamp = s.stamp := rfl
@[simp] theorem modAttn_tickTimer (s : State) (b : Fin 4) (f : Attn → Attn) : (s.modAttn b f).tickTimer = s.tickTimer := rfl
@[simp] theorem modAttn_tickLength (s : State) (b : Fin 4) (f : Attn → Attn) : (s.modAttn b f).tickLength = s.tickLength := rfl
@[simp] theorem modAttn_tickShift (s : State) (b : Fin 4) (f : Attn → Attn) : (s.modAttn b f).tickShift = s.tickShift := rfl
@[simp] theorem modAttn_lateWindow (s : State) (b : Fin 4) (f : Attn → Attn) : (s.modAttn b f).lateWindow = s.lateWindow := rfl
@[simp] theorem modAttn_releaseQueue (s : State) (b : Fin 4) (f : Attn → Attn) : (s.modAttn b f).releaseQueue = s.releaseQueue := rfl
@[simp] theorem modAttn_groups (s : State) (b : Fin 4) (f : Attn → Attn) : (s.modAttn b f).groups = s.groups := rfl
@[simp] theorem modAttn_lines (s : State) (b : Fin 4) (f : Attn → Attn) : (s.modAttn b f).lines = s.lines := rfl
@[simp] theorem modAttn_flags (s : State) (b : Fin 4) (f : Attn → Attn) : (s.modAttn b f).flags = s.flags := rfl
@[simp] theorem modAttn_noticeMask (s : State) (b : Fin 4) (f : Attn → Attn) : (s.modAttn b f).noticeMask = s.noticeMask := rfl
@[simp] theorem modAttn_noticeArm (s : State) (b : Fin 4) (f : Attn → Attn) : (s.modAttn b f).noticeArm = s.noticeArm := rfl
@[simp] theorem modAttn_noticePending (s : State) (b : Fin 4) (f : Attn → Attn) : (s.modAttn b f).noticePending = s.noticePending := rfl
@[simp] theorem modAttn_fault (s : State) (b : Fin 4) (f : Attn → Attn) : (s.modAttn b f).fault = s.fault := rfl
@[simp] theorem modAttn_opState (s : State) (b : Fin 4) (f : Attn → Attn) : (s.modAttn b f).opState = s.opState := rfl
@[simp] theorem modAttn_wakeTimer (s : State) (b : Fin 4) (f : Attn → Attn) : (s.modAttn b f).wakeTimer = s.wakeTimer := rfl

/-! ## modGroup -/

@[simp] theorem modGroup_pending (s : State) (g : Fin 7) (f : Group → Group) : (s.modGroup g f).pending = s.pending := rfl
@[simp] theorem modGroup_freeCount (s : State) (g : Fin 7) (f : Group → Group) : (s.modGroup g f).freeCount = s.freeCount := rfl
@[simp] theorem modGroup_rx (s : State) (g : Fin 7) (f : Group → Group) : (s.modGroup g f).rx = s.rx := rfl
@[simp] theorem modGroup_intake (s : State) (g : Fin 7) (f : Group → Group) : (s.modGroup g f).intake = s.intake := rfl
@[simp] theorem modGroup_intakeStopped (s : State) (g : Fin 7) (f : Group → Group) : (s.modGroup g f).intakeStopped = s.intakeStopped := rfl
@[simp] theorem modGroup_bridgeNumber (s : State) (g : Fin 7) (f : Group → Group) : (s.modGroup g f).bridgeNumber = s.bridgeNumber := rfl
@[simp] theorem modGroup_holdIn (s : State) (g : Fin 7) (f : Group → Group) : (s.modGroup g f).holdIn = s.holdIn := rfl
@[simp] theorem modGroup_straps (s : State) (g : Fin 7) (f : Group → Group) : (s.modGroup g f).straps = s.straps := rfl
@[simp] theorem modGroup_routes (s : State) (g : Fin 7) (f : Group → Group) : (s.modGroup g f).routes = s.routes := rfl
@[simp] theorem modGroup_split (s : State) (g : Fin 7) (f : Group → Group) : (s.modGroup g f).split = s.split := rfl
@[simp] theorem modGroup_ageOrder (s : State) (g : Fin 7) (f : Group → Group) : (s.modGroup g f).ageOrder = s.ageOrder := rfl
@[simp] theorem modGroup_commitLimit (s : State) (g : Fin 7) (f : Group → Group) : (s.modGroup g f).commitLimit = s.commitLimit := rfl
@[simp] theorem modGroup_timeoutClasses (s : State) (g : Fin 7) (f : Group → Group) : (s.modGroup g f).timeoutClasses = s.timeoutClasses := rfl
@[simp] theorem modGroup_branches (s : State) (g : Fin 7) (f : Group → Group) : (s.modGroup g f).branches = s.branches := rfl
@[simp] theorem modGroup_responseQueue (s : State) (g : Fin 7) (f : Group → Group) : (s.modGroup g f).responseQueue = s.responseQueue := rfl
@[simp] theorem modGroup_sending (s : State) (g : Fin 7) (f : Group → Group) : (s.modGroup g f).sending = s.sending := rfl
@[simp] theorem modGroup_lastServed (s : State) (g : Fin 7) (f : Group → Group) : (s.modGroup g f).lastServed = s.lastServed := rfl
@[simp] theorem modGroup_stamp (s : State) (g : Fin 7) (f : Group → Group) : (s.modGroup g f).stamp = s.stamp := rfl
@[simp] theorem modGroup_tickTimer (s : State) (g : Fin 7) (f : Group → Group) : (s.modGroup g f).tickTimer = s.tickTimer := rfl
@[simp] theorem modGroup_tickLength (s : State) (g : Fin 7) (f : Group → Group) : (s.modGroup g f).tickLength = s.tickLength := rfl
@[simp] theorem modGroup_tickShift (s : State) (g : Fin 7) (f : Group → Group) : (s.modGroup g f).tickShift = s.tickShift := rfl
@[simp] theorem modGroup_lateWindow (s : State) (g : Fin 7) (f : Group → Group) : (s.modGroup g f).lateWindow = s.lateWindow := rfl
@[simp] theorem modGroup_releaseQueue (s : State) (g : Fin 7) (f : Group → Group) : (s.modGroup g f).releaseQueue = s.releaseQueue := rfl
@[simp] theorem modGroup_lines (s : State) (g : Fin 7) (f : Group → Group) : (s.modGroup g f).lines = s.lines := rfl
@[simp] theorem modGroup_attns (s : State) (g : Fin 7) (f : Group → Group) : (s.modGroup g f).attns = s.attns := rfl
@[simp] theorem modGroup_flags (s : State) (g : Fin 7) (f : Group → Group) : (s.modGroup g f).flags = s.flags := rfl
@[simp] theorem modGroup_noticeMask (s : State) (g : Fin 7) (f : Group → Group) : (s.modGroup g f).noticeMask = s.noticeMask := rfl
@[simp] theorem modGroup_noticeArm (s : State) (g : Fin 7) (f : Group → Group) : (s.modGroup g f).noticeArm = s.noticeArm := rfl
@[simp] theorem modGroup_noticePending (s : State) (g : Fin 7) (f : Group → Group) : (s.modGroup g f).noticePending = s.noticePending := rfl
@[simp] theorem modGroup_fault (s : State) (g : Fin 7) (f : Group → Group) : (s.modGroup g f).fault = s.fault := rfl
@[simp] theorem modGroup_opState (s : State) (g : Fin 7) (f : Group → Group) : (s.modGroup g f).opState = s.opState := rfl
@[simp] theorem modGroup_wakeTimer (s : State) (g : Fin 7) (f : Group → Group) : (s.modGroup g f).wakeTimer = s.wakeTimer := rfl

/-! ## modLine -/

@[simp] theorem modLine_pending (s : State) (l : Fin 4) (f : Line → Line) : (s.modLine l f).pending = s.pending := rfl
@[simp] theorem modLine_freeCount (s : State) (l : Fin 4) (f : Line → Line) : (s.modLine l f).freeCount = s.freeCount := rfl
@[simp] theorem modLine_rx (s : State) (l : Fin 4) (f : Line → Line) : (s.modLine l f).rx = s.rx := rfl
@[simp] theorem modLine_intake (s : State) (l : Fin 4) (f : Line → Line) : (s.modLine l f).intake = s.intake := rfl
@[simp] theorem modLine_intakeStopped (s : State) (l : Fin 4) (f : Line → Line) : (s.modLine l f).intakeStopped = s.intakeStopped := rfl
@[simp] theorem modLine_bridgeNumber (s : State) (l : Fin 4) (f : Line → Line) : (s.modLine l f).bridgeNumber = s.bridgeNumber := rfl
@[simp] theorem modLine_holdIn (s : State) (l : Fin 4) (f : Line → Line) : (s.modLine l f).holdIn = s.holdIn := rfl
@[simp] theorem modLine_straps (s : State) (l : Fin 4) (f : Line → Line) : (s.modLine l f).straps = s.straps := rfl
@[simp] theorem modLine_routes (s : State) (l : Fin 4) (f : Line → Line) : (s.modLine l f).routes = s.routes := rfl
@[simp] theorem modLine_split (s : State) (l : Fin 4) (f : Line → Line) : (s.modLine l f).split = s.split := rfl
@[simp] theorem modLine_ageOrder (s : State) (l : Fin 4) (f : Line → Line) : (s.modLine l f).ageOrder = s.ageOrder := rfl
@[simp] theorem modLine_commitLimit (s : State) (l : Fin 4) (f : Line → Line) : (s.modLine l f).commitLimit = s.commitLimit := rfl
@[simp] theorem modLine_timeoutClasses (s : State) (l : Fin 4) (f : Line → Line) : (s.modLine l f).timeoutClasses = s.timeoutClasses := rfl
@[simp] theorem modLine_branches (s : State) (l : Fin 4) (f : Line → Line) : (s.modLine l f).branches = s.branches := rfl
@[simp] theorem modLine_responseQueue (s : State) (l : Fin 4) (f : Line → Line) : (s.modLine l f).responseQueue = s.responseQueue := rfl
@[simp] theorem modLine_sending (s : State) (l : Fin 4) (f : Line → Line) : (s.modLine l f).sending = s.sending := rfl
@[simp] theorem modLine_lastServed (s : State) (l : Fin 4) (f : Line → Line) : (s.modLine l f).lastServed = s.lastServed := rfl
@[simp] theorem modLine_stamp (s : State) (l : Fin 4) (f : Line → Line) : (s.modLine l f).stamp = s.stamp := rfl
@[simp] theorem modLine_tickTimer (s : State) (l : Fin 4) (f : Line → Line) : (s.modLine l f).tickTimer = s.tickTimer := rfl
@[simp] theorem modLine_tickLength (s : State) (l : Fin 4) (f : Line → Line) : (s.modLine l f).tickLength = s.tickLength := rfl
@[simp] theorem modLine_tickShift (s : State) (l : Fin 4) (f : Line → Line) : (s.modLine l f).tickShift = s.tickShift := rfl
@[simp] theorem modLine_lateWindow (s : State) (l : Fin 4) (f : Line → Line) : (s.modLine l f).lateWindow = s.lateWindow := rfl
@[simp] theorem modLine_releaseQueue (s : State) (l : Fin 4) (f : Line → Line) : (s.modLine l f).releaseQueue = s.releaseQueue := rfl
@[simp] theorem modLine_groups (s : State) (l : Fin 4) (f : Line → Line) : (s.modLine l f).groups = s.groups := rfl
@[simp] theorem modLine_attns (s : State) (l : Fin 4) (f : Line → Line) : (s.modLine l f).attns = s.attns := rfl
@[simp] theorem modLine_flags (s : State) (l : Fin 4) (f : Line → Line) : (s.modLine l f).flags = s.flags := rfl
@[simp] theorem modLine_noticeMask (s : State) (l : Fin 4) (f : Line → Line) : (s.modLine l f).noticeMask = s.noticeMask := rfl
@[simp] theorem modLine_noticeArm (s : State) (l : Fin 4) (f : Line → Line) : (s.modLine l f).noticeArm = s.noticeArm := rfl
@[simp] theorem modLine_noticePending (s : State) (l : Fin 4) (f : Line → Line) : (s.modLine l f).noticePending = s.noticePending := rfl
@[simp] theorem modLine_fault (s : State) (l : Fin 4) (f : Line → Line) : (s.modLine l f).fault = s.fault := rfl
@[simp] theorem modLine_opState (s : State) (l : Fin 4) (f : Line → Line) : (s.modLine l f).opState = s.opState := rfl
@[simp] theorem modLine_wakeTimer (s : State) (l : Fin 4) (f : Line → Line) : (s.modLine l f).wakeTimer = s.wakeTimer := rfl

/-! ## pushRecord -/

@[simp] theorem pushRecord_pending (s : State) (r : Record) : (s.pushRecord r).pending = s.pending := rfl
@[simp] theorem pushRecord_freeCount (s : State) (r : Record) : (s.pushRecord r).freeCount = s.freeCount := rfl
@[simp] theorem pushRecord_rx (s : State) (r : Record) : (s.pushRecord r).rx = s.rx := rfl
@[simp] theorem pushRecord_intake (s : State) (r : Record) : (s.pushRecord r).intake = s.intake := rfl
@[simp] theorem pushRecord_intakeStopped (s : State) (r : Record) : (s.pushRecord r).intakeStopped = s.intakeStopped := rfl
@[simp] theorem pushRecord_bridgeNumber (s : State) (r : Record) : (s.pushRecord r).bridgeNumber = s.bridgeNumber := rfl
@[simp] theorem pushRecord_holdIn (s : State) (r : Record) : (s.pushRecord r).holdIn = s.holdIn := rfl
@[simp] theorem pushRecord_straps (s : State) (r : Record) : (s.pushRecord r).straps = s.straps := rfl
@[simp] theorem pushRecord_routes (s : State) (r : Record) : (s.pushRecord r).routes = s.routes := rfl
@[simp] theorem pushRecord_split (s : State) (r : Record) : (s.pushRecord r).split = s.split := rfl
@[simp] theorem pushRecord_ageOrder (s : State) (r : Record) : (s.pushRecord r).ageOrder = s.ageOrder := rfl
@[simp] theorem pushRecord_commitLimit (s : State) (r : Record) : (s.pushRecord r).commitLimit = s.commitLimit := rfl
@[simp] theorem pushRecord_timeoutClasses (s : State) (r : Record) : (s.pushRecord r).timeoutClasses = s.timeoutClasses := rfl
@[simp] theorem pushRecord_branches (s : State) (r : Record) : (s.pushRecord r).branches = s.branches := rfl
@[simp] theorem pushRecord_sending (s : State) (r : Record) : (s.pushRecord r).sending = s.sending := rfl
@[simp] theorem pushRecord_lastServed (s : State) (r : Record) : (s.pushRecord r).lastServed = s.lastServed := rfl
@[simp] theorem pushRecord_stamp (s : State) (r : Record) : (s.pushRecord r).stamp = s.stamp := rfl
@[simp] theorem pushRecord_tickTimer (s : State) (r : Record) : (s.pushRecord r).tickTimer = s.tickTimer := rfl
@[simp] theorem pushRecord_tickLength (s : State) (r : Record) : (s.pushRecord r).tickLength = s.tickLength := rfl
@[simp] theorem pushRecord_tickShift (s : State) (r : Record) : (s.pushRecord r).tickShift = s.tickShift := rfl
@[simp] theorem pushRecord_lateWindow (s : State) (r : Record) : (s.pushRecord r).lateWindow = s.lateWindow := rfl
@[simp] theorem pushRecord_releaseQueue (s : State) (r : Record) : (s.pushRecord r).releaseQueue = s.releaseQueue := rfl
@[simp] theorem pushRecord_groups (s : State) (r : Record) : (s.pushRecord r).groups = s.groups := rfl
@[simp] theorem pushRecord_lines (s : State) (r : Record) : (s.pushRecord r).lines = s.lines := rfl
@[simp] theorem pushRecord_attns (s : State) (r : Record) : (s.pushRecord r).attns = s.attns := rfl
@[simp] theorem pushRecord_flags (s : State) (r : Record) : (s.pushRecord r).flags = s.flags := rfl
@[simp] theorem pushRecord_noticeMask (s : State) (r : Record) : (s.pushRecord r).noticeMask = s.noticeMask := rfl
@[simp] theorem pushRecord_noticeArm (s : State) (r : Record) : (s.pushRecord r).noticeArm = s.noticeArm := rfl
@[simp] theorem pushRecord_noticePending (s : State) (r : Record) : (s.pushRecord r).noticePending = s.noticePending := rfl
@[simp] theorem pushRecord_fault (s : State) (r : Record) : (s.pushRecord r).fault = s.fault := rfl
@[simp] theorem pushRecord_opState (s : State) (r : Record) : (s.pushRecord r).opState = s.opState := rfl
@[simp] theorem pushRecord_wakeTimer (s : State) (r : Record) : (s.pushRecord r).wakeTimer = s.wakeTimer := rfl

/-- A record enters at the tail. -/
@[simp] theorem pushRecord_responseQueue (s : State) (r : Record) :
    (s.pushRecord r).responseQueue = s.responseQueue ++ [r] := rfl

/-! ## Reading back -/

@[simp] theorem getElem_mapAll {α β : Type} {n : Nat} (f : α → β) (v : Vector α n) (i : Nat) (h : i < n) :
    (mapAll f v)[i] = f v[i] := by
  simp [mapAll]

@[simp] theorem branch_modBranch_same (s : State) (b : Fin 4) (f : Branch → Branch) :
    (s.modBranch b f).branch b = f (s.branch b) := by
  simp [State.branch, State.modBranch]

theorem branch_modBranch_ne (s : State) (b c : Fin 4) (f : Branch → Branch) (h : c ≠ b) :
    (s.modBranch b f).branch c = s.branch c := by
  have h' : b.val ≠ c.val := fun e => h (Fin.ext e.symm)
  simp [State.branch, State.modBranch, h']

@[simp] theorem entry_setEntry_same (s : State) (i : Fin 16) (e : Option SplitEntry) :
    (s.setEntry i e).entry i = e := by
  simp [State.entry, State.setEntry]

theorem entry_setEntry_ne (s : State) (i j : Fin 16) (e : Option SplitEntry) (h : j ≠ i) :
    (s.setEntry i e).entry j = s.entry j := by
  have h' : i.val ≠ j.val := fun x => h (Fin.ext x.symm)
  simp [State.entry, State.setEntry, h']

@[simp] theorem attn_modAttn_same (s : State) (b : Fin 4) (f : Attn → Attn) : (s.modAttn b f).attn b = f (s.attn b) := by
  simp [State.attn, State.modAttn]

theorem attn_modAttn_ne (s : State) (b c : Fin 4) (f : Attn → Attn) (h : c ≠ b) : (s.modAttn b f).attn c = s.attn c := by
  have h' : b.val ≠ c.val := fun e => h (Fin.ext e.symm)
  simp [State.attn, State.modAttn, h']

@[simp] theorem group_modGroup_same (s : State) (g : Fin 7) (f : Group → Group) :
    (s.modGroup g f).group g = f (s.group g) := by
  simp [State.group, State.modGroup]

theorem group_modGroup_ne (s : State) (g k : Fin 7) (f : Group → Group) (h : k ≠ g) :
    (s.modGroup g f).group k = s.group k := by
  have h' : g.val ≠ k.val := fun e => h (Fin.ext e.symm)
  simp [State.group, State.modGroup, h']

@[simp] theorem line_modLine_same (s : State) (l : Fin 4) (f : Line → Line) : (s.modLine l f).line l = f (s.line l) := by
  simp [State.line, State.modLine]

theorem line_modLine_ne (s : State) (l k : Fin 4) (f : Line → Line) (h : k ≠ l) : (s.modLine l f).line k = s.line k := by
  have h' : l.val ≠ k.val := fun e => h (Fin.ext e.symm)
  simp [State.line, State.modLine, h']

/-! ## One view seen through another update -/

@[simp] theorem entry_modBranch (s : State) (b : Fin 4) (f : Branch → Branch) (i : Fin 16) :
    (s.modBranch b f).entry i = s.entry i := rfl
@[simp] theorem branch_setEntry (s : State) (i : Fin 16) (e : Option SplitEntry) (b : Fin 4) :
    (s.setEntry i e).branch b = s.branch b := rfl
@[simp] theorem branch_modAttn (s : State) (b c : Fin 4) (f : Attn → Attn) : (s.modAttn b f).branch c = s.branch c := rfl
@[simp] theorem entry_modAttn (s : State) (b : Fin 4) (f : Attn → Attn) (i : Fin 16) :
    (s.modAttn b f).entry i = s.entry i := rfl
@[simp] theorem attn_modBranch (s : State) (b c : Fin 4) (f : Branch → Branch) :
    (s.modBranch b f).attn c = s.attn c := rfl
@[simp] theorem attn_setEntry (s : State) (i : Fin 16) (e : Option SplitEntry) (b : Fin 4) :
    (s.setEntry i e).attn b = s.attn b := rfl
@[simp] theorem branch_pushRecord (s : State) (r : Record) (b : Fin 4) : (s.pushRecord r).branch b = s.branch b := rfl
@[simp] theorem entry_pushRecord (s : State) (r : Record) (i : Fin 16) : (s.pushRecord r).entry i = s.entry i := rfl

/-! ## Changes compared and composed -/

theorem modBranch_congr {s : State} {b : Fin 4} {f g : Branch → Branch} (h : f (s.branch b) = g (s.branch b)) :
    s.modBranch b f = s.modBranch b g := by
  unfold State.modBranch
  rw [h]

@[simp] theorem modBranch_modBranch (s : State) (b : Fin 4) (f g : Branch → Branch) :
    (s.modBranch b f).modBranch b g = s.modBranch b fun br => g (f br) := by
  simp [State.modBranch, State.branch]

theorem modBranch_id {s : State} {b : Fin 4} {f : Branch → Branch} (h : f (s.branch b) = s.branch b) :
    s.modBranch b f = s := by
  unfold State.modBranch
  rw [h]
  simp [State.branch]

theorem modAttn_congr {s : State} {b : Fin 4} {f g : Attn → Attn} (h : f (s.attn b) = g (s.attn b)) :
    s.modAttn b f = s.modAttn b g := by
  unfold State.modAttn
  rw [h]

@[simp] theorem modAttn_modAttn (s : State) (b : Fin 4) (f g : Attn → Attn) :
    (s.modAttn b f).modAttn b g = s.modAttn b fun a => g (f a) := by
  simp [State.modAttn, State.attn]

theorem modGroup_congr {s : State} {g : Fin 7} {f k : Group → Group} (h : f (s.group g) = k (s.group g)) :
    s.modGroup g f = s.modGroup g k := by
  unfold State.modGroup
  rw [h]

@[simp] theorem modGroup_modGroup (s : State) (g : Fin 7) (f k : Group → Group) :
    (s.modGroup g f).modGroup g k = s.modGroup g fun x => k (f x) := by
  simp [State.modGroup, State.group]

@[simp] theorem setEntry_setEntry (s : State) (i : Fin 16) (e e' : Option SplitEntry) :
    (s.setEntry i e).setEntry i e' = s.setEntry i e' := by
  simp [State.setEntry]

end Sys2Proof.Machine
end

