-- ==== Sys2Proof/Laws/Shared.lean ====
section
/-! SUPPORT. One lemma for each shared operation: everything it can change. `{ t with x := s.x } = s` says that t is s but
for x; a field is read off it with congrArg. -/

namespace Sys2Proof.Machine

/-- An equation of states, carried through a change of fields. -/
theorem lift (f : State → State) {a b x y : State} (h : a = b) (hx : x = f a) (hy : f b = y) : x = y :=
  hx.trans ((congrArg f h).trans hy)

/-! ## Flags -/

/-- What a flag's setting does when the flag is set already. -/
theorem setFlag_of_set (s : State) (f : EventFlag) (h : s.flag f = true) : s.setFlag f = s := by
  simp [State.setFlag, h]

theorem raiseNotice_only (s : State) :
    { s.raiseNotice with noticeArm := s.noticeArm, noticePending := s.noticePending } = s := by
  unfold State.raiseNotice; split <;> rfl

theorem setFlag_only (s : State) (f : EventFlag) :
    { s.setFlag f with flags := s.flags, noticeArm := s.noticeArm, noticePending := s.noticePending } = s := by
  unfold State.setFlag
  split
  · rfl
  · dsimp only
    split
    · exact lift (fun t : State => { t with flags := s.flags }) (raiseNotice_only { s with flags := s.flags ||| f.mask }) rfl rfl
    · rfl

theorem wakeUp_only (s : State) :
    { s.wakeUp with
      opState := s.opState, wakeTimer := s.wakeTimer, flags := s.flags, noticeArm := s.noticeArm,
      noticePending := s.noticePending } = s := by
  unfold State.wakeUp
  split
  · exact lift (fun t : State => { t with opState := s.opState, wakeTimer := s.wakeTimer })
      (setFlag_only { s with opState := .waking, wakeTimer := 0 } .woke) rfl rfl
  · rfl

theorem wakeUp_awake (s : State) (h : s.opState ≠ .quiet) : s.wakeUp = s := by simp [State.wakeUp, h]

theorem quiesce_only (s : State) : { s.quiesce with opState := s.opState } = s := by
  unfold State.quiesce; split <;> rfl

/-! ## Free choices -/

theorem pick_only {α : Type} (s : State) (xs : List α) (x : α) (t : State) (h : s.pick xs = some (x, t)) :
    { t with freeCount := s.freeCount } = s := by
  unfold State.pick at h
  split at h
  · cases h
  · cases h; rfl
  · cases h; rfl

theorem pick_mem {α : Type} (s : State) (xs : List α) (x : α) (t : State) (h : s.pick xs = some (x, t)) : x ∈ xs := by
  unfold State.pick at h
  split at h
  · cases h
  · cases h; exact List.mem_singleton_self _
  · rename_i y z _
    cases h
    rw [List.getD_eq_getElem?_getD]
    rcases hx : (y :: z)[Config.choice s.freeCount % (y :: z).length]? with _ | w
    · exact List.mem_cons_self
    · exact List.mem_of_getElem? hx

theorem pick_singleton {α : Type} (s : State) (x : α) : s.pick [x] = some (x, s) := rfl

theorem pick_nil {α : Type} (s : State) : s.pick ([] : List α) = none := rfl

/-! ## The grant pass and the stalls -/

theorem createPiece_only (s : State) (i : Fin 16) (e : SplitEntry) (n : Nat) :
    { s.createPiece i e n with split := s.split, branches := s.branches } = s := rfl

theorem grantEntry_only (i : Fin 16) (fuel : Nat) (s : State) :
    { (s.grantEntry i fuel).1 with split := s.split, branches := s.branches } = s := by
  induction fuel generalizing s with
  | zero => rfl
  | succ n ih =>
    unfold State.grantEntry
    split
    · rfl
    · rename_i e _
      split
      · rfl
      · split
        · rfl
        · dsimp only
          split
          · rfl
          · exact lift (fun t : State => { t with split := s.split, branches := s.branches })
              (ih (s.createPiece i e (nextPieceLength s.commitLimit e))) rfl rfl

theorem grantOver_only (places : List (Fin 16)) (s : State) :
    { s.grantOver places with split := s.split, branches := s.branches } = s := by
  induction places generalizing s with
  | nil => rfl
  | cons i rest ih =>
    have h := grantEntry_only i (uncreatedOf (s.entry i)) s
    unfold State.grantOver
    split
    · rename_i s' heq
      rw [heq] at h
      exact (congrArg (fun t : State => { t with split := s.split, branches := s.branches }) (ih s')).trans h
    · rename_i s' heq
      rw [heq] at h
      exact h

theorem grantPass_only (s : State) : { s.grantPass with split := s.split, branches := s.branches } = s :=
  grantOver_only s.ageOrder s

theorem endStalls_only (fuel : Nat) (s : State) :
    { s.endStalls fuel with branches := s.branches, freeCount := s.freeCount } = s := by
  induction fuel generalizing s with
  | zero => rfl
  | succ n ih =>
    unfold State.endStalls
    split
    · split
      · rfl
      · rename_i b s' heq
        have h := pick_only s _ _ _ heq
        exact (congrArg (fun t : State => { t with branches := s.branches, freeCount := s.freeCount })
          (ih (s'.endStallOf b))).trans (lift (fun t : State => { t with branches := s.branches }) h rfl rfl)
    · rfl

theorem roomFreed_only (s : State) : { s.roomFreed with branches := s.branches, freeCount := s.freeCount } = s :=
  endStalls_only 4 s

/-- No engine waits in STALL: a fall of the occupancy changes nothing. -/
theorem roomFreed_of_no_stall (s : State) (h : s.stalled = []) : s.roomFreed = s := by
  unfold State.roomFreed State.endStalls
  rw [h]
  simp [State.pick]

theorem createEntry_only (s : State) (i : Fin 16) (o : SplitOwner) (r : Route) (a n : Nat) :
    { s.createEntry i o r a n with split := s.split, branches := s.branches, ageOrder := s.ageOrder } = s := by
  unfold State.createEntry
  exact lift (fun t : State => { t with split := s.split, ageOrder := s.ageOrder }) (grantPass_only _) rfl rfl

/-! ## Polls -/

theorem withPolls_trans {s t u : State} (h : u.withPolls t = t) (h' : t.withPolls s = s) : u.withPolls s = s :=
  (congrArg (fun x : State => x.withPolls s) h).trans h'

theorem attemptPoll_only (s : State) (b : Fin 4) : (s.attemptPoll b).withPolls s = s := by
  have hu : (s.pollUnroutable b).withPolls s = s :=
    lift (fun t : State => t.withPolls s) (setFlag_only (s.modAttn b _) .attnNoRoute) rfl rfl
  unfold State.attemptPoll
  dsimp only
  split
  · exact hu
  · split
    · exact hu
    · split
      · rfl
      · exact lift (fun t : State => t.withPolls s) (createEntry_only _ _ _ _ _ _) rfl rfl

theorem trigger_only (s : State) (b : Fin 4) : (s.trigger b).withPolls s = s := by
  unfold State.trigger
  dsimp only
  repeat' split
  all_goals first | rfl | exact attemptPoll_only s b

theorem claimOver_only (bs : List (Fin 4)) (s : State) : (s.claimOver bs).withPolls s = s := by
  induction bs generalizing s with
  | nil => rfl
  | cons b rest ih =>
    unfold State.claimOver
    split
    · exact withPolls_trans (ih _) (attemptPoll_only s b)
    · exact ih s

theorem claims_only (s : State) : s.claims.withPolls s = s := by
  unfold State.claims; split
  · exact claimOver_only four s
  · rfl

theorem endHoldoff_only (s : State) (b : Fin 4) : (s.endHoldoff b).withPolls s = s := by
  unfold State.endHoldoff
  dsimp only
  split
  · exact withPolls_trans (attemptPoll_only _ b) rfl
  · split <;> rfl

theorem pollFreed_only (s : State) (b : Fin 4) : (s.pollFreed b).withPolls s = s := by
  unfold State.pollFreed
  dsimp only
  split
  · exact withPolls_trans (claims_only _) rfl
  · split
    · rename_i s2 heq
      have h : s2.withPolls s = s := lift (fun t : State => t.withPolls s) (pick_only _ _ _ _ heq) rfl rfl
      exact withPolls_trans (claims_only _) (withPolls_trans (endHoldoff_only _ b) h)
    · rename_i s2 heq
      have h : s2.withPolls s = s := lift (fun t : State => t.withPolls s) (pick_only _ _ _ _ heq) rfl rfl
      exact withPolls_trans (endHoldoff_only _ b) (withPolls_trans (claims_only _) h)
    · rfl

theorem freeEntry_only (s : State) (i : Fin 16) : (s.freeEntry i).withPolls s = s := by
  unfold State.freeEntry
  split
  · rfl
  · dsimp only
    split
    · exact withPolls_trans (claims_only _) rfl
    · exact withPolls_trans (pollFreed_only _ _) rfl

theorem freeIfDone_only (s : State) (i : Fin 16) : (s.freeIfDone i).withPolls s = s := by
  unfold State.freeIfDone
  split
  · rfl
  · split
    · exact freeEntry_only s i
    · rfl

theorem endEntry_only (s : State) (i : Fin 16) (st : EntryState) (status : Status) :
    { s.endEntry i st status with split := s.split, branches := s.branches } = s := by
  unfold State.endEntry; split <;> rfl

theorem withPolls_of_split {s t : State} (h : { t with split := s.split, branches := s.branches } = s) :
    t.withPolls s = s := lift (fun x : State => x.withPolls s) h rfl rfl

theorem withPolls_of_room {s t : State} (h : { t with branches := s.branches, freeCount := s.freeCount } = s) :
    t.withPolls s = s := lift (fun x : State => x.withPolls s) h rfl rfl

/-! ## Groups and answers -/

theorem fireIfComplete_only (s : State) (g : Fin 7) : (s.fireIfComplete g).withGroups s = s := by
  unfold State.fireIfComplete
  dsimp only
  split
  · split
    · rfl
    · exact lift (fun t : State => t.withGroups s) (setFlag_only (s.modGroup g _) .groupFailed) rfl rfl
  · rfl

theorem memberReport_only (s : State) (g : Fin 7) (generation : Byte) (ok : Bool) :
    (s.memberReport g generation ok).withGroups s = s := by
  unfold State.memberReport
  split
  · exact (congrArg (fun t : State => t.withGroups s) (fireIfComplete_only (s.modGroup g _) g)).trans rfl
  · rfl

theorem reportMember_only (s : State) (member : Option (Fin 7 × Byte)) (ok : Bool) :
    (s.reportMember member ok).withGroups s = s := by
  unfold State.reportMember
  split
  · rfl
  · exact memberReport_only s _ _ ok

theorem cancelMember_only (s : State) (member : Option (Fin 7 × Byte)) : (s.cancelMember member).withGroups s = s := by
  unfold State.cancelMember
  split
  · rfl
  · split
    · exact (congrArg (fun t : State => t.withGroups s) (fireIfComplete_only (s.modGroup _ _) _)).trans rfl
    · rfl

theorem recordRoom_iff (s : State) : s.recordRoom = true ↔ s.responseQueue.length < 16 := decide_eq_true_iff

theorem intakeRoom_iff (s : State) : s.intakeRoom = true ↔ s.responseQueue.length < 12 := decide_eq_true_iff

theorem addAnswer_only (s : State) (b : Fin 4) (r : Record) :
    { s.addAnswer b r with responseQueue := s.responseQueue, branches := s.branches } = s := by
  unfold State.addAnswer; split <;> rfl

theorem addAnswer_length (s : State) (b : Fin 4) (r : Record) (h : s.responseQueue.length ≤ 16) :
    (s.addAnswer b r).responseQueue.length ≤ 16 := by
  unfold State.addAnswer
  split
  · rename_i hc
    have h' := (recordRoom_iff s).1 ((Bool.and_eq_true_iff.1 hc).2)
    simp only [pushRecord_responseQueue, List.length_append, List.length_singleton]
    omega
  · exact h

theorem recordFault_only (s : State) (b : Fin 4) (o : Operation) (status : Status) :
    { s.recordFault b o status with
      fault := s.fault, flags := s.flags, noticeArm := s.noticeArm, noticePending := s.noticePending } = s := by
  unfold State.recordFault
  exact lift (fun t : State => { t with fault := s.fault }) (setFlag_only _ .writeFailed) rfl rfl

end Sys2Proof.Machine
end

