-- ==== Sys2Proof/Laws/Frames.lean ====
section
/-! SUPPORT. Bytes and numbers, the parsing of request frames, and how Intake takes the head frame. -/

namespace Sys2Proof.Machine

/-! ## Bytes -/

@[simp] theorem be16_bytes16 (x : BitVec 16) : be16 (x.extractLsb' 8 8) (x.extractLsb' 0 8) = x := by
  unfold be16
  apply BitVec.eq_of_getLsbD_eq
  intro i hi
  rw [BitVec.getLsbD_append]
  by_cases h : i < 8
  · simp [h]
  · have h2 : i - 8 < 8 := by omega
    have h3 : 8 + (i - 8) = i := by omega
    simp [h, h2, h3]

@[simp] theorem be32_bytes32 (x : BitVec 32) :
    be32 (x.extractLsb' 24 8) (x.extractLsb' 16 8) (x.extractLsb' 8 8) (x.extractLsb' 0 8) = x := by
  unfold be32
  apply BitVec.eq_of_getLsbD_eq
  intro i hi
  rw [BitVec.getLsbD_append, BitVec.getLsbD_append, BitVec.getLsbD_append]
  by_cases h : i < 8
  · simp [h, show i < 16 by omega]
  · by_cases h16 : i < 16
    · have h2 : i - 8 < 8 := by omega
      have h3 : 8 + (i - 8) = i := by omega
      simp [h, h16, h2, h3]
    · by_cases h24 : i < 24
      · have h2 : i - 16 < 8 := by omega
        have h3 : 16 + (i - 16) = i := by omega
        simp [h16, h2, h3]
      · have h2 : ¬ i - 16 < 8 := by omega
        have h4 : i - 16 - 8 < 8 := by omega
        have h3 : 24 + (i - 16 - 8) = i := by omega
        simp [h16, h2, h4, h3]

theorem bytes16_length (x : BitVec 16) : (bytes16 x).length = 2 := rfl
theorem bytes32_length (x : BitVec 32) : (bytes32 x).length = 4 := rfl

theorem wordsOf_bytes32 (w : Word) : wordsOf (bytes32 w) = [w] := by
  simp [bytes32, wordsOf]

theorem toNat_ofNat_length (data : List Byte) (h : data.length ≤ 255) :
    (BitVec.ofNat 8 data.length).toNat = data.length := by
  rw [BitVec.toNat_ofNat]; exact Nat.mod_eq_of_lt (by omega)

/-! ## Parsing -/

theorem parse_readFrame (reqtag ldn : Byte) (offset length : BitVec 16) (h1 : 1 ≤ length.toNat) (h2 : length.toNat ≤ 512) :
    parseRequest (readFrame reqtag ldn offset length) = .ok (.read ldn offset.toNat length.toNat) := by
  have hn : ¬ (length.toNat = 0 ∨ 512 < length.toNat) := by omega
  simp [parseRequest, readFrame, bytes16, parseRead, hn]

theorem parse_writeBody (make : Byte → Nat → List Byte → Request) (ldn : Byte) (offset : BitVec 16) (data : List Byte)
    (h : data.length ≤ 64) : parseWriteBody make (writeBody ldn offset data) = .ok (make ldn offset.toNat data) := by
  have hl := toNat_ofNat_length data (by omega)
  have hn : ¬ (64 < data.length ∨ data.length ≠ data.length) := by omega
  simp only [writeBody, bytes16, List.cons_append, List.nil_append, parseWriteBody, be16_bytes16, hl, hn, if_false]

theorem parse_latchFrame (reqtag : Byte) (stamp : Stamp) (lines action : Byte) (pw : BitVec 16) (a : LatchAction)
    (ha : LatchAction.ofCode action.toNat = some a) (hp : a = .pulse → pw ≠ 0) :
    parseRequest (latchFrame reqtag stamp lines action pw) = .ok (.timedLatch stamp (lines.extractLsb' 0 4) a pw) := by
  have hn : ¬ (a = .pulse ∧ pw = 0) := fun h => hp h.1 h.2
  have hk : (latchFrame reqtag stamp lines action pw).kind.toNat = 0x15 := rfl
  unfold parseRequest
  rw [hk]
  simp only [latchFrame, bytes16, bytes32, List.cons_append, List.nil_append, parseTimedLatch, ha, be16_bytes16,
    be32_bytes32, hn, if_false]

theorem parse_latchFrame_bad (reqtag : Byte) (stamp : Stamp) (lines action : Byte) (pw : BitVec 16)
    (h : LatchAction.ofCode action.toNat = none ∨ (LatchAction.ofCode action.toNat = some .pulse ∧ pw = 0)) :
    parseRequest (latchFrame reqtag stamp lines action pw) = .error .badField := by
  have hk : (latchFrame reqtag stamp lines action pw).kind.toNat = 0x15 := rfl
  unfold parseRequest
  rw [hk]
  rcases h with h | ⟨h, h0⟩
  · simp only [latchFrame, bytes16, bytes32, List.cons_append, List.nil_append, parseTimedLatch, h]
  · simp only [latchFrame, bytes16, bytes32, List.cons_append, List.nil_append, parseTimedLatch, h, be16_bytes16, h0,
      and_self, if_true]

theorem parse_cancelFrame (reqtag target : Byte) :
    parseRequest (cancelFrame reqtag target) = .ok (.cancel (target.extractLsb' 0 5)) := rfl

theorem parse_mgmtReadFrame (reqtag : Byte) (address : BitVec 16) (words : Byte) (h1 : 1 ≤ words.toNat)
    (h2 : words.toNat ≤ 8) :
    parseRequest (mgmtReadFrame reqtag address words) = .ok (.mgmtRead address.toNat words.toNat) := by
  have hn : ¬ (words.toNat = 0 ∨ 8 < words.toNat) := by omega
  simp [parseRequest, mgmtReadFrame, bytes16, parseMgmtRead, hn]

theorem parse_mgmtWriteFrame (reqtag bridge : Byte) (address : BitVec 16) (w : Word) :
    parseRequest (mgmtWriteFrame reqtag bridge address w) = .ok (.mgmtWrite (bridge.extractLsb' 0 3) address.toNat [w]) := by
  simp [parseRequest, mgmtWriteFrame, bytes16, bytes32, parseMgmtWrite, wordsOf]

theorem row_mgmtWriteFrame (reqtag bridge : Byte) (address : BitVec 16) (w : Word) :
    rowOf (mgmtWriteFrame reqtag bridge address w) = mgmtWriteRow address.toNat w := by
  have h : parseMgmtWrite (mgmtWriteFrame reqtag bridge address w).body =
      .ok (.mgmtWrite (bridge.extractLsb' 0 3) address.toNat [w]) := parse_mgmtWriteFrame reqtag bridge address w
  have hk : (mgmtWriteFrame reqtag bridge address w).kind.toNat = 0x22 := rfl
  unfold rowOf
  rw [hk]
  simp only [h]

theorem parse_tableFrame (reqtag command : Byte) (operand : List Byte) (n : Nat)
    (h : tableBodyLength command.toNat = some n) (hl : operand.length + 1 = n) :
    parseRequest (tableFrame reqtag command operand) = .ok (.table command operand) := by
  simp [parseRequest, tableFrame, parseTable, h, hl]

theorem parse_tableFrame_unknown (reqtag command : Byte) (operand : List Byte)
    (h : tableBodyLength command.toNat = none) :
    parseRequest (tableFrame reqtag command operand) = .ok (.table command operand) := by
  simp [parseRequest, tableFrame, parseTable, h]

/-! ## Taking the head frame -/

theorem takesFrames_of_atHead {s : State} {f : Frame} {rest : List Frame} (h : s.AtHead f rest) :
    s.takesFrames = true := by
  simp [State.takesFrames, h.2.1, h.2.2]

/-- A row takes its own frame. -/
theorem takeRow_atHead {s : State} {f : Frame} {rest : List Frame} (h : s.AtHead f rest) {row : Instr} (hr : rowOf f = row) :
    s.takeRow row = ((s.takeHead f rest).map State.endEvent).getD s := by
  unfold State.takeRow
  rw [h.1]
  simp only [takesFrames_of_atHead h, hr, decide_true, Bool.and_true, if_true]
  cases s.takeHead f rest <;> rfl

/-- An accepted frame is taken whatever the Response Queue holds (R33). -/
theorem takeHead_accept {s t : State} {f : Frame} {rest : List Frame}
    (h : ({ s with intake := rest } : State).decideFrame f = .accept t) : s.takeHead f rest = some t := by
  simp [State.takeHead, h]

/-- An answered frame is taken while the Response Queue holds fewer than 12 records (R33). -/
theorem takeHead_answer {s t : State} {f : Frame} {rest : List Frame} (hr : s.responseQueue.length < 12)
    (h : ({ s with intake := rest } : State).decideFrame f = .answer t) : s.takeHead f rest = some t := by
  simp [State.takeHead, h, (intakeRoom_iff s).2 hr]

/-- A refused frame is taken while the Response Queue holds fewer than 12 records (R32, R33). -/
theorem takeHead_refuse {s : State} {f : Frame} {rest : List Frame} {st : Status} (hr : s.responseQueue.length < 12)
    (h : ({ s with intake := rest } : State).decideFrame f = .refuse st) :
    s.takeHead f rest = some (s.answeredWith rest (f.refusal st)) := by
  simp [State.takeHead, h, (intakeRoom_iff s).2 hr, State.answeredWith, State.pushRecord]

/-- Past steps 2 to 4. -/
theorem decideFrame_passed (s : State) (f : Frame) (r : Request) (hp : parseRequest f = .ok r)
    (ho : s.opState ≠ .offline ∨ f.offlineRefused = false) : s.decideFrame f = s.decideRequest f.rt r := by
  have hn : ¬ (s.opState = .offline ∧ f.offlineRefused = true) := by
    rcases ho with h | h
    · exact fun x => h x.1
    · intro x; rw [h] at x; exact Bool.noConfusion x.2
  unfold State.decideFrame
  rw [hp]
  simp only [hn, if_false]

theorem decideFrame_error (s : State) (f : Frame) (st : Status) (hp : parseRequest f = .error st) :
    s.decideFrame f = .refuse st := by
  unfold State.decideFrame
  rw [hp]

theorem tableRow_intake (n : Nat) : isIntakeRow (tableRow n) = true := by
  unfold tableRow
  split <;> rfl

theorem ite_intake {p : Prop} [Decidable p] {x y : Instr} (hx : isIntakeRow x = true) (hy : isIntakeRow y = true) :
    isIntakeRow (if p then x else y) = true := by
  split <;> assumption

theorem mgmtWriteRow_intake (a : Nat) (w : Word) : isIntakeRow (mgmtWriteRow a w) = true := by
  unfold mgmtWriteRow
  dsimp only
  generalize w.toNat = v
  repeat' apply ite_intake
  all_goals first | rfl | (split <;> rfl)

theorem rowOf_intake (f : Frame) : isIntakeRow (rowOf f) = true := by
  unfold rowOf
  repeat' split
  all_goals first
    | rfl
    | exact mgmtWriteRow_intake _ _
    | exact tableRow_intake _

/-- An intake row takes a frame of its own. -/
theorem exec_intakeRow (i : Instr) (h : isIntakeRow i = true) (s : State) : exec i s = .next (s.takeRow i) := by
  cases i <;> first | exact absurd h Bool.false_ne_true | rfl

/-- Every frame has a row, and that row takes it. -/
theorem exec_rowOf (f : Frame) (s : State) : exec (rowOf f) s = .next (s.takeRow (rowOf f)) :=
  exec_intakeRow _ (rowOf_intake f) s

end Sys2Proof.Machine
end

