-- ==== Sys2Proof/Laws/Grant.lean ====
section
/-! SUPPORT. What a grant pass can do: it creates pieces and nothing else, within the commitment limit. -/

namespace Sys2Proof.Machine

/-- Some set entry, or none, in a place: the sum over the places moves by the difference. -/
theorem sum_set {n : Nat} (f : Option SplitEntry → Nat) (v : Vector (Option SplitEntry) n) (i : Nat) (hi : i < n)
    (e : Option SplitEntry) :
    ((v.set i e hi).toList.map f).sum + f v[i] = (v.toList.map f).sum + f e := by
  have h : ∀ (l : List (Option SplitEntry)) (k : Nat) (hk : k < l.length),
      ((l.set k e).map f).sum + f l[k] = (l.map f).sum + f e := by
    intro l
    induction l with
    | nil => intro k hk; simp at hk
    | cons x xs ih =>
      intro k hk
      cases k with
      | zero => simp; omega
      | succ k =>
        have := ih k (by simpa using hk)
        simp only [List.set_cons_succ, List.map_cons, List.sum_cons, List.getElem_cons_succ]
        omega
  have hv : (v.set i e hi).toList = v.toList.set i e := Vector.toList_set hi
  have := h v.toList i (by simpa using hi)
  rw [hv]
  simpa using this

theorem committed_setEntry (s : State) (i : Fin 16) (e : Option SplitEntry) :
    (s.setEntry i e).committed + entryUnits (s.entry i) = s.committed + entryUnits e :=
  sum_set entryUnits s.split i.val i.isLt e

theorem committed_modBranch (s : State) (b : Fin 4) (f : Branch → Branch) : (s.modBranch b f).committed = s.committed := rfl

theorem createPiece_committed (s : State) (i : Fin 16) (e : SplitEntry) (n : Nat) (he : s.entry i = some e) :
    (s.createPiece i e n).committed = s.committed + units n := by
  have h := committed_setEntry s i (some { e with
    issued := e.issued + n, pieces := e.pieces ++ [{ offset := e.start + e.issued, length := n, state := .queued }] })
  rw [he] at h
  simp only [entryUnits, List.map_append, List.map_cons, List.map_nil, List.sum_append, List.sum_cons, List.sum_nil] at h
  unfold State.createPiece
  rw [committed_modBranch]
  omega

theorem createPiece_entry (s : State) (i j : Fin 16) (e : SplitEntry) (n : Nat) (he : s.entry i = some e) :
    ((s.createPiece i e n).entry j).map SplitEntry.ungranted = (s.entry j).map SplitEntry.ungranted := by
  unfold State.createPiece
  rw [entry_modBranch]
  by_cases h : j = i
  · subst h; rw [entry_setEntry_same, he]; rfl
  · rw [entry_setEntry_ne _ _ _ _ h]

theorem createPiece_branch (s : State) (i : Fin 16) (e : SplitEntry) (n : Nat) (b : Fin 4) :
    ((s.createPiece i e n).branch b).ungranted = (s.branch b).ungranted := by
  unfold State.createPiece
  by_cases h : b = e.route.branch
  · subst h; rw [branch_modBranch_same]; rfl
  · rw [branch_modBranch_ne _ _ _ _ h, branch_setEntry]

/-- A relation between the state before and after a grant pass, which every piece created keeps. -/
structure Granted (s t : State) : Prop where
  entries : ∀ j, (t.entry j).map SplitEntry.ungranted = (s.entry j).map SplitEntry.ungranted
  branches : ∀ b, (t.branch b).ungranted = (s.branch b).ungranted
  queues : ∀ b, ∃ more, (t.branch b).queue = (s.branch b).queue ++ more ∧
    (∀ o ∈ more, ∃ i e n first, o.body = .readPiece i n first ∧ s.entry i = some e ∧ e.state = .gathering) ∧
    ((t.branch b).queue.length ≤ 16 ∨ more = [])
  units : t.committed ≤ max s.committed s.commitLimit
  rest : { t with split := s.split, branches := s.branches } = s

theorem Granted.refl (s : State) : Granted s s where
  entries _ := rfl
  branches _ := rfl
  queues _ := ⟨[], (List.append_nil _).symm, by simp, .inr rfl⟩
  units := Nat.le_max_left _ _
  rest := rfl

theorem gathering_of_ungranted {x y : Option SplitEntry} (h : x.map SplitEntry.ungranted = y.map SplitEntry.ungranted)
    {e : SplitEntry} (he : x = some e) (hs : e.state = .gathering) : ∃ e', y = some e' ∧ e'.state = .gathering := by
  subst he
  cases y with
  | none => simp at h
  | some e' =>
    refine ⟨e', rfl, ?_⟩
    have h' := congrArg SplitEntry.state (Option.some.inj h)
    exact h'.symm.trans hs

theorem Granted.trans {s t u : State} (h : Granted s t) (k : Granted t u) : Granted s u where
  entries j := (k.entries j).trans (h.entries j)
  branches b := (k.branches b).trans (h.branches b)
  queues b := by
    obtain ⟨m, hm, hp, hl⟩ := h.queues b
    obtain ⟨n, kn, kp, kl⟩ := k.queues b
    refine ⟨m ++ n, by rw [kn, hm, List.append_assoc], ?_, ?_⟩
    · intro o ho
      rcases List.mem_append.1 ho with ho | ho
      · exact hp o ho
      · obtain ⟨i, e, q, first, hb, he, hs⟩ := kp o ho
        obtain ⟨e', he', hs'⟩ := gathering_of_ungranted (h.entries i) he hs
        exact ⟨i, e', q, first, hb, he', hs'⟩
    · rcases kl with kl | kl
      · exact .inl kl
      · subst kl
        rw [List.append_nil] at kn
        rcases hl with hl | hl
        · exact .inl (by rw [kn]; exact hl)
        · exact .inr (by rw [hl]; rfl)
  units := by
    have h1 : t.commitLimit = s.commitLimit := (congrArg State.commitLimit h.rest :)
    have h2 := k.units
    have h3 := h.units
    rw [h1] at h2
    omega
  rest := (congrArg (fun x : State => { x with split := s.split, branches := s.branches }) k.rest).trans h.rest

theorem createPiece_granted (s : State) (i : Fin 16) (e : SplitEntry) (n : Nat) (he : s.entry i = some e)
    (hs : e.state = .gathering) (hq : (s.branch e.route.branch).queue.length < 16)
    (hc : s.committed + Machine.units n ≤ s.commitLimit) : Granted s (s.createPiece i e n) where
  entries j := createPiece_entry s i j e n he
  branches b := createPiece_branch s i e n b
  queues b := by
    by_cases h : b = e.route.branch
    · subst h
      have hb : ((s.createPiece i e n).branch e.route.branch).queue =
          (s.branch e.route.branch).queue ++ [pieceOperation i e n] := by
        unfold State.createPiece
        rw [branch_modBranch_same]
        rfl
      refine ⟨[pieceOperation i e n], hb, ?_, .inl ?_⟩
      · intro o ho
        rw [List.mem_singleton] at ho
        subst ho
        exact ⟨i, e, n, _, rfl, he, hs⟩
      · rw [hb, List.length_append, List.length_singleton]
        omega
    · refine ⟨[], ?_, by simp, .inr rfl⟩
      unfold State.createPiece
      rw [branch_modBranch_ne _ _ _ _ h, branch_setEntry, List.append_nil]
  units := by
    rw [createPiece_committed s i e n he]
    omega
  rest := rfl

theorem grantEntry_granted (i : Fin 16) (fuel : Nat) (s : State) : Granted s (s.grantEntry i fuel).1 := by
  induction fuel generalizing s with
  | zero => exact Granted.refl s
  | succ n ih =>
    unfold State.grantEntry
    split
    · exact Granted.refl s
    · rename_i e he
      split
      · exact Granted.refl s
      · rename_i hg
        split
        · exact Granted.refl s
        · rename_i hq
          dsimp only
          split
          · exact Granted.refl s
          · rename_i hc
            have hs : e.state = .gathering := by
              by_contra hne
              exact hg (.inl hne)
            have hq' : (s.branch e.route.branch).queue.length < 16 := Nat.lt_of_not_le hq
            exact (createPiece_granted s i e _ he hs hq' (Nat.le_of_not_lt hc)).trans (ih _)

theorem grantOver_granted (places : List (Fin 16)) (s : State) : Granted s (s.grantOver places) := by
  induction places generalizing s with
  | nil => exact Granted.refl s
  | cons i rest ih =>
    have h := grantEntry_granted i (uncreatedOf (s.entry i)) s
    unfold State.grantOver
    split
    · rename_i s' heq
      rw [heq] at h
      exact h.trans (ih s')
    · rename_i s' heq
      rw [heq] at h
      exact h

/-- Everything a grant pass can do (R47, R48, R49). -/
theorem grantPass_granted (s : State) : Granted s s.grantPass := grantOver_granted s.ageOrder s

end Sys2Proof.Machine
end

