-- ==== Sys2Proof/Laws/Slots.lean ====
section
/-! SUPPORT. The judgement of the Release Queue's head, and a freed slot of an Issue Queue: everything that they can do, and that
every run of judgements ends. -/

namespace Sys2Proof.Machine

/-! ## Frames -/

theorem withSettle_trans {s t u : State} (h : u.withSettle t = t) (h' : t.withSettle s = s) : u.withSettle s = s :=
  (congrArg (fun x : State => x.withSettle s) h).trans h'

theorem withSettle_of_split {s t : State} (h : { t with split := s.split, branches := s.branches } = s) :
    t.withSettle s = s := lift (fun x : State => x.withSettle s) h rfl rfl

theorem withSettle_of_pick {α : Type} {s t : State} {xs : List α} {x : α} (h : s.pick xs = some (x, t)) :
    t.withSettle s = s := lift (fun x : State => x.withSettle s) (pick_only s xs x t h) rfl rfl

/-! ## Operations join queues -/

/-- A bound on the judgements that one entry of the Release Queue can still meet: it begins to wait once and leaves once. -/
def ReleaseEntry.rank (e : ReleaseEntry) : Nat := if e.waiting then 1 else 2

/-- A bound on the judgements that the Release Queue can still meet. -/
def State.releaseRank (s : State) : Nat := (s.releaseQueue.map ReleaseEntry.rank).sum

theorem releaseRank_le (s : State) : s.releaseRank ≤ 2 * s.releaseQueue.length := by
  unfold State.releaseRank
  induction s.releaseQueue with
  | nil => exact Nat.le_refl _
  | cons x xs ih =>
    have : x.rank ≤ 2 := by unfold ReleaseEntry.rank; split <;> omega
    simp only [List.map_cons, List.sum_cons, List.length_cons]
    omega

/-- Everything that the takers of slots can do (R48, R72, R135): pieces of GATHERING entries and writes join the tails of Issue
Queues, none beyond 16; records join the tail of the Response Queue, not beyond 16; entries leave the Release Queue or begin to
wait there; frames leave the intake buffer from its head. -/
structure Freed (s t : State) : Prop where
  only : t.withSettle s = s
  entries : ∀ j, (t.entry j).map SplitEntry.ungranted = (s.entry j).map SplitEntry.ungranted
  branches : ∀ b, (t.branch b).ungranted = (s.branch b).ungranted
  queues : ∀ b, ∃ more, (t.branch b).queue = (s.branch b).queue ++ more ∧
    (∀ o ∈ more, o.isRead = true → ∃ i e n first, o.body = .readPiece i n first ∧ s.entry i = some e ∧ e.state = .gathering) ∧
    ((t.branch b).queue.length ≤ 16 ∨ more = [])
  records : ∃ more, t.responseQueue = s.responseQueue ++ more ∧ (t.responseQueue.length ≤ 16 ∨ more = [])
  releases : t.releaseRank ≤ s.releaseRank
  frames : t.intake <:+ s.intake

theorem Freed.refl (s : State) : Freed s s where
  only := rfl
  entries _ := rfl
  branches _ := rfl
  queues _ := ⟨[], (List.append_nil _).symm, by simp, .inr rfl⟩
  records := ⟨[], (List.append_nil _).symm, .inr rfl⟩
  releases := Nat.le_refl _
  frames := List.suffix_refl _

theorem Freed.trans {s t u : State} (h : Freed s t) (k : Freed t u) : Freed s u where
  only := withSettle_trans k.only h.only
  entries j := (k.entries j).trans (h.entries j)
  branches b := (k.branches b).trans (h.branches b)
  queues b := by
    obtain ⟨m, hm, hp, hl⟩ := h.queues b
    obtain ⟨n, kn, kp, kl⟩ := k.queues b
    refine ⟨m ++ n, by rw [kn, hm, List.append_assoc], fun o ho hr => ?_, ?_⟩
    · rcases List.mem_append.1 ho with ho | ho
      · exact hp o ho hr
      · obtain ⟨i, e, q, first, hb, he, hs⟩ := kp o ho hr
        obtain ⟨e', he', hs'⟩ := gathering_of_ungranted (h.entries i) he hs
        exact ⟨i, e', q, first, hb, he', hs'⟩
    · rcases kl with kl | rfl
      · exact .inl kl
      · rw [kn, List.append_nil, List.append_nil]
        exact hl
  records := by
    obtain ⟨m, hm, hl⟩ := h.records
    obtain ⟨n, kn, kl⟩ := k.records
    refine ⟨m ++ n, by rw [kn, hm, List.append_assoc], ?_⟩
    rcases kl with kl | rfl
    · exact .inl kl
    · rw [kn, List.append_nil, List.append_nil]
      exact hl
  releases := Nat.le_trans k.releases h.releases
  frames := k.frames.trans h.frames

theorem Granted.freed {s t : State} (h : Granted s t) : Freed s t where
  only := withSettle_of_split h.rest
  entries := h.entries
  branches := h.branches
  queues b := by
    obtain ⟨m, hm, hp, hl⟩ := h.queues b
    exact ⟨m, hm, fun o ho _ => hp o ho, hl⟩
  records := ⟨[], by rw [List.append_nil]; exact (congrArg State.responseQueue h.rest :), .inr rfl⟩
  releases := Nat.le_of_eq (congrArg State.releaseRank h.rest :)
  frames := by rw [show t.intake = s.intake from (congrArg State.intake h.rest :)]

theorem freed_of_pick {α : Type} {s t : State} {xs : List α} {x : α} (h : s.pick xs = some (x, t)) : Freed s t := by
  have he : { t with freeCount := s.freeCount } = s := pick_only s xs x t h
  rw [← he]
  exact {
    only := rfl, entries := fun _ => rfl, branches := fun _ => rfl
    queues := fun _ => ⟨[], (List.append_nil _).symm, by simp, .inr rfl⟩
    records := ⟨[], (List.append_nil _).symm, .inr rfl⟩
    releases := Nat.le_refl _, frames := List.suffix_refl _ }

/-- A write joins the tail of an Issue Queue that has room, and the rest of the change is within bounds. -/
theorem freed_of_write {s u : State} (b : Fin 4) (o : Operation) (ho : o.isRead = false)
    (hl : (s.branch b).queue.length < 16) (hu : { u with releaseQueue := s.releaseQueue, intake := s.intake } = s)
    (hr : u.releaseRank ≤ s.releaseRank) (hf : u.intake <:+ s.intake) :
    Freed s (u.modBranch b fun br => { br with queue := br.queue ++ [o] }) where
  only := lift (fun x : State => (x.modBranch b fun br => { br with queue := br.queue ++ [o] }).withSettle s) hu rfl rfl
  entries j := (congrArg (fun x : State => (x.entry j).map SplitEntry.ungranted) hu :)
  branches c := by
    have hb : u.branch c = s.branch c := (congrArg (fun x : State => x.branch c) hu :)
    by_cases h : c = b
    · subst h; rw [branch_modBranch_same, hb]; rfl
    · rw [branch_modBranch_ne _ _ _ _ h, hb]
  queues c := by
    have hb : u.branch c = s.branch c := (congrArg (fun x : State => x.branch c) hu :)
    by_cases h : c = b
    · subst h
      rw [branch_modBranch_same, hb]
      refine ⟨[o], rfl, fun x hx hr => ?_, .inl ?_⟩
      · rw [List.mem_singleton.1 hx, ho] at hr; cases hr
      · dsimp only; rw [List.length_append, List.length_singleton]; omega
    · rw [branch_modBranch_ne _ _ _ _ h, hb]
      exact ⟨[], (List.append_nil _).symm, by simp, .inr rfl⟩
  records := ⟨[], by rw [List.append_nil]; exact (congrArg State.responseQueue hu :), .inr rfl⟩
  releases := hr
  frames := hf

/-! ## The judgement of the head -/

/-- What a judgement of the head e can leave (R135): either e has left the Release Queue, or it begins to wait there. -/
structure Judged (s t : State) (e : ReleaseEntry) (rest : List ReleaseEntry) : Prop where
  freed : Freed s t
  head : t.releaseQueue = rest ∨ (e.waiting = false ∧ t.releaseQueue = { e with waiting := true } :: rest)

theorem rank_pos (e : ReleaseEntry) : 1 ≤ e.rank := by unfold ReleaseEntry.rank; split <;> omega

theorem releaseRank_tail {s t : State} {e : ReleaseEntry} {rest : List ReleaseEntry} (hq : s.releaseQueue = e :: rest)
    (ht : t.releaseQueue = rest) : t.releaseRank < s.releaseRank := by
  unfold State.releaseRank
  rw [hq, ht, List.map_cons, List.sum_cons]
  have := rank_pos e
  omega

theorem releaseRank_waits {s t : State} {e : ReleaseEntry} {rest : List ReleaseEntry} (hq : s.releaseQueue = e :: rest)
    (hw : e.waiting = false) (ht : t.releaseQueue = { e with waiting := true } :: rest) :
    t.releaseRank < s.releaseRank := by
  unfold State.releaseRank
  rw [hq, ht, List.map_cons, List.sum_cons, List.map_cons, List.sum_cons]
  have h1 : e.rank = 2 := by unfold ReleaseEntry.rank; simp [hw]
  have h2 : ({ e with waiting := true } : ReleaseEntry).rank = 1 := rfl
  omega

/-- A judgement that touches no Issue Queue and no entry. -/
theorem judged_of_only {s t : State} {e : ReleaseEntry} {rest : List ReleaseEntry} (hq : s.releaseQueue = e :: rest)
    (h : { t with
      releaseQueue := s.releaseQueue, responseQueue := s.responseQueue, groups := s.groups, lines := s.lines,
      flags := s.flags, noticeArm := s.noticeArm, noticePending := s.noticePending } = s)
    (hr : ∃ more, t.responseQueue = s.responseQueue ++ more ∧ (t.responseQueue.length ≤ 16 ∨ more = []))
    (hh : t.releaseQueue = rest ∨ (e.waiting = false ∧ t.releaseQueue = { e with waiting := true } :: rest)) :
    Judged s t e rest where
  freed := {
    only := lift (fun x : State => x.withSettle s) h rfl rfl
    entries := fun j => (congrArg (fun x : State => (x.entry j).map SplitEntry.ungranted) h :)
    branches := fun b => (congrArg (fun x : State => (x.branch b).ungranted) h :)
    queues := fun b => ⟨[], by rw [List.append_nil]; exact (congrArg (fun x : State => (x.branch b).queue) h :), by simp, .inr rfl⟩
    records := hr
    releases := Nat.le_of_lt (hh.elim (releaseRank_tail hq) fun x => releaseRank_waits hq x.1 x.2)
    frames := by rw [show t.intake = s.intake from (congrArg State.intake h :)] }
  head := hh

theorem headWaits_judged {s t : State} {e : ReleaseEntry} {rest : List ReleaseEntry} (hq : s.releaseQueue = e :: rest)
    (h : s.headWaits e rest = some t) : Judged s t e rest := by
  unfold State.headWaits at h
  split at h
  · cases h
  · rename_i hw
    cases h
    have ho := setFlag_only ({ s with releaseQueue := { e with waiting := true } :: rest } : State) .releaseSlip
    refine judged_of_only hq ?_ ⟨[], ?_, .inr rfl⟩ (.inr ⟨by simpa using hw, (congrArg State.releaseQueue ho :)⟩)
    · exact lift (fun x : State => { x with
        releaseQueue := s.releaseQueue, responseQueue := s.responseQueue, groups := s.groups, lines := s.lines }) ho rfl rfl
    · rw [List.append_nil]; exact (congrArg State.responseQueue ho :)

/-- The head e ends with one record, and what follows in the Group Unit. -/
theorem recorded_judged {s t : State} {e : ReleaseEntry} {rest : List ReleaseEntry} {r : Record}
    (hq : s.releaseQueue = e :: rest) (hr : s.recordRoom = true)
    (h : t.withGroups (({ s with releaseQueue := rest } : State).pushRecord r) =
      ({ s with releaseQueue := rest } : State).pushRecord r) : Judged s t e rest := by
  have hl := (recordRoom_iff s).1 hr
  have ht : t.responseQueue = s.responseQueue ++ [r] := (congrArg State.responseQueue h :)
  refine judged_of_only hq ?_ ⟨[r], ht, .inl ?_⟩ (.inl (congrArg State.releaseQueue h :))
  · exact lift (fun x : State => { x with releaseQueue := s.releaseQueue, responseQueue := s.responseQueue }) h rfl rfl
  · rw [ht, List.length_append, List.length_singleton]; omega

theorem judgeWrite_judged {s t : State} {e : ReleaseEntry} {rest : List ReleaseEntry} {member : Option (Fin 7 × Byte)}
    {route : Route} {offset : Nat} {data : List Byte} (hq : s.releaseQueue = e :: rest)
    (h : s.judgeWrite e rest member route offset data = some t) : Judged s t e rest := by
  unfold State.judgeWrite at h
  split at h
  · split at h
    · rename_i hl
      cases h
      exact {
        freed := freed_of_write route.branch _ rfl hl rfl
          (Nat.le_of_lt (releaseRank_tail (t := { s with releaseQueue := rest }) hq rfl)) (List.suffix_refl _)
        head := .inl rfl }
    · exact headWaits_judged hq h
  · split at h
    · rename_i hr
      cases h
      exact recorded_judged hq hr (reportMember_only _ member false)
    · exact headWaits_judged hq h

theorem judgeLatch_judged {s t : State} {e : ReleaseEntry} {rest : List ReleaseEntry} {lines : BitVec 4}
    {action : LatchAction} {pw : BitVec 16} (hq : s.releaseQueue = e :: rest)
    (h : s.judgeLatch e rest lines action pw = some t) : Judged s t e rest := by
  unfold State.judgeLatch at h
  split at h
  · rename_i hr
    cases h
    exact recorded_judged hq hr rfl
  · exact headWaits_judged hq h

/-- Everything a judgement of the Release Queue's head can do (R135 to R139, R142). -/
theorem judgeHead_judged {s t : State} (h : s.judgeHead = some t) :
    ∃ e rest, s.releaseQueue = e :: rest ∧ Judged s t e rest := by
  unfold State.judgeHead at h
  cases hq : s.releaseQueue with
  | nil => rw [hq] at h; cases h
  | cons e rest =>
    rw [hq] at h
    refine ⟨e, rest, rfl, ?_⟩
    dsimp only at h
    split at h
    · unfold State.abortHead at h
      split at h
      · rename_i hr
        cases h
        exact recorded_judged hq hr rfl
      · cases h
    · split at h
      · split at h
        · exact judgeWrite_judged hq h
        · exact judgeLatch_judged hq h
      · cases h

theorem judgeHead_freed {s t : State} (h : s.judgeHead = some t) : Freed s t := by
  obtain ⟨_, _, _, hj⟩ := judgeHead_judged h
  exact hj.freed

/-- Every judgement that changes something brings the Release Queue nearer to its end. -/
theorem judgeHead_rank {s t : State} (h : s.judgeHead = some t) : t.releaseRank < s.releaseRank := by
  obtain ⟨e, rest, hq, hj⟩ := judgeHead_judged h
  exact hj.head.elim (releaseRank_tail hq) fun x => releaseRank_waits hq x.1 x.2

/-! ## The run of heads (R135) -/

theorem judgeRun_freed (fuel : Nat) (s : State) : Freed s (s.judgeRun fuel) := by
  induction fuel generalizing s with
  | zero => exact Freed.refl s
  | succ n ih =>
    unfold State.judgeRun
    split
    · exact Freed.refl s
    · rename_i h; exact (judgeHead_freed h).trans (ih _)

/-- The run of heads ends: judging the head again changes nothing. -/
theorem judgeRun_done (fuel : Nat) (s : State) (h : s.releaseRank ≤ fuel) : (s.judgeRun fuel).judgeHead = none := by
  induction fuel generalizing s with
  | zero =>
    cases hj : s.judgeHead with
    | none => exact hj
    | some t => exact absurd (judgeHead_rank hj) (by omega)
  | succ n ih =>
    unfold State.judgeRun
    split
    · assumption
    · rename_i hj
      exact ih _ (by have := judgeHead_rank hj; omega)

theorem judgeRun_of_none {s : State} (h : s.judgeHead = none) (fuel : Nat) : s.judgeRun fuel = s := by
  cases fuel with
  | zero => rfl
  | succ n => unfold State.judgeRun; rw [h]

theorem judgeRun_of_some {s t : State} (h : s.judgeHead = some t) (fuel : Nat) : s.judgeRun (fuel + 1) = t.judgeRun fuel := by
  show (match s.judgeHead with
    | none => s
    | some s' => s'.judgeRun fuel) = _
  rw [h]

/-- Fuel beyond what the run needs makes no difference. -/
theorem judgeRun_enough (m n : Nat) (s : State) (hm : s.releaseRank ≤ m) (hn : s.releaseRank ≤ n) :
    s.judgeRun m = s.judgeRun n := by
  induction m generalizing s n with
  | zero =>
    have h : s.judgeHead = none := judgeRun_done 0 s hm
    rw [judgeRun_of_none h, judgeRun_of_none h]
  | succ m ih =>
    cases hj : s.judgeHead with
    | none => rw [judgeRun_of_none hj, judgeRun_of_none hj]
    | some t =>
      have hr := judgeHead_rank hj
      cases n with
      | zero => omega
      | succ n =>
        rw [judgeRun_of_some hj, judgeRun_of_some hj]
        exact ih n t (by omega) (by omega)

/-- Everything the run of heads can do. -/
theorem judge_freed (s : State) : Freed s s.judge := judgeRun_freed _ s

theorem judge_done (s : State) : s.judge.judgeHead = none := judgeRun_done _ s (releaseRank_le s)

theorem judge_of_none {s : State} (h : s.judgeHead = none) : s.judge = s := judgeRun_of_none h _

/-- The head is judged, and the run goes on from what becomes the head (R135). -/
theorem judge_of_some {s t : State} (h : s.judgeHead = some t) : s.judge = t.judge := by
  have hr := judgeHead_rank h
  unfold State.judge
  rw [judgeRun_enough _ (s.releaseRank + 1) s (releaseRank_le s) (by omega), judgeRun_of_some h]
  exact judgeRun_enough _ _ t (by omega) (releaseRank_le t)

/-! ## Freed slots -/

/-- The write at the head of the intake buffer joins its queue and leaves the buffer, and nothing else (R35, R72). -/
theorem intakeTakesSlot_write {s t : State} {b : Fin 4} (h : s.intakeTakesSlot b = some t) :
    ∃ f rest o, s.intake = f :: rest ∧ o.isRead = false ∧ (s.branch b).queue.length < 16 ∧
      t = ({ s with intake := rest } : State).modBranch b fun br => { br with queue := br.queue ++ [o] } := by
  have hw {rt : ReqTag} {body : OpBody} {ldn : Byte} {offset n : Nat} {u : State}
      (h : s.decideWrite rt body ldn offset n = .accept u) :
      ∃ r : Route, (s.branch r.branch).queue.length < 16 ∧
        u = s.modBranch r.branch fun br => { br with queue := br.queue ++ [writeOperation body r offset] } := by
    unfold State.decideWrite at h
    split at h
    · cases h
    · split at h
      · cases h
      · rename_i r _ hl
        cases h
        exact ⟨r, Nat.lt_of_not_le hl, rfl⟩
  have hg {rest : List Frame} {f : Frame} {body : OpBody} {r : Route} {offset : Nat} (hb : (writeOperation body r offset).isRead = false)
      (hi : s.intake = f :: rest) (hl : (s.branch r.branch).queue.length < 16)
      (hq : (s.branch b).queue.length < ((s.modBranch r.branch fun br =>
        { br with queue := br.queue ++ [writeOperation body r offset] }).branch b).queue.length) :
      ∃ f rest' o, s.intake = f :: rest' ∧ o.isRead = false ∧ (s.branch b).queue.length < 16 ∧
        ({ s.modBranch r.branch (fun br => { br with queue := br.queue ++ [writeOperation body r offset] }) with
          intake := rest } : State) =
        ({ s with intake := rest' } : State).modBranch b fun br => { br with queue := br.queue ++ [o] } := by
    by_cases hc : b = r.branch
    · subst hc; exact ⟨f, rest, _, hi, hb, hl, rfl⟩
    · rw [branch_modBranch_ne _ _ _ _ hc] at hq
      exact absurd hq (Nat.lt_irrefl _)
  unfold State.intakeTakesSlot at h
  split at h
  · cases h
  · rename_i f rest hi
    split at h
    · dsimp only at h
      split at h
      · rename_i u hd
        split at h
        · rename_i hq
          cases h
          split at hd
          · obtain ⟨r, hl, rfl⟩ := hw hd
            exact hg rfl hi hl hq
          · unfold State.decideConfirmed at hd
            split at hd
            · cases hd
            · obtain ⟨r, hl, rfl⟩ := hw hd
              exact hg rfl hi hl hq
          · cases hd
        · cases h
      · cases h
    · cases h

theorem intakeTakesSlot_freed {s t : State} {b : Fin 4} (h : s.intakeTakesSlot b = some t) : Freed s t := by
  obtain ⟨f, rest, o, hi, ho, hl, rfl⟩ := intakeTakesSlot_write h
  exact freed_of_write b o ho hl rfl (Nat.le_refl _) ⟨[f], hi.symm⟩

theorem headTakesSlot_freed {s t : State} (h : s.headTakesSlot = some t) : Freed s t := by
  unfold State.headTakesSlot at h
  split at h
  · exact judgeHead_freed h
  · cases h

/-- The turn that a choice among the takers gives. -/
theorem slotFreedIn_turn (s : State) (b : Fin 4) (fuel : Nat) : ∃ x s', s.pick (s.slotTakers b) = some (x, s') ∧
    (s.slotFreedIn b (fuel + 1) = s'.grantPass ∨
      (∃ t, s'.headTakesSlot = some t ∧ s.slotFreedIn b (fuel + 1) = t.judge.slotFreedIn b fuel) ∨
      (Taker.intake ∈ s.slotTakers b ∧ ∃ t, s'.intakeTakesSlot b = some t ∧ s.slotFreedIn b (fuel + 1) = t.slotFreedIn b fuel)) := by
  have hd : ∃ y, s.pick (s.slotTakers b) = some y := by
    unfold State.slotTakers State.pick
    split
    · rename_i h; cases h
    · exact ⟨_, rfl⟩
    · exact ⟨_, rfl⟩
  obtain ⟨⟨x, s'⟩, hp⟩ := hd
  refine ⟨x, s', hp, ?_⟩
  cases x with
  | grantPass => exact .inl (by simp only [State.slotFreedIn, hp])
  | head =>
    cases ht : s'.headTakesSlot with
    | none => exact .inl (by simp only [State.slotFreedIn, hp, ht])
    | some t => exact .inr (.inl ⟨t, rfl, by simp only [State.slotFreedIn, hp, ht]⟩)
  | intake =>
    cases ht : s'.intakeTakesSlot b with
    | none => exact .inl (by simp only [State.slotFreedIn, hp, ht])
    | some t => exact .inr (.inr ⟨pick_mem s _ _ _ hp, t, rfl, by simp only [State.slotFreedIn, hp, ht]⟩)

theorem slotFreedIn_freed (b : Fin 4) (fuel : Nat) (s : State) : Freed s (s.slotFreedIn b fuel) := by
  induction fuel generalizing s with
  | zero => exact (grantPass_granted s).freed
  | succ n ih =>
    obtain ⟨x, s', hp, h | ⟨t, ht, h⟩ | ⟨_, t, ht, h⟩⟩ := slotFreedIn_turn s b n
    · rw [h]; exact (freed_of_pick hp).trans (grantPass_granted s').freed
    · rw [h]; exact (freed_of_pick hp).trans ((headTakesSlot_freed ht).trans ((judge_freed t).trans (ih _)))
    · rw [h]; exact (freed_of_pick hp).trans ((intakeTakesSlot_freed ht).trans (ih _))

/-- Everything that a freed slot lets its takers do (R48, R72, R135, R137). -/
theorem slotFreed_freed (s : State) (b : Fin 4) : Freed s (s.slotFreed b) := slotFreedIn_freed b _ s

theorem slotFreed_only (s : State) (b : Fin 4) : (s.slotFreed b).withSettle s = s := (slotFreed_freed s b).only

/-- A bound on the turns that come before the grant pass. -/
def State.slotRank (s : State) : Nat := s.releaseRank + s.intake.length

theorem slotRank_of_pick {α : Type} {s t : State} {xs : List α} {x : α} (h : s.pick xs = some (x, t)) :
    t.slotRank = s.slotRank := (congrArg State.slotRank (pick_only s xs x t h) :)

theorem headTakesSlot_rank {s t : State} (h : s.headTakesSlot = some t) : t.judge.slotRank < s.slotRank := by
  have hj : s.judgeHead = some t := by
    unfold State.headTakesSlot at h
    split at h
    · exact h
    · cases h
  have h1 := judgeHead_rank hj
  have h2 := (judge_freed t).releases
  have h3 := ((judgeHead_freed hj).trans (judge_freed t)).frames.length_le
  unfold State.slotRank
  omega

theorem intakeTakesSlot_rank {s t : State} {b : Fin 4} (h : s.intakeTakesSlot b = some t) : t.slotRank < s.slotRank := by
  obtain ⟨f, rest, o, hi, _, _, rfl⟩ := intakeTakesSlot_write h
  show s.releaseRank + rest.length < s.releaseRank + s.intake.length
  rw [hi, List.length_cons]
  omega

theorem slotTakers_of_rank {s : State} (b : Fin 4) (h : s.slotRank = 0) : s.slotTakers b = [.grantPass] := by
  unfold State.slotRank State.releaseRank at h
  have hi : s.intake = [] := List.length_eq_zero_iff.1 (by omega)
  have hq : s.releaseQueue = [] := by
    cases hq : s.releaseQueue with
    | nil => rfl
    | cons e rest =>
      rw [hq, List.map_cons, List.sum_cons] at h
      have := rank_pos e
      omega
  have h1 : s.headTakesSlot = none := by simp [State.headTakesSlot, State.headRow, hq]
  have h2 : s.intakeTakesSlot b = none := by unfold State.intakeTakesSlot; rw [hi]
  unfold State.slotTakers
  rw [h1, h2]
  rfl

theorem slotFreedIn_of_grantPass {s : State} {b : Fin 4} (h : s.slotTakers b = [.grantPass]) (fuel : Nat) :
    s.slotFreedIn b fuel = s.grantPass := by
  cases fuel with
  | zero => rfl
  | succ n => unfold State.slotFreedIn; rw [h]; rfl

/-- Fuel beyond what the turns need makes no difference. -/
theorem slotFreedIn_enough (b : Fin 4) (m n : Nat) (s : State) (hm : s.slotRank ≤ m) (hn : s.slotRank ≤ n) :
    s.slotFreedIn b m = s.slotFreedIn b n := by
  induction m generalizing s n with
  | zero =>
    have h := slotTakers_of_rank b (Nat.le_zero.1 hm)
    rw [slotFreedIn_of_grantPass h, slotFreedIn_of_grantPass h]
  | succ m ih =>
    cases n with
    | zero =>
      have h := slotTakers_of_rank b (Nat.le_zero.1 hn)
      rw [slotFreedIn_of_grantPass h, slotFreedIn_of_grantPass h]
    | succ n =>
      unfold State.slotFreedIn
      split
      · rename_i s' hp
        split
        · rfl
        · rename_i t ht
          have := headTakesSlot_rank ht
          have := slotRank_of_pick hp
          exact ih n _ (by omega) (by omega)
      · rename_i s' hp
        split
        · rfl
        · rename_i t ht
          have := intakeTakesSlot_rank ht
          have := slotRank_of_pick hp
          exact ih n _ (by omega) (by omega)
      · rfl
      · rfl

theorem slotRank_le (s : State) : s.slotRank ≤ 2 * s.releaseQueue.length + s.intake.length :=
  Nat.add_le_add_right (releaseRank_le s) _

/-- A freed slot: the grant pass goes first, or the waiting head or Intake takes a slot, and the slots that are left are open as
before (R72, R137). -/
theorem slotFreed_turn (s : State) (b : Fin 4) : ∃ x s', s.pick (s.slotTakers b) = some (x, s') ∧
    (s.slotFreed b = s'.grantPass ∨
      (∃ t, s'.headTakesSlot = some t ∧ s.slotFreed b = t.judge.slotFreed b) ∨
      (Taker.intake ∈ s.slotTakers b ∧ ∃ t, s'.intakeTakesSlot b = some t ∧ s.slotFreed b = t.slotFreed b)) := by
  obtain ⟨x, s', hp, h⟩ := slotFreedIn_turn s b s.slotRank
  have hs : s.slotFreed b = s.slotFreedIn b (s.slotRank + 1) := slotFreedIn_enough b _ _ s (slotRank_le s) (by omega)
  have hr := slotRank_of_pick hp
  refine ⟨x, s', hp, ?_⟩
  rw [hs]
  rcases h with h | ⟨t, ht, h⟩ | ⟨hm, t, ht, h⟩
  · exact .inl h
  · refine .inr (.inl ⟨t, ht, h.trans ?_⟩)
    have := headTakesSlot_rank ht
    exact slotFreedIn_enough b _ _ _ (by omega) (slotRank_le _)
  · refine .inr (.inr ⟨hm, t, ht, h.trans ?_⟩)
    have := intakeTakesSlot_rank ht
    exact slotFreedIn_enough b _ _ _ (by omega) (slotRank_le _)

/-- No waiting head fits its queue, and Intake has no write that enters it: the slot is the grant pass's (R48). -/
theorem slotFreed_of_grantPass (s : State) (b : Fin 4) (h : s.slotTakers b = [.grantPass]) :
    s.slotFreed b = s.grantPass := slotFreedIn_of_grantPass h _

end Sys2Proof.Machine
end

