-- ==== Sys2Proof/Laws/Runs.lean ====
section
/-! SUPPORT. Everything that the end of a run, an abandon, an engine's take and an insertion into the Release Queue can change. -/

namespace Sys2Proof.Machine

/-! ## Runs -/

theorem withRun_trans {s t u : State} (h : u.withRun t = t) (h' : t.withRun s = s) : u.withRun s = s :=
  (congrArg (fun x : State => x.withRun s) h).trans h'

theorem withRun_of_polls {s t : State} (h : t.withPolls s = s) : t.withRun s = s :=
  lift (fun x : State => x.withRun s) h rfl rfl

theorem withRun_of_groups {s t : State} (h : t.withGroups s = s) : t.withRun s = s :=
  lift (fun x : State => x.withRun s) h rfl rfl

theorem withRun_of_flags {s t : State}
    (h : { t with flags := s.flags, noticeArm := s.noticeArm, noticePending := s.noticePending } = s) :
    t.withRun s = s := lift (fun x : State => x.withRun s) h rfl rfl

theorem withRun_of_settle {s t : State} (h : t.withSettle s = s) : t.withRun s = s :=
  lift (fun x : State => x.withRun s) h rfl rfl

theorem closeShort_only (s : State) (i : Fin 16) (e : SplitEntry) (offset : Nat) :
    { s.closeShort i e offset with split := s.split, branches := s.branches } = s := rfl

theorem settlePiece_only (s : State) (i : Fin 16) (e : SplitEntry) (o : Operation) (n : Nat) (first : Bool)
    (status : Status) :
    { s.settlePiece i e o n first status with split := s.split, branches := s.branches } = s := by
  unfold State.settlePiece
  repeat' split
  all_goals first
    | rfl
    | exact lift (fun t : State => { t with split := s.split, branches := s.branches }) (endEntry_only _ i _ _) rfl rfl

theorem pieceEnd_only (s : State) (i : Fin 16) (o : Operation) (n : Nat) (first : Bool) (status : Status) :
    (s.pieceEnd i o n first status).withRun s = s := by
  unfold State.pieceEnd
  split
  · rfl
  · refine withRun_trans (withRun_of_polls (freeIfDone_only _ i)) ?_
    refine withRun_trans (withRun_of_settle (slotFreed_only _ _)) ?_
    exact withRun_of_settle (withSettle_of_split (settlePiece_only s i _ o n first status))

/-! ## The engines take operations -/

theorem takeOp_only (s : State) (b : Fin 4) (o : Operation) (rest : List Operation) :
    { s.takeOp b o rest with split := s.split, branches := s.branches } = s := by
  unfold State.takeOp
  dsimp only
  split <;> rfl

theorem takeNext_only (s : State) (b : Fin 4) : (s.takeNext b).withSettle s = s := by
  unfold State.takeNext
  split
  · rfl
  · exact withSettle_trans (slotFreed_only _ _) (withSettle_of_split (takeOp_only s b _ _))

theorem handOn_only (s : State) (b : Fin 4) (o : Operation) (status : Status) (n : Nat) :
    (s.handOn b o status n).withRun s = s := by
  have ha (r : Record) : (s.addAnswer b r).withRun s = s := lift (fun x : State => x.withRun s) (addAnswer_only s b r) rfl rfl
  unfold State.handOn
  split
  · exact pieceEnd_only s _ o _ _ status
  · split
    · rfl
    · exact lift (fun x : State => x.withRun s) (recordFault_only s b o status) rfl rfl
  · exact ha _
  · dsimp only
    split
    · exact ha _
    · exact withRun_trans (withRun_of_groups (reportMember_only _ _ _)) (ha _)

theorem endRun_only (s : State) (b : Fin 4) (status : Status) (stuck : Bool) : (s.endRun b status stuck).withRun s = s := by
  unfold State.endRun
  split
  · rfl
  · rename_i o _
    dsimp only
    have h1 : ((s.modBranch b Branch.dropOp).handOn b o status (s.branch b).progress.dataDone).withRun s = s :=
      withRun_trans (handOn_only _ b o status _) rfl
    refine withRun_trans (withRun_of_polls (withPolls_of_room (roomFreed_only _))) ?_
    exact withRun_trans rfl h1

theorem tellEnd_only (s : State) (b : Fin 4) (cause : EndCause) : (s.tellEnd b cause).withRun s = s := by
  unfold State.tellEnd
  dsimp only
  split
  · rfl
  · split
    · exact endRun_only s b _ _
    · exact withRun_trans (withRun_of_polls (withPolls_of_room (roomFreed_only _))) rfl

theorem abandon_only (s : State) (i : Fin 16) (status : Status) : (s.abandon i status).withRun s = s := by
  unfold State.abandon
  split
  · rfl
  · rename_i e _
    refine withRun_trans (withRun_of_polls (withPolls_of_room (roomFreed_only _))) ?_
    refine withRun_trans (withRun_of_settle (slotFreed_only _ _)) ?_
    have h1 : (s.endEntry i .abandoned status).withRun s = s :=
      withRun_of_polls (withPolls_of_split (endEntry_only s i _ _))
    refine withRun_trans ?_ h1
    unfold State.tellUnwanted
    split
    · rfl
    · split
      · exact tellEnd_only _ _ _
      · rfl

theorem expire_only (s : State) (i : Fin 16) : (s.expire i).withRun s = s := by
  unfold State.expire
  split
  · rfl
  · split
    · split
      · exact withRun_trans (withRun_of_flags (setFlag_only _ .splitSlow)) rfl
      · exact withRun_trans (withRun_of_flags (setFlag_only _ .splitTimeout)) (abandon_only s i _)
    · rfl

theorem afterLoss_only (s : State) (b : Fin 4) (o : Operation) : (s.afterLoss b o).withRun s = s := by
  unfold State.afterLoss
  split
  · exact endRun_only s b _ _
  · exact withRun_trans (withRun_of_polls (withPolls_of_room (roomFreed_only _))) rfl

theorem loseArbitration_only (s : State) (b : Fin 4) : (s.loseArbitration b).withRun s = s := by
  unfold State.loseArbitration
  dsimp only
  repeat' split
  all_goals first
    | rfl
    | exact withRun_trans (endRun_only _ b _ _) rfl
    | exact withRun_trans (afterLoss_only _ b _) rfl

theorem ownStop_only (s : State) (b : Fin 4) : (s.ownStop b).withRun s = s := by
  unfold State.ownStop
  dsimp only
  repeat' split
  all_goals first
    | rfl
    | exact withRun_trans (endRun_only _ b _ _) rfl

theorem judgeClock_only (s : State) (b : Fin 4) : (s.judgeClock b).withRun s = s := by
  have h : (s.setFlag .branchStuck).withRun s = s := withRun_of_flags (setFlag_only s .branchStuck)
  unfold State.judgeClock
  dsimp only
  repeat' split
  all_goals first
    | rfl
    | exact h
    | exact withRun_trans rfl h
    | exact withRun_trans (endRun_only _ b _ _) h

theorem judgeBusy_only (s : State) (b : Fin 4) : (s.judgeBusy b).withRun s = s := by
  unfold State.judgeBusy
  split
  · exact withRun_trans (withRun_of_flags (setFlag_only _ .branchBlocked)) rfl
  · rfl

/-! ## The Release Queue -/

theorem markDue_only (s : State) :
    { s.markDue with
      releaseQueue := s.releaseQueue, opState := s.opState, wakeTimer := s.wakeTimer, flags := s.flags,
      noticeArm := s.noticeArm, noticePending := s.noticePending } = s := by
  unfold State.markDue
  dsimp only
  split
  · exact lift (fun t : State => { t with releaseQueue := s.releaseQueue }) (wakeUp_only _) rfl rfl
  · rfl

theorem markDue_awake (s : State) (h : s.opState ≠ .quiet) :
    s.markDue = { s with releaseQueue := s.releaseQueue.map (ReleaseEntry.markDue s.stamp) } := by
  unfold State.markDue
  dsimp only
  split
  · exact wakeUp_awake _ h
  · rfl

theorem insertRelease_length (c : Stamp) (e : ReleaseEntry) (q : List ReleaseEntry) :
    (insertRelease c e q).length = q.length + 1 := by
  induction q with
  | nil => rfl
  | cons x rest ih => unfold insertRelease; split <;> simp [ih]

theorem settleWaiting_length (q : List ReleaseEntry) : (settleWaiting q).length = q.length := by
  cases q <;> simp [settleWaiting]

theorem headWaits_only (s t : State) (e : ReleaseEntry) (rest : List ReleaseEntry) (h : s.headWaits e rest = some t) :
    { t with
      releaseQueue := s.releaseQueue, flags := s.flags, noticeArm := s.noticeArm, noticePending := s.noticePending } = s := by
  unfold State.headWaits at h
  split at h
  · cases h
  · cases h
    exact lift (fun t : State => { t with releaseQueue := s.releaseQueue }) (setFlag_only _ .releaseSlip) rfl rfl

end Sys2Proof.Machine
end

