-- ==== Sys2Proof/Laws/Settle.lean ====
section
/-! SUPPORT. The end of an event: everything that what follows at once can change, and that it leaves nothing which follows. -/

namespace Sys2Proof.Machine

/-! ## What can change -/

theorem postNext_only (s : State) (b : Fin 4) :
    { s.postNext b with branches := s.branches, responseQueue := s.responseQueue } = s := by
  unfold State.postNext
  split <;> rfl

theorem intakeStopped_of_settle {s t : State} (h : t.withSettle s = s) : t.intakeStopped = s.intakeStopped :=
  (congrArg State.intakeStopped h :)

theorem follow_only (s : State) (f : Follow) : (s.follow f).withSettle s = s := by
  cases f with
  | take b => exact takeNext_only s b
  | post b => exact lift (fun t : State => t.withSettle s) (postNext_only s b) rfl rfl
  | judge => exact (judge_freed s).only

theorem settleIn_only (fuel : Nat) (s : State) : (s.settleIn fuel).withSettle s = s := by
  induction fuel generalizing s with
  | zero => rfl
  | succ n ih =>
    unfold State.settleIn
    split
    · rfl
    · rename_i f s' heq
      exact withSettle_trans (ih _) (withSettle_trans (follow_only s' f) (withSettle_of_pick heq))

theorem settle_only (s : State) : s.settle.withSettle s = s := settleIn_only _ s

theorem beginFrame_only (s : State) :
    { s.beginFrame with
      responseQueue := s.responseQueue, noticePending := s.noticePending, sending := s.sending,
      lastServed := s.lastServed } = s := by
  unfold State.beginFrame
  repeat' split
  all_goals rfl

theorem withEnd_of_settle {s t : State} (h : t.withSettle s = s) : t.withEnd s = s :=
  lift (fun x : State => x.withEnd s) h rfl rfl

theorem withEnd_trans {s t u : State} (h : u.withEnd t = t) (h' : t.withEnd s = s) : u.withEnd s = s :=
  (congrArg (fun x : State => x.withEnd s) h).trans h'

theorem withEnd_of_quiesce (s : State) : s.quiesce.withEnd s = s :=
  lift (fun x : State => x.withEnd s) (quiesce_only s) rfl rfl

theorem withEnd_of_beginFrame (s : State) : s.beginFrame.withEnd s = s :=
  lift (fun x : State => x.withEnd s) (beginFrame_only s) rfl rfl

/-- Everything the end of an event can change (log 38). -/
theorem endEvent_only (s : State) : s.endEvent.withEnd s = s := by
  unfold State.endEvent
  refine withEnd_trans (withEnd_of_quiesce _) ?_
  refine withEnd_trans (withEnd_of_settle (settle_only _)) ?_
  exact withEnd_trans (withEnd_of_beginFrame _) (withEnd_of_settle (settle_only s))

/-! ## Records join the Response Queue's tail -/

theorem follow_records (s : State) (f : Follow) : ∃ more, (s.follow f).responseQueue = s.responseQueue ++ more := by
  cases f with
  | take b =>
    show ∃ more, (s.takeNext b).responseQueue = _
    unfold State.takeNext
    split
    · exact ⟨[], (List.append_nil _).symm⟩
    · rename_i o rest _
      obtain ⟨more, h, _⟩ := (slotFreed_freed (s.takeOp b o rest) b).records
      exact ⟨more, h.trans (congrArg (· ++ more) (congrArg State.responseQueue (takeOp_only s b o rest) :))⟩
  | post b =>
    unfold State.follow State.postNext
    dsimp only
    split
    · exact ⟨[], (List.append_nil _).symm⟩
    · exact ⟨_, rfl⟩
  | judge =>
    obtain ⟨more, h, _⟩ := (judge_freed s).records
    exact ⟨more, h⟩

theorem settleIn_records (fuel : Nat) (s : State) :
    ∃ more, (s.settleIn fuel).responseQueue = s.responseQueue ++ more := by
  induction fuel generalizing s with
  | zero => exact ⟨[], (List.append_nil _).symm⟩
  | succ n ih =>
    unfold State.settleIn
    split
    · exact ⟨[], (List.append_nil _).symm⟩
    · rename_i f s' heq
      obtain ⟨m, hm⟩ := follow_records s' f
      obtain ⟨k, hk⟩ := ih (s'.follow f)
      refine ⟨m ++ k, ?_⟩
      have hs : s'.responseQueue = s.responseQueue := (congrArg State.responseQueue (pick_only s _ _ _ heq) :)
      rw [hk, hm, hs, List.append_assoc]

/-- What follows at once adds records at the Response Queue's tail and takes none away. -/
theorem settle_records (s : State) : ∃ more, s.settle.responseQueue = s.responseQueue ++ more := settleIn_records _ s

/-! ## Nothing that follows is left -/

/-- A bound on the things that can still follow from one branch. -/
def Branch.rank (br : Branch) : Nat :=
  br.answers.length + (if br.phase = .idle ∨ br.phase = .posting then 1 else 0)

/-- A bound on the things that can still follow in a state. -/
def State.rank (s : State) : Nat :=
  (four.map fun b => (s.branch b).rank).sum + s.releaseRank

theorem rank_of_ungranted {x y : Branch} (h : x.ungranted = y.ungranted) : x.rank = y.rank := by
  have h1 : x.answers = y.answers := (congrArg Branch.answers h :)
  have h2 : x.phase = y.phase := (congrArg Branch.phase h :)
  unfold Branch.rank
  rw [h1, h2]

theorem sum_le_of_le {α : Type} (f g : α → Nat) (l : List α) (h : ∀ x ∈ l, f x ≤ g x) : (l.map f).sum ≤ (l.map g).sum := by
  induction l with
  | nil => exact Nat.le_refl _
  | cons x xs ih =>
    have h1 := h x List.mem_cons_self
    have h2 := ih fun y hy => h y (List.mem_cons_of_mem _ hy)
    simp only [List.map_cons, List.sum_cons]
    omega

theorem sum_four (f : Fin 4 → Nat) : (four.map f).sum = f 0 + (f 1 + (f 2 + (f 3 + 0))) := rfl

/-- One branch's bound has fallen and no other has risen: the sum has fallen. -/
theorem four_lt (f g : Fin 4 → Nat) (b : Fin 4) (hb : f b < g b) (h : ∀ c, c ≠ b → f c ≤ g c) :
    (four.map f).sum < (four.map g).sum := by
  rw [sum_four, sum_four]
  have hf : ∀ c, f c ≤ g c := fun c => by
    by_cases hc : c = b
    · subst hc; omega
    · exact h c hc
  have h0 := hf 0; have h1 := hf 1; have h2 := hf 2; have h3 := hf 3
  have hcases : ∀ c : Fin 4, c = 0 ∨ c = 1 ∨ c = 2 ∨ c = 3 := by decide
  rcases hcases b with rfl | rfl | rfl | rfl <;> omega

theorem rank_le_fuel (s : State) : s.rank ≤ s.followFuel := by
  have h (b : Fin 4) : (s.branch b).rank ≤ (s.branch b).answers.length + 1 := by
    unfold Branch.rank; split <;> omega
  have h0 := h 0; have h1 := h 1; have h2 := h 2; have h3 := h 3
  have hr := releaseRank_le s
  unfold State.rank State.followFuel
  rw [sum_four, sum_four]
  omega

theorem Freed.rank {s t : State} (h : Freed s t) : t.rank ≤ s.rank := by
  have hb : (four.map fun b => (t.branch b).rank) = four.map fun b => (s.branch b).rank :=
    congrArg (fun f => four.map f) (funext fun b => rank_of_ungranted (h.branches b))
  unfold State.rank
  rw [hb]
  exact Nat.add_le_add_left h.releases _

theorem beginAttempt_phase (br : Branch) (o : Operation) :
    (br.beginAttempt o).answers = br.answers ∧ (br.beginAttempt o).phase ≠ .idle ∧ (br.beginAttempt o).phase ≠ .posting := by
  unfold Branch.beginAttempt Branch.makeStart
  repeat' split
  all_goals exact ⟨rfl, by simp, by simp⟩

theorem takeNext_rank (s : State) (b : Fin 4) (h : s.mayTake b = true) : (s.takeNext b).rank < s.rank := by
  unfold State.mayTake at h
  simp only [Bool.and_eq_true, decide_eq_true_eq] at h
  have hp : (s.branch b).phase = .idle := h.1.1.1.1
  unfold State.takeNext
  cases hq : (s.branch b).queue with
  | nil => rw [hq] at h; simp at h
  | cons o rest =>
    refine Nat.lt_of_le_of_lt (slotFreed_freed _ b).rank ?_
    have hsame : ((s.takeOp b o rest).branch b).rank < (s.branch b).rank := by
      have hbr : (s.takeOp b o rest).branch b = Branch.beginAttempt
          { s.branch b with queue := rest, op := some o, retryCount := 0, lastCause := .absent, told := none } o := by
        unfold State.takeOp
        dsimp only
        split
        · rw [branch_setEntry, branch_modBranch_same]
        · rw [branch_modBranch_same]
      rw [hbr]
      obtain ⟨ha, h1, h2⟩ := beginAttempt_phase
        { s.branch b with queue := rest, op := some o, retryCount := 0, lastCause := .absent, told := none } o
      unfold Branch.rank
      rw [ha, if_neg (fun h => h.elim h1 h2), if_pos (.inl hp)]
      exact Nat.lt_succ_self _
    have hother (c : Fin 4) (hc : c ≠ b) : ((s.takeOp b o rest).branch c).rank ≤ (s.branch c).rank := by
      have hbr : (s.takeOp b o rest).branch c = s.branch c := by
        unfold State.takeOp
        dsimp only
        split
        · rw [branch_setEntry, branch_modBranch_ne _ _ _ _ hc]
        · rw [branch_modBranch_ne _ _ _ _ hc]
      rw [hbr]
    have hr : (s.takeOp b o rest).releaseRank = s.releaseRank := (congrArg State.releaseRank (takeOp_only s b o rest) :)
    have hs := four_lt (fun c => ((s.takeOp b o rest).branch c).rank) (fun c => (s.branch c).rank) b hsame hother
    unfold State.rank
    rw [hr]
    exact Nat.add_lt_add_right hs _

theorem postNext_rank (s : State) (b : Fin 4) (h : s.mayPost b = true) : (s.postNext b).rank < s.rank := by
  unfold State.mayPost at h
  simp only [Bool.and_eq_true] at h
  unfold State.postNext
  cases hq : (s.branch b).answers with
  | nil => rw [hq] at h; simp at h
  | cons r rest =>
    dsimp only
    have hs := four_lt (fun c => (((s.pushRecord r).modBranch b fun br =>
        { br with answers := rest, phase := if br.phase = .posting ∧ rest = [] then .idle else br.phase }).branch c).rank)
      (fun c => (s.branch c).rank) b (by
        rw [branch_modBranch_same]
        have hb : (s.pushRecord r).branch b = s.branch b := rfl
        rw [hb]
        unfold Branch.rank
        rw [hq, List.length_cons]
        dsimp only
        by_cases h1 : (s.branch b).phase = .posting ∧ rest = []
        · simp [h1]
        · simp only [h1, if_false]
          omega)
      (fun c hc => by
        rw [branch_modBranch_ne _ _ _ _ hc]
        exact Nat.le_refl _)
    unfold State.rank
    exact Nat.add_lt_add_right hs _

theorem judge_rank {s t : State} (h : s.judgeHead = some t) : s.judge.rank < s.rank := by
  have hb : (four.map fun b => (t.branch b).rank) = four.map fun b => (s.branch b).rank :=
    congrArg (fun f => four.map f) (funext fun b => rank_of_ungranted ((judgeHead_freed h).branches b))
  rw [judge_of_some h]
  refine Nat.lt_of_le_of_lt (judge_freed t).rank ?_
  unfold State.rank
  rw [hb]
  exact Nat.add_lt_add_left (judgeHead_rank h) _

/-- The free choices made so far play no part in the judgement. -/
theorem judgeHead_freeCount (s : State) (n : Nat) (h : s.judgeHead = none) :
    ({ s with freeCount := n } : State).judgeHead = none := by
  unfold State.judgeHead at *
  dsimp only
  split
  · rfl
  · rename_i e rest hq
    rw [hq] at h
    dsimp only at h
    split
    · rename_i ho
      rw [if_pos ho] at h
      unfold State.abortHead at *
      split at h
      · cases h
      · rename_i hr; exact if_neg hr
    · rename_i ho
      rw [if_neg ho] at h
      split
      · rename_i hd
        rw [if_pos hd] at h
        have hw (h : s.headWaits e rest = none) : ({ s with freeCount := n } : State).headWaits e rest = none := by
          unfold State.headWaits at *
          split at h
          · rename_i hw; exact if_pos hw
          · cases h
        split
        · rename_i member route offset data hb
          rw [hb] at h
          change s.judgeWrite e rest member route offset data = none at h
          unfold State.judgeWrite at *
          split at h
          · rename_i he
            refine (if_pos he).trans ?_
            split at h
            · cases h
            · rename_i hl; exact (if_neg hl).trans (hw h)
          · rename_i he
            refine (if_neg he).trans ?_
            split at h
            · cases h
            · rename_i hl; exact (if_neg hl).trans (hw h)
        · rename_i lines action pw hb
          rw [hb] at h
          change s.judgeLatch e rest lines action pw = none at h
          unfold State.judgeLatch at *
          split at h
          · cases h
          · rename_i hl; exact (if_neg hl).trans (hw h)
      · rfl

theorem follow_rank (s t : State) (f : Follow) (hf : f ∈ s.follows) (ht : s.pick s.follows = some (f, t)) :
    (t.follow f).rank < s.rank := by
  have he : { t with freeCount := s.freeCount } = s := pick_only s _ _ _ ht
  have hr : t.rank = s.rank := (congrArg State.rank he :)
  unfold State.follows at hf
  rw [← hr]
  rcases List.mem_append.1 hf with hf | hf
  · rcases List.mem_append.1 hf with hf | hf
    · obtain ⟨b, hb, rfl⟩ := List.mem_map.1 hf
      have hm : t.mayTake b = s.mayTake b := (congrArg (fun x : State => x.mayTake b) he :)
      exact takeNext_rank t b (hm.trans (List.mem_filter.1 hb).2)
    · obtain ⟨b, hb, rfl⟩ := List.mem_map.1 hf
      have hm : t.mayPost b = s.mayPost b := (congrArg (fun x : State => x.mayPost b) he :)
      exact postNext_rank t b (hm.trans (List.mem_filter.1 hb).2)
  · split at hf
    · rename_i hs
      obtain rfl := List.mem_singleton.1 hf
      cases hj : t.judgeHead with
      | none =>
        exfalso
        have hn : ({ t with freeCount := s.freeCount } : State).judgeHead = none := judgeHead_freeCount t s.freeCount hj
        rw [he] at hn
        rw [hn] at hs
        cases hs
      | some u =>
        exact judge_rank hj
    · cases hf

theorem settleIn_follows (fuel : Nat) (s : State) (h : s.rank ≤ fuel) : (s.settleIn fuel).follows = [] := by
  have hnone (t : State) (hp : t.pick t.follows = none) : t.follows = [] := by
    unfold State.pick at hp
    split at hp
    · assumption
    · cases hp
    · cases hp
  induction fuel generalizing s with
  | zero =>
    cases hp : s.pick s.follows with
    | none => exact hnone s hp
    | some x =>
      have := follow_rank s x.2 x.1 (pick_mem s _ _ _ hp) hp
      omega
  | succ n ih =>
    unfold State.settleIn
    split
    · rename_i hp; exact hnone s hp
    · rename_i f s' hp
      have := follow_rank s s' f (pick_mem s _ _ _ hp) hp
      exact ih _ (by omega)

/-- What follows at once is all done. -/
theorem settle_follows (s : State) : s.settle.follows = [] := settleIn_follows _ s (rank_le_fuel s)

/-- Nothing follows: nothing is done. -/
theorem settle_of_no_follows (s : State) (h : s.follows = []) : s.settle = s := by
  have hp : s.pick s.follows = none := by rw [h]; rfl
  unfold State.settle
  have hf : ∃ n, s.followFuel = n + 1 := ⟨_, by unfold State.followFuel; rw [Nat.add_comm]⟩
  obtain ⟨n, hn⟩ := hf
  rw [hn]
  unfold State.settleIn
  rw [hp]

theorem settle_settle (s : State) : s.settle.settle = s.settle := settle_of_no_follows _ (settle_follows s)

/-- To do what follows twice at the end of an event is to do it once. -/
theorem settle_endEvent (s : State) : s.settle.endEvent = s.endEvent := by
  unfold State.endEvent
  rw [settle_settle]

/-- In a state that leaves nothing undone the end of an event changes nothing. -/
theorem endEvent_of_settled (s : State) (h : s.Settled) : s.endEvent = s := by
  have hf : s.follows = [] := by
    unfold State.follows
    have h1 : four.filter s.mayTake = [] := List.filter_eq_nil_iff.2 fun b _ => by simp [h.engines b]
    have h2 : four.filter s.mayPost = [] := List.filter_eq_nil_iff.2 fun b _ => by simp [h.answers b]
    rw [h1, h2, h.head]
    rfl
  have hb : s.beginFrame = s := by
    have hc := h.frame
    unfold State.beginsFrame State.hasCandidate at hc
    unfold State.beginFrame
    split
    · rename_i hm
      simp only [hm, Bool.true_and, Bool.or_eq_false_iff, Bool.not_eq_false', List.isEmpty_iff,
        Option.isSome_eq_false_iff, Option.isNone_iff_eq_none] at hc
      rw [hc.1.1]
      simp [hc.1.2, hc.2]
    · rfl
  have hq : s.quiesce = s := by
    unfold State.quiesce
    split
    · rename_i hd
      rw [h.draining hd.1] at hd
      exact absurd hd.2 (by simp)
    · rfl
  unfold State.endEvent
  rw [settle_of_no_follows s hf, hb, settle_of_no_follows s hf, hq]

end Sys2Proof.Machine
end

