-- ==== Sys2Proof/Laws/Writes.lean ====
section
/-! SUPPORT. A MGMT WRITE of one word: what the frame comes to, from what the write of its word does; and table commands. -/

namespace Sys2Proof.Machine

/-- The frame is taken by its row, and its word is written (R167). -/
theorem exec_writeFrame {s : State} {rest : List Frame} {reqtag bridge : Byte} {address : BitVec 16} {w : Word}
    (h : s.Ready (mgmtWriteFrame reqtag bridge address w) rest) :
    exec (mgmtWriteRow address.toNat w) s = .next (State.mgmtWrite { s with intake := rest }
      (ReqTag.ofByte reqtag) (bridge.extractLsb' 0 3) address.toNat [w]).endEvent := by
  have hr := row_mgmtWriteFrame reqtag bridge address w
  rw [← hr, exec_rowOf, takeRow_atHead h.1 rfl]
  have hd : ({ s with intake := rest } : State).decideFrame (mgmtWriteFrame reqtag bridge address w) =
      .answer (State.mgmtWrite { s with intake := rest }
        (ReqTag.ofByte reqtag) (bridge.extractLsb' 0 3) address.toNat [w]) :=
    decideFrame_passed _ _ _ (parse_mgmtWriteFrame reqtag bridge address w) (.inr rfl)
  rw [takeHead_answer h.2 hd]
  rfl

/-- What the words of the write came to, and the frame's outcome (R39, R167). -/
theorem exec_writeFrame_result {s : State} {rest : List Frame} {reqtag bridge : Byte} {address : BitVec 16} {w : Word}
    {x : WriteResult} (h : s.Ready (mgmtWriteFrame reqtag bridge address w) rest)
    (hx : (s.writeTaken [] reqtag bridge .ok).writeWords address.toNat 0 [w] = x) :
    exec (mgmtWriteRow address.toNat w) s = .next (State.endEvent (State.setAnswer { x.state with intake := rest }
      s.responseQueue.length
      { rt := ReqTag.ofByte reqtag, status := x.status, body := .mgmt x.failWord [] x.state.intakeStopped })) := by
  have hs : State.pushRecord { ({ s with intake := rest } : State) with
      bridgeNumber := bridge.extractLsb' 0 3, intake := [] } (mgmtCompletion (ReqTag.ofByte reqtag) .ok 0 []) =
      s.writeTaken [] reqtag bridge .ok := rfl
  rw [exec_writeFrame h]
  unfold State.mgmtWrite
  dsimp only
  rw [hs, hx]

/-- The answer that stands in its place already (R39). -/
theorem setAnswer_standing {s : State} {q more : List Record} {r : Record} (h : s.responseQueue = q ++ r :: more) :
    s.setAnswer q.length r = s := by
  unfold State.setAnswer
  rw [h, List.set_append_right _ _ (Nat.le_refl _), Nat.sub_self, List.set_cons_zero, ← h]

/-- A word that is applied, and leaves the answer's record in its place, gives the state after it, and the event ends (R167). -/
theorem exec_writeFrame_applied {s t : State} {rest : List Frame} {reqtag bridge : Byte} {address : BitVec 16} {w : Word}
    {r : Register} {more : List Record} (h : s.Ready (mgmtWriteFrame reqtag bridge address w) rest)
    (hr : registerAt address.toNat = some r)
    (hw : (s.writeTaken [] reqtag bridge .ok).writeWord r w = .applied t) (hs : t.intakeStopped = false)
    (hq : t.responseQueue = s.responseQueue ++ mgmtCompletion (ReqTag.ofByte reqtag) .ok 0 [] :: more) :
    exec (mgmtWriteRow address.toNat w) s = .next (State.endEvent { t with intake := rest }) := by
  have hww : (s.writeTaken [] reqtag bridge .ok).writeWords address.toNat 0 [w] =
      { state := t, status := .ok, failWord := 0 } := by
    unfold State.writeWords
    rw [Nat.add_zero, hr]
    simp only [hw]
    rfl
  have ha : State.setAnswer { t with intake := rest } s.responseQueue.length
      { rt := ReqTag.ofByte reqtag, status := .ok, body := .mgmt 0 [] t.intakeStopped } = { t with intake := rest } := by
    have hr : ({ rt := ReqTag.ofByte reqtag, status := .ok, body := .mgmt 0 [] t.intakeStopped } : Record) =
        mgmtCompletion (ReqTag.ofByte reqtag) .ok 0 [] := by rw [hs]; rfl
    rw [hr]
    exact setAnswer_standing (s := { t with intake := rest }) hq
  rw [exec_writeFrame_result h hww]
  exact congrArg (fun u : State => Host.Outcome.next u.endEvent) ha

/-- A write that its first word stops (R167). -/
theorem exec_writeFrame_stopped {s : State} {rest : List Frame} {reqtag bridge : Byte} {address : BitVec 16} {w : Word}
    {st : Status} (h : s.Ready (mgmtWriteFrame reqtag bridge address w) rest)
    (hw : (s.writeTaken [] reqtag bridge .ok).writeWords address.toNat 0 [w] =
      { state := s.writeTaken [] reqtag bridge .ok, status := st, failWord := 0 }) :
    exec (mgmtWriteRow address.toNat w) s = .next (s.writeTaken rest reqtag bridge st).endEvent := by
  rw [exec_writeFrame_result h hw]
  have hi : s.intakeStopped = false := h.1.2.2
  simp [State.setAnswer, State.writeTaken, State.answeredWith, mgmtCompletion, hi]

/-- A word that stops the write (R167). -/
theorem exec_writeFrame_stops {s : State} {rest : List Frame} {reqtag bridge : Byte} {address : BitVec 16} {w : Word}
    {r : Register} {st : Status} (h : s.Ready (mgmtWriteFrame reqtag bridge address w) rest)
    (hr : registerAt address.toNat = some r)
    (hw : (s.writeTaken [] reqtag bridge .ok).writeWord r w = .stops st) :
    exec (mgmtWriteRow address.toNat w) s = .next (s.writeTaken rest reqtag bridge st).endEvent := by
  refine exec_writeFrame_stopped h ?_
  unfold State.writeWords
  rw [Nat.add_zero, hr]
  simp only [hw]

/-- A word at an unmapped address stops the write (R166, R167). -/
theorem exec_writeFrame_unmapped {s : State} {rest : List Frame} {reqtag bridge : Byte} {address : BitVec 16} {w : Word}
    (h : s.Ready (mgmtWriteFrame reqtag bridge address w) rest) (hr : registerAt address.toNat = none) :
    exec (mgmtWriteRow address.toNat w) s = .next (s.writeTaken rest reqtag bridge .badAddress).endEvent := by
  refine exec_writeFrame_stopped h ?_
  unfold State.writeWords
  rw [Nat.add_zero, hr]

/-- A TABLE COMMAND that passes its checks, outside OFFLINE (R9, R39). -/
theorem exec_tableFrame {s : State} {rest : List Frame} {reqtag command : Byte} {operand : List Byte} {n : Nat}
    (h : s.Ready (tableFrame reqtag command operand) rest) (ho : s.opState ≠ .offline)
    (hn : tableBodyLength command.toNat = some n) (hl : operand.length + 1 = n) :
    exec (tableRow command.toNat) s = .next (State.endEvent
      { s.answeredWith rest (mgmtCompletion (ReqTag.ofByte reqtag) (tableCommand s.routes command operand).status 0
          (tableCommand s.routes command operand).data) with
        routes := (tableCommand s.routes command operand).routes }) := by
  have hr : rowOf (tableFrame reqtag command operand) = tableRow command.toNat := rfl
  rw [← hr, exec_rowOf, takeRow_atHead h.1 rfl]
  have hd := decideFrame_passed { s with intake := rest } _ _ (parse_tableFrame reqtag command operand n hn hl) (.inl ho)
  rw [takeHead_answer h.2 hd]
  rfl

end Sys2Proof.Machine
end

