-- ==== Sys2Proof/WellFormed.lean ====
section
/-! DEFINITION. When a command is well formed: its operands can be those of the step its row names. -/

namespace Sys2Proof

/-- Well-formedness of a command. A FRAME_ARRIVAL brings at least the last CHECK byte and at most one whole frame of 6 to
261 bytes (02, section 2.1). The types of the other operands admit legal values only. -/
def Instr.wellFormed : Instr → Bool
  | .frameArrival bytes => decide (1 ≤ bytes.length ∧ bytes.length ≤ 261)
  | _ => true

end Sys2Proof
end

