-- ==== Sys2Proof/Tests/Slice0.lean ====
section
/-! SUPPORT. Tests: the smoke tests of WellFormed, small steps with values written out from the spec, and for every statement
with hypotheses a theorem `met_<Name>` that shows states and operands which meet them, clause by clause. -/

namespace Sys2Proof.Machine

/-! ## WellFormed refuses -/

theorem test_wf_no_bytes : (Instr.frameArrival []).wellFormed = false := by decide
theorem test_wf_one_byte : (Instr.frameArrival [0]).wellFormed = true := by decide
theorem test_wf_longest : (Instr.frameArrival (List.replicate 261 0)).wellFormed = true := by decide +kernel
theorem test_wf_too_long : (Instr.frameArrival (List.replicate 262 0)).wellFormed = false := by decide +kernel

/-! ## Small states -/

/-- The state after a command. -/
def after (c : Instr) (s : State) : State :=
  match exec c s with
  | .next t => t
  | .fault _ => s
  | .refused _ => s

/-- Branch b is enabled and IDLE. -/
def onBranch (s : State) (b : Fin 4) : State := s.modBranch b fun br => { br with enabled := true, phase := .idle }

/-- A route entry of width 1 on branch 0. -/
def route5 : RouteEntry :=
  { ldn := 5, device := .target 0 0x20 1, access := .rw, owner := none, persist := false, timeoutClass := 0
    timeoutPolicy := .abandon, retryLimit := 2 }

/-- Its snapshot. -/
def snap5 : Route :=
  { ldn := 5, branch := 0, busAddress := 0x20, width := 1, persist := false, timeoutClass := 0
    timeoutPolicy := .abandon, retryLimit := 2 }

/-- LDN 5 is held, and its branch is enabled. -/
def base : State := onBranch { State.reset with routes := [route5] } 0

/-- The same with HOLD-IN asserted, so that a record stays in the Response Queue. -/
def heldBase : State := { base with holdIn := true }

/-- The requester 1, tag 1. -/
def pair1 : ReqTag := { requester := 1, tag := 1 }

/-- A frame at the head of the buffer. -/
def head (s : State) (f : Frame) : State := { s with intake := [f] }

/-- A frame of a kind with a body, from requester 1 with tag 1. -/
def frameOf (kind : Byte) (body : List Byte) : Frame := { kind := kind, reqtag := 0x21, body := body }

/-- A MGMT WRITE of one word at the head, from requester 1 with tag 1. -/
def wrote (s : State) (address : BitVec 16) (w : Word) : State := head s (mgmtWriteFrame 0x21 0 address w)

theorem ready_head (s : State) (f : Frame)
    (h : (s.opState = .active ∨ s.opState = .draining ∨ s.opState = .offline) ∧ s.intakeStopped = false ∧
      s.responseQueue.length < 12) : (head s f).Ready f [] :=
  ⟨⟨rfl, h.1, h.2.1⟩, h.2.2⟩

theorem ready_wrote (s : State) (address : BitVec 16) (w : Word)
    (h : (s.opState = .active ∨ s.opState = .draining ∨ s.opState = .offline) ∧ s.intakeStopped = false ∧
      s.responseQueue.length < 12) : (wrote s address w).Ready (mgmtWriteFrame 0x21 0 address w) [] :=
  ready_head s _ h

/-- A read of 8 bytes at subaddress 16 of LDN 5, all of it in one QUEUED piece. -/
def entry5 : SplitEntry :=
  { owner := .trunk pair1, route := snap5, start := 16, length := 8, issued := 8, received := 0, sent := 0
    pieces := [{ offset := 16, length := 8, state := .queued }], deadline := 2000, extended := false, state := .gathering
    finalStatus := none, finalSent := false, held := [] }

/-- The entry in place 0, alone. -/
def holding (s : State) (e : SplitEntry) : State := { s.setEntry 0 (some e) with ageOrder := [0] }

/-- The operation of its piece. -/
def piece5 : Operation := pieceOperation 0 { entry5 with issued := 0 } 8

/-- A confirmed write of two bytes to LDN 5. -/
def write5 : Operation :=
  { body := .confirmed { requester := 1, tag := 2 } [7, 8], ldn := 5, busAddress := 0x20, width := 1, offset := 0
    retryLimit := 2, persist := false }

/-- The engine of branch 0 runs an operation. -/
def running (s : State) (o : Operation) (p : Phase) : State :=
  s.modBranch 0 fun br => { br with op := some o, phase := p, bus := .busySelf }

/-- The engine of branch 0 runs the piece, which is ACTIVE. -/
def reading (p : Phase) : State :=
  running (holding base { entry5 with pieces := [{ offset := 16, length := 8, state := .active }] }) piece5 p

/-- n records wait in the Response Queue. -/
def full (s : State) (n : Nat) : State := { s with responseQueue := List.replicate n (completion pair1 .ok 0) }

/-- A due timed write to LDN 5. -/
def timed5 : ReleaseEntry :=
  { rt := pair1, stamp := 0, due := true, overdue := false, waiting := false, body := .timedWrite none snap5 0 [7] }

/-- A due timed latch on line 0. -/
def latch5 : ReleaseEntry := 
  { rt := pair1, stamp := 0, due := true, overdue := false, waiting := false, body := .timedLatch 1 .set 100 }

/-- A pending entry in the Release Queue. -/
def released (s : State) (e : ReleaseEntry) : State := { s with releaseQueue := [e] }

/-- Group 1 is COLLECTING with generation 1. -/
def collecting (s : State) (members done failed : Nat) : State :=
  s.modGroup 0 fun g =>
    { g with state := .collecting, generation := 1, members := members, done := done, failed := failed }

/-! ## Steps, with values from the spec -/

theorem test_crc : crc [0x31, 0x32, 0x33, 0x34, 0x35, 0x36, 0x37, 0x38, 0x39] = 0x29B1 := by decide +kernel

/-- An arriving frame, byte by byte: CANCEL of tag 3 from requester 1 with tag 1. -/
theorem test_frame_arrival :
    (after (.frameArrival (0xA5 :: 0x16 :: 0x21 :: 1 :: 3 :: bytes16 (crc [0x16, 0x21, 1, 3]))) State.reset).intake =
      [{ kind := 0x16, reqtag := 0x21, body := [3] }] := by decide +kernel

theorem test_bad_check : (after (.frameArrival [0xA5, 0x16, 0x21, 1, 3, 0, 0]) State.reset).flags = 2 := by decide +kernel

theorem test_sync : (after .syncReceived State.reset).rx = .gathering [] := by decide

/-- The worked example of section 1.6: the five entries. -/
def example16 : State :=
  let t (ldn : Byte) (d : RouteDevice) (a : Access) (o : Option (BitVec 3)) (p : Bool) (c : Fin 4) (q : TimeoutPolicy)
    (r : Fin 16) : RouteEntry :=
    { ldn := ldn, device := d, access := a, owner := o, persist := p, timeoutClass := c, timeoutPolicy := q, retryLimit := r }
  onBranch (onBranch { State.reset with routes :=
    [t 10 (.target 1 0x20 1) .rw none false 1 .abandon 3, t 11 (.aliasOf 10) .ro (some 2) true 0 .extend 0,
     t 12 (.aliasOf 11) .rw none false 0 .abandon 0, t 40 (.target 3 0 0) .wo none false 0 .abandon 1,
     t 41 (.aliasOf 40) .rw none false 2 .abandon 5] } 1) 3

/-- What a resolution with reach answers, as the example's last column. -/
def answerOf (r : Except Status Route) : Option Status :=
  match r with
  | .ok _ => none
  | .error st => some st

theorem test_example_16 :
    answerOf (example16.routeFor 11 .forRead (some 2) 16 32) = none ∧
    answerOf (example16.routeFor 11 .forWrite (some 2) 0 4) = some .routeRefused ∧
    answerOf (example16.routeFor 11 .forRead (some 5) 0 8) = some .routeRefused ∧
    answerOf (example16.routeFor 12 .forRead (some 0) 0 8) = some .noRoute ∧
    answerOf (example16.routeFor 41 .forRead (some 0) 0 1) = some .routeRefused ∧
    answerOf (example16.routeFor 41 .forWrite (some 0) 0 2) = none ∧
    answerOf (example16.routeFor 10 .forRead (some 0) 0xFA 8) = some .badLength ∧
    answerOf (example16.routeFor 10 .forWrite (some 0) 0xFF 0) = none := by decide

/-- The piece of an accepted read is taken in the same event by the engine that was IDLE (R90). -/
theorem test_read :
    (after .read (head base (readFrame 0x21 5 16 8))).entry 0 =
      some { entry5 with pieces := [{ offset := 16, length := 8, state := .active }] } ∧
    ((after .read (head base (readFrame 0x21 5 16 8))).branch 0).op = some piece5 ∧
    (after .read (head base (readFrame 0x21 5 16 8))).committed = 1 := by decide

/-- With the engine at work its piece waits in the queue. -/
theorem test_read_queued :
    ((after .read (head (running base write5 .address) (readFrame 0x21 5 16 8))).branch 0).queue = [piece5] := by decide

/-- The address byte of the write, its subaddress byte, and its second data byte (R92). -/
theorem test_bytes_sent : ((running base write5 .address).branch 0).sends = some 0x40 ∧
    ((running base { write5 with offset := 0x19 } .subaddress).branch 0).sends = some 0x19 ∧
    (((running base write5 .writeData).modBranch 0 fun br =>
      { br with progress := { br.progress with dataDone := 1 } }).branch 0).sends = some 8 := by decide

theorem test_insert :
    (after .tableInsert (head State.reset (tableFrame 0x21 1 [5, 0x80, 0, 0x20, 0, 0x10, 0x30, 2]))).routes = [route5] := by
  decide

theorem test_insert_both_parts :
    (after .tableInsert (head heldBase (tableFrame 0x21 1 [5, 0xC0, 0, 0x20, 0, 0x10, 0x30, 2]))).responseQueue =
      [mgmtCompletion pair1 .badField 0 []] := by decide

theorem test_ident :
    (after .mgmtRead (head heldBase (mgmtReadFrame 0x21 0x000 2))).responseQueue =
      [mgmtCompletion pair1 .ok 0 [0x57, 0xA6, 0x04, 0x40, 0, 0, 0, 1]] := by decide

/-- An answer that finds the transmitter idle begins to be sent in its event (R116). -/
theorem test_frame_begins :
    (after .cancel (head base (cancelFrame 0x22 9))).sending.map (fun f => f.bytes.take 5) = some [0xA5, 0x81, 0x22, 5, 0] ∧
    (after .cancel (head base (cancelFrame 0x22 9))).responseQueue = [] ∧
    (after .cancel (head heldBase (cancelFrame 0x22 9))).sending = none := by decide +kernel

theorem test_commit_limit :
    (after .commitLimitWrite (wrote base 0x020 2000)).commitLimit = 1023 ∧
    (after .commitLimitWrite (wrote base 0x020 1)).commitLimit = 64 := by decide

theorem test_take : ((after (.engineTakeOperation 0)
    (base.modBranch 0 fun br => { br with queue := [write5] })).branch 0).phase = .start := by decide

theorem test_take_waits_for_gap : ((after (.engineTakeOperation 0)
    (base.modBranch 0 fun br => { br with queue := [write5], gapTimer := 4 })).branch 0).phase = .gap := by decide

/-- A write of two bytes with one subaddress byte: four acknowledges lead from START to STOP. -/
theorem test_write_to_stop : ((after (.byteAck 0) (after (.byteAck 0) (after (.byteAck 0) (after (.byteAck 0)
    (running base write5 .start))))).branch 0).phase = .stop := by decide

theorem test_address_nack : ((after (.addressNack 0) (running base write5 .address)).branch 0).retryCount = 1 := by decide

/-- It counts for an engine told to end as well (R97). -/
theorem test_address_nack_told : ((after (.addressNack 0) ((running base write5 .address).modBranch 0 fun br =>
    { br with told := some .aborted })).branch 0).retryCount = 1 := by decide

/-- A START that the engine sees finds the clock high (R89, R99). -/
theorem test_start_seen : ((after (.busStartSeen 0 .self) ((running base write5 .start).modBranch 0 fun br =>
    { br with stretchCounter := 9 })).branch 0).stretchCounter = 0 := by decide

/-- A data NACK on the second data byte is answered with the OFFSET of the byte not taken (R78). -/
theorem test_data_nack_offset :
    (after (.runEnd 0) (after (.dataNack 0) ((running heldBase write5 .writeData).modBranch 0 fun br =>
      { br with progress := { br.progress with dataDone := 1 } }))).responseQueue =
      [completion { requester := 1, tag := 2 } .dataNack 1] := by decide

theorem test_read_byte : (after (.readByteReceived 0 0x5A) ((reading .readData).modBranch 0 fun br =>
    { br with progress := { br.progress with reserved := true } })).occupancy = 2 := by decide

theorem test_stuck : (after (.clockStuck 0 25001) (running heldBase write5 .writeData)).responseQueue =
    [completion { requester := 1, tag := 2 } .stuck 0] := by decide

theorem test_clear_end : ((after (.busClearEnd 0 false) (base.modBranch 0 fun br => { br with phase := .clearing })).branch 0
    ).cutShort = true := by decide

theorem test_expiry : ((after (.deadlineExpiry 0) { holding base entry5 with stamp := 2000 }).entry 0).map
    SplitEntry.finalStatus = some (some .timeout) := by decide

theorem test_not_due : after (.deadlineExpiry 0) { holding base entry5 with stamp := 1999 } =
    { holding base entry5 with stamp := 1999 } := by decide

/-- A completion OK with OFFSET 0 as it is sent, with SOURCE 0. -/
theorem test_send : ((after .frameSendBegin (full base 1)).sending.map InFlight.bytes) =
    some (0xA5 :: 0x81 :: 0x21 :: 5 :: 0 :: 0 :: 1 :: 0 :: 0 :: bytes16 (crc [0x81, 0x21, 5, 0, 0, 1, 0, 0])) := by
  decide +kernel

theorem test_group_fires : (after .groupClose (wrote ((collecting base 1 1 0).modGroup 0 fun g => { g with lines := 5 })
    0x074 2)).lines.toList.map Line.driven = [true, false, true, false] := by decide

theorem test_pulse : ((State.latch State.reset 2 .pulse 50).line 1).driven = true ∧
    ((after (.pulseEnd 1) (State.latch State.reset 2 .pulse 50)).line 1).driven = false := by decide

/-- A released write enters its queue, from which an IDLE engine takes it in the same event (R90, R136). -/
theorem test_release : ((after .releaseTimedWrite (released base timed5)).branch 0).op.isSome = true ∧
    ((after .releaseTimedWrite (released (running base write5 .address) timed5)).branch 0).queue.length = 1 := by decide

/-- One place is left in the queue of branch 0. A write to it waits in the intake buffer, and a due write at the head of the Release
Queue has begun to wait for room, with a due latch behind it. -/
def contended : State :=
  let s := base.modBranch 0 fun br => { br with phase := .busyOther, queue := List.replicate 15 write5 }
  { head s (frameOf 0x12 (writeBody 5 0 [7])) with releaseQueue := [{ timed5 with waiting := true }, latch5] }

/-- Each of the three may be first at the freed slot (R72); Intake's write leaves the head waiting, and the head's release lets the
latch behind it act at once (R135, R137). -/
theorem test_freed_slot :
    contended.slotTakers 0 = [.grantPass, .head, .intake] ∧
    (let t := (contended.intakeTakesSlot 0).getD contended
     (t.branch 0).queue.length = 16 ∧ t.intake = [] ∧ t.releaseQueue = contended.releaseQueue ∧ t.judgeHead = none) ∧
    (let t := (contended.headTakesSlot.getD contended).judge
     (t.branch 0).queue.length = 16 ∧ t.releaseQueue = [] ∧ (t.line 0).driven = true ∧ t.intake = contended.intake) := by
  decide +kernel

/-- A write that no other source meets is left to its own step. -/
theorem test_uncontended : State.slotTakers { contended with releaseQueue := [] } 0 = [.grantPass] := by decide +kernel

/-- A MGMT WRITE has had its effect before the next frame is taken (R39): the slots that the expiry of a read frees are not open to
the write behind it, which then finds its place in a step of its own. -/
theorem test_write_before_frame :
    let f := mgmtWriteFrame 0x21 0 0x029 2000
    let w := frameOf 0x12 (writeBody 5 0 [7])
    let s : State := { (holding base entry5).modBranch 0 (fun br => { br with
      phase := .busyOther, queue := piece5 :: List.replicate 15 write5 }) with intake := [f, w] }
    (after .stampWrite s).intake = [w] ∧ ((after .stampWrite s).branch 0).queue.length = 15 := by decide +kernel

/-- An accepted TIMED WRITE that is due at once is released in its event, so that DRAINING goes on (R134, R135, R176). -/
theorem test_due_at_once :
    let f : Frame := { kind := 0x14, reqtag := 0x21, body := bytes32 0 ++ 0 :: writeBody 5 0 [7] }
    let t := after .timedWrite (head { base with opState := .draining } f)
    t.releaseQueue = [] ∧ (t.branch 0).op.isSome = true ∧ t.opState = .quiet := by decide

/-- At the end of a run the next operation is taken (R104). -/
theorem test_run_end_takes : ((after (.runEnd 0) ((running base write5 .stop).modBranch 0 fun br =>
    { br with queue := [piece5] })).branch 0).op = some piece5 := by decide

/-- DRAINING does not end while a frame waits untaken (R176). -/
theorem test_draining_waits : (after .sendEnd (head { base with
    opState := .draining, sending := some { source := .notice, dataCount := 0, final := false, bytes := [] } }
      (cancelFrame 0x21 3))).opState = .draining := by decide

theorem test_offline : (after .stateWriteOffline (wrote (holding base entry5) 0x008 3)).opState = .offline ∧
    ((after .stateWriteOffline (wrote (holding base entry5) 0x008 3)).entry 0).map SplitEntry.state = some .abandoned := by
  decide

theorem test_quiet_wakes : (after (.attentionTrigger 2) (({ base with opState := .quiet }).modAttn 2 fun a =>
    { a with enabled := true, wake := true })).opState = .waking := by decide

/-- No new entry goes ahead of one that has waited more than 2^31 - 1 ticks, wherever that one stands (R134). -/
theorem test_insert_behind_long_due :
    let later : ReleaseEntry := { timed5 with due := false, stamp := 50 }
    let longDue : ReleaseEntry := { timed5 with overdue := true, stamp := 9 }
    let new : ReleaseEntry := { timed5 with due := false, stamp := 20 }
    insertRelease 0 new [later, longDue] = [later, longDue, new] ∧ insertRelease 0 new [later] = [new, later] := by decide

theorem test_holdoff : ((after (.holdoffEnd 1) (base.modAttn 1 fun a => { a with status := .holdoff })).attn 1).status =
    .idle := by decide

theorem test_cold_reset : (after (.coldReset { id := 5, ovc := true, qstart := true }) base).commitLimit = 256 ∧
    (after (.coldReset { id := 5, ovc := true, qstart := true }) base).opState = .quiet := by decide

theorem test_stamp_wraps : (after .stampAdvance { base with stamp := 0xFFFFFFFF }).stamp = 0 := by decide

/-! ## Hypotheses are met -/

theorem met_IdleQueueRunsThePart :
    (State.reset.pending = [] ∧ State.reset.due = []) ∧
    ({ State.reset with tickTimer := 1 } : State).due = [.stampAdvance] ∧
    ({ State.latch State.reset 1 .pulse 0 with tickTimer := 1 } : State).due = [.stampAdvance, .pulseEnd 0] := by decide

theorem met_FlagsAndNotices :
    let s : State := { State.reset with noticeMask := 0x400, noticeArm := true }
    (s.flag .woke = false ∧ s.noticeMask.getLsbD EventFlag.woke.bit = true ∧ s.noticeArm = true) ∧
    ({ s with flags := 0x400 } : State).flag .woke = true ∧ s.noticeMask.getLsbD EventFlag.attnNoRoute.bit = false ∧
    State.reset.noticeArm = false ∧ EventFlag.woke ≠ .attnNoRoute := by decide

/-- The receiver has gathered the first three bytes of a CANCEL frame. -/
def gathering3 : State := { State.reset with rx := .gathering [0x16, 0x21, 1] }

theorem met_GoodFrameArrives :
    let bytes := 3 :: bytes16 (crc [0x16, 0x21, 1, 3])
    let one : State := { gathering3 with intake := [cancelFrame 1 2] }
    (one.rx = .gathering [0x16, 0x21, 1] ∧ ([3] : List Byte).length ≤ 255 ∧
      0xA5 :: ([0x16, 0x21, 1] ++ bytes) = wire 0x16 0x21 [3]) ∧
    (one.intake.length < 2 ∧ one.opState ≠ .quiet) ∧
    (({ one with opState := .quiet } : State).intake.length < 2 ∧ ({ one with opState := .quiet } : State).opState = .quiet) ∧
    2 ≤ ({ one with intake := [cancelFrame 1 2, cancelFrame 1 3] } : State).intake.length := by decide +kernel

theorem met_ReceiverHuntsAndGathers_check :
    gathering3.rx = .gathering [0x16, 0x21, 1] ∧
    ([0x16, 0x21, 1] ++ [3, 0, 0] : List Byte) = 0x16 :: 0x21 :: 1 :: [3, 0, 0] ∧
    ([3, 0, 0] : List Byte).length = (1 : Byte).toNat + 2 ∧
    ([3, 0, 0] : List Byte).drop (1 : Byte).toNat ≠
      bytes16 (crc (0x16 :: 0x21 :: 1 :: ([3, 0, 0] : List Byte).take (1 : Byte).toNat)) := by decide +kernel

theorem met_ReceiverHuntsAndGathers :
    (State.reset.rx = .hunting ∧ (0xA4 : Byte) ≠ 0xA5) ∧
    (({ State.reset with rx := .gathering [0x16] } : State).rx = .gathering [0x16] ∧ ([0x16] : List Byte).length < 2) ∧
    (({ State.reset with rx := .gathering [0x16, 0x21, 1, 3] } : State).rx = .gathering [0x16, 0x21, 1, 3] ∧
      ([0x16, 0x21, 1, 3] ++ [0xA5] : List Byte) = 0x16 :: 0x21 :: 1 :: [3, 0xA5] ∧
      ([3, 0xA5] : List Byte).length < (1 : Byte).toNat + 2) := by decide

/-- Every case of resolution and reach, in the worked example's table. -/
theorem met_RoutesResolve :
    (findRoute example16.routes 13 = none ∧ ∃ e, findRoute example16.routes 10 = some e ∧ e.device = .target 1 0x20 1) ∧
    (∃ e x, findRoute example16.routes 12 = some e ∧ e.device = .aliasOf 11 ∧ findRoute example16.routes 11 = some x ∧
      x.device = .aliasOf 10) ∧
    (∃ e x, findRoute example16.routes 11 = some e ∧ e.device = .aliasOf 10 ∧ findRoute example16.routes 10 = some x ∧
      x.device = .target 1 0x20 1 ∧ e.access = .ro ∧ e.owner = some 2) ∧
    (∃ e, findRoute example16.routes 40 = some e ∧ e.device = .target 3 0 0 ∧ e.access = .wo) ∧
    ((example16.branch 1).enabled = true ∧ ((after (.coldReset { id := 0, ovc := false, qstart := false }) example16).branch 1).enabled = false) ∧
    (base.resolve 5 .forRead none = .ok snap5 ∧ base.resolve 6 .forRead none = .error .noRoute) ∧
    ((snap5.width = 1 ∧ 255 ≤ 255 ∧ 255 + 0 ≤ 256 ∧ 255 + 1 ≤ 256) ∧ ¬(255 + 2 ≤ 256)) ∧
    (({ snap5 with width := 0 } : Route).width = 0 ∧ ({ snap5 with width := 2 } : Route).width = 2) :=
  ⟨⟨rfl, _, rfl, rfl⟩, ⟨_, _, rfl, rfl, rfl, rfl⟩, ⟨_, _, rfl, rfl, rfl, rfl, rfl, rfl⟩, ⟨_, rfl, rfl, rfl⟩, by decide,
    ⟨rfl, rfl⟩, by decide, by decide⟩

theorem met_UnknownCodesAnswered :
    ((head base { kind := 0x17, reqtag := 0x21, body := [] }).Ready { kind := 0x17, reqtag := 0x21, body := [] } [] ∧
      (0x17 : Byte) ∉ ([0x11, 0x12, 0x13, 0x14, 0x15, 0x16, 0x21, 0x22, 0x23] : List Byte)) ∧
    ((head base (tableFrame 0x21 7 [])).Ready (tableFrame 0x21 7 []) [] ∧ (head base (tableFrame 0x21 7 [])).opState ≠ .offline ∧
      (7 : Byte) ∉ ([1, 2, 3, 4, 5, 6] : List Byte)) :=
  ⟨⟨ready_head _ _ (by decide), by decide⟩, ready_head _ _ (by decide), by decide, by decide⟩

theorem met_FramesWaitUntaken :
    let f := cancelFrame 0x21 3
    (head { base with opState := .quiet } f).opState = .quiet ∧ (head { base with opState := .waking } f).opState = .waking ∧
    (head { base with intakeStopped := true } f).intakeStopped = true ∧
    (12 ≤ (head (full base 12) f).responseQueue.length ∧ f.kind ∉ ([0x11, 0x12, 0x13, 0x14, 0x15] : List Byte)) ∧
    (12 ≤ (head (full base 12) (readFrame 0x21 5 0 0)).responseQueue.length ∧
      ∃ st, parseRequest (readFrame 0x21 5 0 0) = .error st) :=
  ⟨by decide, by decide, by decide, ⟨by decide, by decide⟩, by decide, _, rfl⟩

/-- The later checks that keep a frame waiting, each at a frame that fails it. -/
theorem met_FramesWaitUntaken_checks :
    let full12 (s : State) (f : Frame) := head (full s 12) f
    let wr (kind : Byte) (ldn : Byte) : Frame := { kind := kind, reqtag := 0x21, body := writeBody ldn 0 [7] }
    let tw (stamp : Stamp) (group : Byte) : Frame :=
      { kind := 0x14, reqtag := 0x21, body := bytes32 stamp ++ group :: writeBody 5 0 [7] }
    let queued := base.modBranch 0 fun br => { br with queue := List.replicate 16 write5 }
    let many : State := { base with releaseQueue := List.replicate 32 timed5 }
    (parseRequest (readFrame 0x21 5 16 8) = .ok (.read 5 16 8) ∧
      (full12 (holding base entry5) (readFrame 0x21 5 16 8)).live pair1 = true ∧
      (full12 { base with split := Vector.replicate 16 (some entry5) } (readFrame 0x21 5 16 8)).freePlace = none) ∧
    (∃ st, (full12 base (readFrame 0x21 6 16 8)).routeFor 6 .forRead (some 1) 16 8 = .error st) ∧
    (parseRequest (wr 0x12 5) = .ok (.write 5 0 [7]) ∧ parseRequest (wr 0x13 5) = .ok (.writeConfirmed 5 0 [7])) ∧
    (∃ st, (full12 base (wr 0x12 6)).routeFor 6 .forWrite (some 1) 0 1 = .error st) ∧
    ((full12 queued (wr 0x12 5)).routeFor 5 .forWrite (some 1) 0 1 = .ok snap5 ∧
      16 ≤ ((full12 queued (wr 0x12 5)).branch 0).queue.length) ∧
    (parseRequest (tw 0x40000001 1) = .ok (.timedWrite 0x40000001 1 5 0 [7]) ∧ base.stamp = 0 ∧
      2 ^ 30 < (0x40000001 - base.stamp).toInt ∧ ((-1001 : Stamp) - base.stamp).toInt < -(base.lateWindow.toNat : Int)) ∧
    ((∀ g : Fin 7, (1 : Byte).toNat = g.val + 1 → (base.group g).state ≠ .collecting ∨ 32 ≤ (base.group g).members) ∧
      (∀ g : Fin 7, (8 : Byte).toNat ≠ g.val + 1)) ∧
    32 ≤ many.releaseQueue.length ∧
    parseRequest (latchFrame 0x21 0x40000001 1 1 0) = .ok (.timedLatch 0x40000001 1 .set 0) :=
  ⟨⟨rfl, by decide, by decide⟩, ⟨_, rfl⟩, ⟨rfl, rfl⟩, ⟨_, rfl⟩, ⟨rfl, by decide⟩, ⟨rfl, rfl, by decide, by decide⟩,
    ⟨by decide, by decide⟩, by decide, rfl⟩

/-- A frame of each kind whose sizes are out of range, and frames whose sizes are in range. -/
theorem met_RefusalsInOrder_form :
    ((head base (readFrame 0x21 5 0 513)).Ready (readFrame 0x21 5 0 513) [] ∧ (readFrame 0x21 5 0 513).SizesFail) ∧
    ((frameOf 0x12 (writeBody 5 0 (List.replicate 65 0))).SizesFail ∧ (frameOf 0x13 [5, 0, 0, 2, 7]).SizesFail ∧
      (frameOf 0x14 []).SizesFail ∧ (frameOf 0x15 []).SizesFail ∧ (frameOf 0x16 [1, 2]).SizesFail ∧ (frameOf 0x21 [0, 0, 9]).SizesFail ∧
      (frameOf 0x22 [0, 0, 0, 0]).SizesFail ∧ (frameOf 0x23 [6, 0]).SizesFail) ∧
    ((head base (latchFrame 0x21 0 1 5 0)).Ready (latchFrame 0x21 0 1 5 0) [] ∧ ¬(latchFrame 0x21 0 1 5 0).SizesFail ∧
      (latchFrame 0x21 0 1 5 0).byte 5 ∉ ([1, 2, 3, 4] : List Nat)) ∧
    (¬(latchFrame 0x21 0 1 4 0).SizesFail ∧ (latchFrame 0x21 0 1 4 0).byte 5 = 4 ∧ (latchFrame 0x21 0 1 4 0).byte 6 = 0 ∧
      (latchFrame 0x21 0 1 4 0).byte 7 = 0) ∧
    (let off : State := { base with opState := .offline }
     (head off (cancelFrame 0x21 1)).Ready (cancelFrame 0x21 1) [] ∧ ¬(cancelFrame 0x21 1).SizesFail ∧
      (cancelFrame 0x21 1).kind ≠ 0x15 ∧ (head off (cancelFrame 0x21 1)).opState = .offline ∧
      (cancelFrame 0x21 1).kind ∈ ([0x11, 0x12, 0x13, 0x14, 0x15, 0x16, 0x23] : List Byte)) := by
  unfold Frame.SizesFail
  exact ⟨⟨ready_head _ _ (by decide), by decide⟩, ⟨by decide +kernel, by decide, by decide, by decide, by decide, by decide, by decide, by decide⟩,
    ⟨ready_head _ _ (by decide), by decide, by decide⟩,
    by decide, ready_head _ _ (by decide), by decide, by decide, by decide, by decide⟩

theorem met_RefusalsInOrder :
    let f := readFrame 0x21 5 16 512
    (1 ≤ (512 : BitVec 16).toNat ∧ (512 : BitVec 16).toNat ≤ 512) ∧
    ((head (holding base entry5) f).Ready f [] ∧ (head (holding base entry5) f).live (ReqTag.ofByte 0x21) = true) ∧
    ((head base f).Ready f [] ∧ (head base f).opState ≠ .offline ∧ (head base f).live (ReqTag.ofByte 0x21) = false ∧
      (head base f).routeFor 6 .forRead (some (ReqTag.ofByte 0x21).requester) 16 512 = .error .noRoute) ∧
    (let s := { base with split := Vector.replicate 16 (some { entry5 with owner := .attn 1 }) }
     (head s f).live (ReqTag.ofByte 0x21) = false ∧
      (head s f).routeFor 5 .forRead (some (ReqTag.ofByte 0x21).requester) 16 8 = .ok snap5 ∧
      ∀ i, (head s f).entry i ≠ none) :=
  ⟨by decide, ⟨ready_head _ _ (by decide), by decide⟩, ⟨ready_head _ _ (by decide), by decide, by decide, rfl⟩, by decide, rfl,
    by decide⟩

/-- Writes that the route refuses, whose pair is live, or whose queue is full; a stamp outside the window, a group that is not
COLLECTING, and 32 entries held. -/
theorem met_RefusalsInOrder_writes :
    let f (kind : Byte) : Frame := { kind := kind, reqtag := 0x21, body := writeBody 5 0 [7] }
    let tw (stamp : Stamp) (group : Byte) : Frame :=
      { kind := 0x14, reqtag := 0x21, body := bytes32 stamp ++ group :: writeBody 5 0 [7] }
    let queued := base.modBranch 0 fun br => { br with queue := List.replicate 16 { write5 with body := .posted [] } }
    let many : State := { base with releaseQueue := List.replicate 32 { timed5 with rt := ⟨2, 2⟩ } }
    let inside (stamp : Stamp) : Prop := -(base.lateWindow.toNat : Int) ≤ (stamp - base.stamp).toInt ∧
      (stamp - base.stamp).toInt ≤ 2 ^ 30
    ((head queued (f 0x12)).Ready (f 0x12) [] ∧ (head queued (f 0x13)).Ready (f 0x13) [] ∧
      (head base (tw 0x40000001 1)).Ready (tw 0x40000001 1) [] ∧
      (head base (latchFrame 0x21 0 1 4 1)).Ready (latchFrame 0x21 0 1 4 1) []) ∧
    ((head queued (f 0x12)).routeFor 6 .forWrite (some (ReqTag.ofByte 0x21).requester) 0 1 = .error .noRoute ∧
      (head queued (f 0x12)).routeFor 5 .forWrite (some (ReqTag.ofByte 0x21).requester) 0 1 = .ok snap5) ∧
    (16 ≤ ((head queued (f 0x12)).branch 0).queue.length ∧ (head queued (f 0x12)).live (ReqTag.ofByte 0x21) = false ∧
      (holding base entry5).live (ReqTag.ofByte 0x21) = true) ∧
    (¬inside 0x40000001 ∧ inside 0x40000000 ∧ ¬inside (-1001) ∧ inside (-1000)) ∧
    ((1 : Byte).toNat = (0 : Fin 7).val + 1 ∧ (base.group 0).state ≠ .collecting ∧
      ((collecting base 31 0 0).group 0).state = .collecting ∧ ((collecting base 31 0 0).group 0).members < 32) ∧
    (32 ≤ many.releaseQueue.length ∧ many.live (ReqTag.ofByte 0x21) = false) ∧
    ((4 : Byte) ∈ ([1, 2, 3, 4] : List Byte) ∧ (1 : BitVec 16) ≠ 0) :=
  ⟨⟨ready_head _ _ (by decide), ready_head _ _ (by decide), ready_head _ _ (by decide), ready_head _ _ (by decide)⟩, ⟨rfl, rfl⟩,
    by decide, by decide, by decide, by decide, by decide⟩

theorem met_ReadAccepted :
    let s := head base (readFrame 0x21 5 16 1)
    s.AtHead (readFrame 0x21 5 16 1) [] ∧ s.opState ≠ .offline ∧ 1 ≤ (1 : BitVec 16).toNat ∧ (1 : BitVec 16).toNat ≤ 512 ∧
      s.live (ReqTag.ofByte 0x21) = false ∧
      s.routeFor 5 .forRead (some (ReqTag.ofByte 0x21).requester) (16 : BitVec 16).toNat (1 : BitVec 16).toNat = .ok snap5 ∧
      s.entry 0 = none ∧ (∀ j : Fin 16, j < 0 → s.entry j ≠ none) :=
  ⟨(ready_head _ _ (by decide)).1, by decide, by decide, by decide, by decide, rfl, by decide, by decide⟩

theorem met_WritesAccepted :
    let f (kind : Byte) : Frame := { kind := kind, reqtag := 0x21, body := writeBody 5 0 [] }
    let s := head (base.modBranch 0 fun br => { br with queue := List.replicate 15 write5 })
    ([] : List Byte).length ≤ 64 ∧ (s (f 0x12)).opState ≠ .offline ∧
      (s (f 0x12)).routeFor 5 .forWrite (some (ReqTag.ofByte 0x21).requester) 0 0 = .ok snap5 ∧
      ((s (f 0x12)).branch snap5.branch).queue.length < 16 ∧ (s (f 0x12)).AtHead (f 0x12) [] ∧
      (s (f 0x13)).AtHead (f 0x13) [] ∧ (s (f 0x13)).live (ReqTag.ofByte 0x21) = false :=
  ⟨by decide, by decide, rfl, by decide, (ready_head _ _ (by decide)).1, (ready_head _ _ (by decide)).1, by decide⟩

theorem met_TimedWriteAccepted :
    let f (group : Byte) (stamp : Stamp) : Frame :=
      { kind := 0x14, reqtag := 0x21, body := bytes32 stamp ++ group :: writeBody 5 0 [7] }
    let s (group : Byte) (stamp : Stamp) := head (collecting base 31 0 0) (f group stamp)
    (([7] : List Byte).length ≤ 64 ∧ (s 0 0).opState ≠ .offline ∧ (s 0 0).live (ReqTag.ofByte 0x21) = false ∧
      (s 0 0).routeFor 5 .forWrite (some (ReqTag.ofByte 0x21).requester) 0 1 = .ok snap5 ∧ (s 0 0).AtHead (f 0 0) []) ∧
    (let inside (stamp : Stamp) : Prop :=
       -(base.lateWindow.toNat : Int) ≤ (stamp - base.stamp).toInt ∧ (stamp - base.stamp).toInt ≤ 2 ^ 30
     ¬inside 0x40000001 ∧ ¬inside (-1001) ∧ inside 0x40000000 ∧ inside (-1000) ∧ inside 0) ∧
    ((s 0 0).responseQueue.length < 12 ∧ (s 0 0).releaseQueue.length < 32 ∧ 7 < (8 : Byte).toNat ∧
      32 ≤ ({ s 0 0 with releaseQueue := List.replicate 32 timed5 } : State).releaseQueue.length) ∧
    ((1 : Byte).toNat = (0 : Fin 7).val + 1 ∧ ((s 1 0).group 0).state = .collecting ∧ ((s 1 0).group 0).members < 32) ∧
    ((7 : Byte).toNat = (6 : Fin 7).val + 1 ∧ ((s 7 0).group 6).state ≠ .collecting) ∧
    32 ≤ ((collecting base 32 0 0).group 0).members :=
  ⟨⟨by decide, by decide, by decide, rfl, (ready_head _ _ (by decide)).1⟩, by decide, by decide, by decide, by decide,
    by decide⟩

theorem met_TimedLatchAccepted :
    let f := latchFrame 0x21 (-1000) 0xF3 4 1
    let s := head base f
    s.AtHead f [] ∧ s.opState ≠ .offline ∧ LatchAction.ofCode (4 : Byte).toNat = some .pulse ∧
      (LatchAction.pulse = .pulse → (1 : BitVec 16) ≠ 0) ∧ s.live (ReqTag.ofByte 0x21) = false ∧
      (-(s.lateWindow.toNat : Int) ≤ ((-1000 : Stamp) - s.stamp).toInt ∧ ((-1000 : Stamp) - s.stamp).toInt ≤ 2 ^ 30) ∧
      ¬(-(s.lateWindow.toNat : Int) ≤ ((-1001 : Stamp) - s.stamp).toInt ∧ ((-1001 : Stamp) - s.stamp).toInt ≤ 2 ^ 30) ∧
      s.releaseQueue.length < 32 ∧ s.responseQueue.length < 12 ∧
      32 ≤ ({ s with releaseQueue := List.replicate 32 timed5 } : State).releaseQueue.length :=
  ⟨(ready_head _ _ (by decide)).1, by decide, by decide, by decide, by decide, by decide, by decide, by decide, by decide,
    by decide⟩

theorem met_InsertKeepsStampOrder :
    (({ timed5 with overdue := true } : ReleaseEntry).due = true ∧ 1 ≤ ((1 : Stamp) - 0).toInt) ∧
    (({ timed5 with due := false } : ReleaseEntry).due = false ∧ timed5.overdue = false ∧ ((0 : Stamp) - 0).toInt ≤ 0) ∧
    (timed5.due = true ∧ ((0 : Stamp) - 0x80000000).toInt = -(2 ^ 31)) ∧
    ((0 : Stamp) - 0).toInt ≠ -(2 ^ 31) := by decide

theorem met_TimedLatchAccepted_checks :
    ((head base (latchFrame 0x21 0 1 5 1)).Ready (latchFrame 0x21 0 1 5 1) [] ∧ (5 : Byte) ∉ ([1, 2, 3, 4] : List Byte)) ∧
    ((head base (latchFrame 0x21 0 1 4 0)).Ready (latchFrame 0x21 0 1 4 0) [] ∧ (4 : Byte) = 4 ∧ (0 : BitVec 16) = 0) ∧
    ((head base (latchFrame 0x21 0 0 1 0)).AtHead (latchFrame 0x21 0 0 1 0) [] ∧
      LatchAction.ofCode (1 : Byte).toNat = some .set) ∧
    (let e : ReleaseEntry := { latch5 with body := .timedLatch 0 .set 0 }
     (released (full base 15) e).releaseQueue = e :: [] ∧ e.due = true ∧ (released (full base 15) e).opState ≠ .offline ∧
      (released (full base 15) e).responseQueue.length < 16) :=
  ⟨⟨ready_head _ _ (by decide), by decide⟩, ⟨ready_head _ _ (by decide), rfl, rfl⟩,
    ⟨(ready_head _ _ (by decide)).1, by decide⟩, by decide⟩

/-- An entry without pieces, and the cases of its turn: no uncreated bytes, a full queue, a piece that does not fit, one that
fits under a limit below 128 and from 128 on. -/
theorem met_GrantPassCreatesPieces :
    let whole : SplitEntry := { entry5 with length := 512, issued := 0, pieces := [] }
    let s (limit : Nat) : State := { holding base whole with commitLimit := limit }
    base.entry 0 = none ∧ (s 64).entry 0 = some whole ∧ whole.state = .gathering ∧ whole.issued < whole.length ∧
    entry5.length ≤ entry5.issued ∧ 16 ≤ (List.replicate 16 write5).length ∧ ((s 64).branch 0).queue.length < 16 ∧
    (s 64).committed + (min 64 (512 - 0) + 7) / 8 ≤ (s 64).commitLimit ∧
    (s 128).committed + (512 - 0 + 7) / 8 ≤ (s 128).commitLimit ∧
    (let t : State := { (s 64).setEntry 1 (some { entry5 with length := 512, pieces := [⟨16, 512, .queued⟩] }) with
      commitLimit := 64 }
     t.commitLimit < t.committed + (min 64 (512 - 0) + 7) / 8 ∧ t.commitLimit ≤ t.committed) := by decide

/-- A head that waits for a slot of its queue, and heads that do not; what follows at once, and a state in which nothing does;
the end of DRAINING. -/
theorem met_EventEnds :
    let waits : ReleaseEntry := { timed5 with waiting := true }
    let one := base.modBranch 0 fun br => { br with queue := [write5] }
    let answered := base.modBranch 0 fun br => { br with answers := [completion pair1 .ok 0], phase := .posting }
    let last : State := { base with opState := .draining }
    ((released base waits).releaseQueue = waits :: [] ∧ waits.body = .timedWrite none snap5 0 [7] ∧ waits.waiting = true ∧
      waits.due = true ∧ (released base waits).opState ≠ .offline ∧ ((released base waits).branch 0).enabled = true ∧
      ((released base waits).branch 0).queue.length < 16) ∧
    base.releaseQueue = [] ∧ ((released base timed5).releaseQueue = timed5 :: [] ∧ timed5.waiting = false) ∧
    ((contended.intakeTakesSlot 0).isSome = true ∧ contended.headTakesSlot.isSome = true) ∧
    (base.headTakesSlot = none ∧ base.intakeTakesSlot 0 = none ∧ base.judgeHead = none) ∧
    (base.follows = [] ∧ one.follows = [.take 0] ∧ answered.follows = [.post 0] ∧
      (released base timed5).follows = [.judge]) ∧
    ((answered.branch 0).answers = completion pair1 .ok 0 :: [] ∧ (base.branch 1).phase ≠ .idle ∧
      (answered.branch 0).phase ≠ .idle ∧ (base.branch 1).phase ≠ .posting) ∧
    ((released base timed5).judgeHead.isSome = true ∧ (released base timed5).headRow = some .releaseTimedWrite) ∧
    (base.beginsFrame = false ∧ (full base 1).beginsFrame = true) ∧
    (last.opState = .draining ∧ (∀ i, last.entry i = none) ∧ (∀ b, (last.branch b).queue = []) ∧ last.responseQueue = [] ∧
      last.noticePending = false ∧ last.sending = none ∧ last.intake = []) := by decide

theorem met_CancelOfWaitingWork :
    let f := cancelFrame 0x22 1
    let pair := cancelTargetOf 0x22 1
    ((head base f).Ready f [] ∧ (head base f).live pair = false) ∧
    (let s := head (holding base { entry5 with state := .delivering }) f
     s.placeOf pair = some 0 ∧ s.entry 0 = some { entry5 with state := .delivering }) ∧
    (let s := head (base.modBranch 0 fun br =>
       { br with queue := [{ write5 with body := .confirmed pair1 [7] }] }) f
     s.live pair = true ∧ s.placeOf pair = none ∧ s.releaseQueue = []) ∧
    (let s := head (released base timed5) f
     s.placeOf pair = none ∧ s.releaseQueue = [] ++ timed5 :: [] ∧ timed5.rt = pair ∧ timed5.member = none) ∧
    (let e : ReleaseEntry := { timed5 with body := .timedWrite (some (0, 1)) snap5 0 [7] }
     let s := head (released (collecting base 1 0 0) e) f
     s.releaseQueue = [] ++ e :: [] ∧ e.member = some (0, (s.group 0).generation) ∧ (s.group 0).state = .collecting ∧
      (s.group 0).done + (s.group 0).failed < (s.group 0).members) :=
  ⟨⟨ready_head _ _ (by decide), by decide⟩, by decide, by decide, by decide, by decide⟩

theorem met_CancelOfRead :
    let f := cancelFrame 0x22 1
    let s := head (holding base entry5) f
    s.Ready f [] ∧ s.opState ≠ .offline ∧ s.placeOf (cancelTargetOf 0x22 1) = some 0 ∧ s.entry 0 = some entry5 ∧
      entry5.state = .gathering ∧ entry5.finalSent = false ∧
      ((reading .stall).branch 0).op = some piece5 ∧ piece5.isPieceOf 0 = true ∧ ((reading .stall).branch 0).told = none ∧
      ((reading .stall).branch 0).phase = .stall ∧ s.headHasWaited = false :=
  ⟨ready_head _ _ (by decide), by decide, by decide, by decide, by decide, by decide, by decide⟩

theorem met_MgmtReadAnswers :
    ((head base (mgmtReadFrame 0x21 0x3D 8)).Ready (mgmtReadFrame 0x21 0x3D 8) [] ∧ 1 ≤ (8 : Byte).toNat ∧ (8 : Byte).toNat ≤ 8 ∧
      (∀ b : Fin 4, ¬(0x3D ≤ 0x45 + 8 * b.val ∧ 0x45 + 8 * b.val < 0x3D + 8)) ∧ ∃ k < 8, registerAt (0x3D + k) = none) ∧
    (∃ rs, registersFrom 0x3F 1 = none ∧ registersFrom 0x46 1 = some rs) ∧
    (head base (mgmtReadFrame 0x21 0x000 1)).Ready (mgmtReadFrame 0x21 0x000 1) [] ∧
    (head base (mgmtReadFrame 0x21 0x029 1)).Ready (mgmtReadFrame 0x21 0x029 1) [] ∧
    (head base (mgmtReadFrame 0x21 (BitVec.ofNat 16 (0x45 + 8 * (3 : Fin 4).val)) 1)).Ready
      (mgmtReadFrame 0x21 (BitVec.ofNat 16 (0x45 + 8 * (3 : Fin 4).val)) 1) [] :=
  ⟨⟨ready_head _ _ (by decide), by decide, by decide, by decide, 0, by decide, by decide⟩, ⟨_, rfl, rfl⟩,
    ready_head _ _ (by decide), ready_head _ _ (by decide), ready_head _ _ (by decide)⟩

/-- The values of the counters fit their fields in a state at work. -/
theorem met_ManagementWordsLayout :
    let s := reading .readData
    let r : FaultRecord := { branch := 3, busAddress := 0x7F, ldn := 255, offset := 65535, status := .nack, more := true }
    (s.commitLimit < 2 ^ 32 ∧ s.committed < 2 ^ 32 ∧ s.occupancy < 2 ^ 32 ∧ s.releaseQueue.length < 2 ^ 32) ∧
    (s.fault = none ∧ ({ s with fault := some r } : State).fault = some r ∧ r.offset < 2 ^ 32) ∧
    (∀ b, (s.branch b).retryCount < 2 ^ 5 ∧ (s.branch b).answers.length < 2 ^ 9 ∧ (s.branch b).queue.length < 2 ^ 32 ∧
      (s.attn b).length < 2 ^ 6) ∧
    (∀ g, (s.group g).members < 2 ^ 6 ∧ (s.group g).done < 2 ^ 6 ∧ (s.group g).failed < 2 ^ 6) ∧ s.entry 1 = none ∧
    s.entry 0 = some { entry5 with pieces := [{ offset := 16, length := 8, state := .active }] } ∧
    (entry5.pieces.length < 2 ^ 4 ∧ entry5.start < 2 ^ 16 ∧ entry5.length < 2 ^ 10 ∧ entry5.issued < 2 ^ 10 ∧
      entry5.received < 2 ^ 10 ∧ entry5.sent < 2 ^ 10) ∧
    (0x03F ≤ 0x03F ∧ 0x0E0 ≤ 0xFFFF) := by decide

/-- The image of route5. -/
def image5 : List Byte := [5, 0x80, 0, 0x20, 0, 0x10, 0x30, 2]

/-- A table with 64 entries, LDN 64 to 127. -/
def fullTable : State :=
  { base with routes := (List.range 64).map fun k => { route5 with ldn := BitVec.ofNat 8 (64 + k) } }

theorem met_TableInsertAdds :
    ((head base (tableFrame 0x21 1 image5)).Ready (tableFrame 0x21 1 image5) [] ∧ base.opState ≠ .offline ∧ image5.length = 8) ∧
    FaultyImage 5 0xC0 0 0x20 0 0x10 0x30 2 ∧ entryOfImage image5 = some route5 ∧
    findRoute base.routes route5.ldn = some route5 ∧
    (findRoute fullTable.routes route5.ldn = none ∧ 64 ≤ fullTable.routes.length) ∧
    (findRoute (fullTable.routes.drop 1) route5.ldn = none ∧ (fullTable.routes.drop 1).length < 64) :=
  ⟨⟨ready_head _ _ (by decide), by decide, by decide⟩, .inl (by decide), by decide, by decide, by decide +kernel,
    by decide +kernel⟩

/-- An image of route5 is not faulty. -/
theorem met_TableInsertAdds_good : ¬FaultyImage 5 0x80 0 0x20 0 0x10 0x30 2 := by unfold FaultyImage; decide

theorem met_TableReplaceRemove :
    ((head base (tableFrame 0x21 2 image5)).Ready (tableFrame 0x21 2 image5) [] ∧ base.opState ≠ .offline ∧
      image5.length = 8) ∧
    entryOfImage [5, 0xC0, 0, 0x20, 0, 0x10, 0x30, 2] = none ∧
    (entryOfImage image5 = some route5 ∧ findRoute State.reset.routes 5 = none) ∧ findRoute base.routes 5 = some route5 ∧
    (head base (tableFrame 0x21 3 [5])).Ready (tableFrame 0x21 3 [5]) [] ∧ findRoute base.routes 6 = none ∧
    base.routes.Pairwise (fun x y => x.ldn.toNat < y.ldn.toNat) :=
  ⟨⟨ready_head _ _ (by decide), by decide, by decide⟩, by decide, by decide, by decide, ready_head _ _ (by decide), by decide,
    by decide⟩

theorem met_TableLookupNextClear :
    ((head base (tableFrame 0x21 4 [5])).Ready (tableFrame 0x21 4 [5]) [] ∧ base.opState ≠ .offline ∧
      findRoute base.routes 6 = none ∧ findRoute base.routes 5 = some route5) ∧
    (∃ e, findRoute example16.routes 11 = some e ∧ e.device = .aliasOf 10) ∧
    ((head base (tableFrame 0x21 5 [255])).Ready (tableFrame 0x21 5 [255]) [] ∧
      base.routes.Pairwise (fun x y => x.ldn.toNat < y.ldn.toNat) ∧ ∀ e ∈ base.routes, e.ldn.toNat ≤ (255 : Byte).toNat) ∧
    (route5 ∈ base.routes ∧ (4 : Byte).toNat < route5.ldn.toNat ∧
      ∀ x ∈ base.routes, (4 : Byte).toNat < x.ldn.toNat → route5.ldn.toNat ≤ x.ldn.toNat) ∧
    (head base (tableFrame 0x21 6 [])).Ready (tableFrame 0x21 6 []) [] ∧ State.reset.routes = [] :=
  ⟨⟨ready_head _ _ (by decide), by decide, by decide, by decide⟩, ⟨_, rfl, rfl⟩,
    ⟨ready_head _ _ (by decide), by decide, by decide⟩, by decide, ready_head _ _ (by decide), by decide⟩

theorem met_CommitLimitWritten : (wrote base 0x020 64).Ready (mgmtWriteFrame 0x21 0 0x020 64) [] :=
  ready_wrote _ _ _ (by decide)

theorem met_RegisterFieldsWritten :
    ((wrote base 0x028 7).Ready (mgmtWriteFrame 0x21 0 0x028 7) [] ∧ (7 : Word).toNat = (7 : Fin 8).val ∧ 7 < (8 : Word).toNat) ∧
    (wrote base 0x030 0x7FF).Ready (mgmtWriteFrame 0x21 0 0x030 0x7FF) [] ∧
    (wrote base 0x034 0).Ready (mgmtWriteFrame 0x21 0 0x034 0) [] ∧
    ((wrote base 0x02A 65535).Ready (mgmtWriteFrame 0x21 0 0x02A 65535) [] ∧
      (65535 : Word).toNat = (65535 : BitVec 16).toNat ∧ 65535 < (65536 : Word).toNat) ∧
    ((wrote base 0x027 1).Ready (mgmtWriteFrame 0x21 0 (BitVec.ofNat 16 (0x024 + (3 : Fin 4).val)) 1) [] ∧
      (1 : Word).toNat = (1 : BitVec 24).toNat ∧ (1 : BitVec 24) ≠ 0 ∧ 16777215 < (16777216 : Word).toNat) ∧
    ((wrote base 0x041 255).Ready (mgmtWriteFrame 0x21 0 (BitVec.ofNat 16 (0x041 + 8 * (0 : Fin 4).val)) 255) [] ∧
      (255 : Word).toNat = (255 : Byte).toNat ∧ 255 < (256 : Word).toNat) ∧
    (wrote base 0x05A 0).Ready (mgmtWriteFrame 0x21 0 (BitVec.ofNat 16 (0x042 + 8 * (3 : Fin 4).val)) 0) [] ∧
    (wrote base 0x05B 1).Ready (mgmtWriteFrame 0x21 0 (BitVec.ofNat 16 (0x043 + 8 * (3 : Fin 4).val)) 1) [] ∧
    (wrote base 0x044 1).Ready (mgmtWriteFrame 0x21 0 (BitVec.ofNat 16 (0x044 + 8 * (0 : Fin 4).val)) 1) [] ∧
    ((wrote base 0x08D 0x10405).Ready (mgmtWriteFrame 0x21 0 (BitVec.ofNat 16 (0x075 + 4 * (6 : Fin 7).val)) 0x10405) [] ∧
      ((0x10405 : Word).extractLsb' 8 3).toNat = LatchAction.code .pulse ∧
      ((0x10405 : Word).extractLsb' 16 2).toNat = GroupPolicy.code .fireAnyway) ∧
    ((0x20105 : Word).extractLsb' 16 2 ∉ ([0, 1] : List (BitVec 2)) ∧
      (0x00505 : Word).extractLsb' 8 3 ∉ ([1, 2, 3, 4] : List (BitVec 3))) ∧
    ((wrote base 0x076 65535).Ready (mgmtWriteFrame 0x21 0 (BitVec.ofNat 16 (0x076 + 4 * (0 : Fin 7).val)) 65535) [] ∧
      (65535 : Word).toNat = (65535 : BitVec 16).toNat ∧ (65535 : BitVec 16) ≠ 0 ∧ 65535 < (65536 : Word).toNat) :=
  ⟨⟨ready_wrote _ _ _ (by decide), by decide, by decide⟩, ready_wrote _ _ _ (by decide), ready_wrote _ _ _ (by decide),
    ⟨ready_wrote _ _ _ (by decide), by decide, by decide⟩, ⟨ready_wrote _ _ _ (by decide), by decide, by decide, by decide⟩,
    ⟨ready_wrote _ _ _ (by decide), by decide, by decide⟩, ready_wrote _ _ _ (by decide), ready_wrote _ _ _ (by decide),
    ready_wrote _ _ _ (by decide), ⟨ready_wrote _ _ _ (by decide), by decide, by decide⟩, by decide,
    ready_wrote _ _ _ (by decide), by decide, by decide, by decide⟩

/-- A running counter against a limit that is lowered below it, and one that it does not exceed. -/
theorem met_RegisterFieldsWritten_limits :
    let s := (running base write5 .address).modBranch 0 fun br => { br with stretchCounter := 1001 }
    let busy := base.modBranch 0 fun br => { br with bus := .busyOther, busyTimer := 1001 }
    ((s.branch 0).phase ∈
        ([.start, .address, .subaddress, .writeData, .restart, .readData, .stop, .clearing] : List Phase) ∧
      (1 : Byte) ≠ 0 ∧ (1 : Byte).toNat * 1000 < (s.branch 0).stretchCounter ∧
      (s.branch 0).stretchCounter ≤ (2 : Byte).toNat * 1000) ∧
    ((base.branch 0).phase ∉
        ([.start, .address, .subaddress, .writeData, .restart, .readData, .stop, .clearing] : List Phase)) ∧
    ((busy.branch 0).enabled = true ∧ (busy.branch 0).bus = .busyOther ∧ (busy.branch 0).busyFlagged = false ∧
      (1 : Byte).toNat * 1000 < (busy.branch 0).busyTimer) := by decide

theorem met_FlagsAndNotices_writes :
    let s : State := { base with flags := 1, noticeArm := true, noticeMask := 1 }
    ((wrote s 0x031 1).Ready (mgmtWriteFrame 0x21 0 0x031 1) [] ∧ (wrote s 0x031 1).noticeArm = true ∧
      (wrote s 0x031 1).flag .intakeOverrun = true ∧ (1 : Word).getLsbD EventFlag.intakeOverrun.bit = true) ∧
    (wrote base 0x031 1).noticeArm = false ∧
    ((wrote s 0x032 1).Ready (mgmtWriteFrame 0x21 0 0x032 1) [] ∧ (1 : Word).getLsbD 0 = true ∧
      (wrote s 0x032 1).noticeMask.getLsbD EventFlag.intakeOverrun.bit = true) ∧ (0 : Word).getLsbD 0 = false :=
  ⟨⟨ready_wrote _ _ _ (by decide), by decide, by decide, by decide⟩, by decide,
    ⟨ready_wrote _ _ _ (by decide), by decide, by decide⟩, by decide⟩

/-- Two words at 0x02A: LATE WINDOW, and the read-only depth of the Release Queue; then an unmapped word and a refused one. -/
theorem met_LongWriteStops :
    let w (a : BitVec 16) (l : List Word) := head base (mgmtWritesFrame 0x21 0 a l)
    ((w 0x02A [5, 0]).Ready (mgmtWritesFrame 0x21 0 0x02A [5, 0]) [] ∧ ([0] : List Word).length ≤ 7 ∧
      ([5, 0] : List Word) = [5] ++ 0 :: [] ∧
      ∃ t, State.Applied ((w 0x02A [5, 0]).writeTaken [] 0x21 0 .ok) (0x02A : BitVec 16).toNat [5] t ∧
        ∃ r u, registerAt ((0x02A : BitVec 16).toNat + 1) = some r ∧ t.writeWord r 0 = .applied u) ∧
    (([5, 0, 0] : List Word) = [5, 0] ++ 0 :: [] ∧ registerAt ((0x02A : BitVec 16).toNat + 2) = none) ∧
    (registerAt ((0x027 : BitVec 16).toNat + 1) = some .tickShift ∧ base.writeWord .tickShift 8 = .stops .badField) ∧
    ((w 0x02A [5, 0, 0]).Ready (mgmtWritesFrame 0x21 0 0x02A [5, 0, 0]) [] ∧ (5 : Word).toNat = (5 : BitVec 16).toNat) ∧
    ((w 0x027 [5, 8, 0]).Ready (mgmtWritesFrame 0x21 0 0x027 [5, 8, 0]) [] ∧
      (5 : Word).toNat = (5 : BitVec 24).toNat ∧ (5 : BitVec 24) ≠ 0 ∧ 7 < (8 : Word).toNat) ∧
    ((wrote base 0x0E0 0).Ready (mgmtWriteFrame 0x21 0 0x0E0 0) [] ∧ registerAt (0x0E0 : BitVec 16).toNat = none) ∧
    (wrote base 0x0B0 9).Ready (mgmtWriteFrame 0x21 0 0x0B0 9) [] :=
  ⟨⟨ready_head _ _ (by decide), by decide, rfl, _, ⟨_, _, rfl, rfl, rfl⟩, _, _, rfl, rfl⟩, by decide, ⟨by decide, rfl⟩,
    ⟨ready_head _ _ (by decide), by decide⟩, ⟨ready_head _ _ (by decide), by decide, by decide, by decide⟩,
    ⟨ready_wrote _ _ _ (by decide), by decide⟩, ready_wrote _ _ _ (by decide)⟩

theorem met_StateWrites :
    let s (o : OpState) (w : Word) := wrote { base with opState := o } 0x008 w
    ((s .active 1).Ready (mgmtWriteFrame 0x21 0 0x008 1) [] ∧ (s .draining 1).Ready (mgmtWriteFrame 0x21 0 0x008 1) [] ∧
      (s .offline 1).Ready (mgmtWriteFrame 0x21 0 0x008 1) []) ∧
    ((s .active 0).Ready (mgmtWriteFrame 0x21 0 0x008 0) [] ∧ (s .draining 0).Ready (mgmtWriteFrame 0x21 0 0x008 0) [] ∧
      (s .offline 0).Ready (mgmtWriteFrame 0x21 0 0x008 0) []) ∧
    (s .offline 3).Ready (mgmtWriteFrame 0x21 0 0x008 3) [] ∧
    ((s .active 2).Ready (mgmtWriteFrame 0x21 0 0x008 2) [] ∧ (s .offline 4).Ready (mgmtWriteFrame 0x21 0 0x008 4) [] ∧
      (s .active 5).Ready (mgmtWriteFrame 0x21 0 0x008 5) [] ∧ 5 ≤ (5 : Word).toNat) ∧
    ((wrote base 0x009 0).Ready (mgmtWriteFrame 0x21 0 0x009 0) [] ∧
      (wrote base 0x009 0x14).Ready (mgmtWriteFrame 0x21 0 0x009 0x14) [] ∧
      (0x14 : Word) ∉ ([0, 1, 0x10, 0x11, 0x12, 0x13] : List Word)) :=
  ⟨⟨ready_wrote _ _ _ (by decide), ready_wrote _ _ _ (by decide), ready_wrote _ _ _ (by decide)⟩,
    ⟨ready_wrote _ _ _ (by decide), ready_wrote _ _ _ (by decide), ready_wrote _ _ _ (by decide)⟩,
    ready_wrote _ _ _ (by decide),
    ⟨ready_wrote _ _ _ (by decide), ready_wrote _ _ _ (by decide), ready_wrote _ _ _ (by decide), by decide⟩,
    ready_wrote _ _ _ (by decide), ready_wrote _ _ _ (by decide), by decide⟩

theorem met_OfflineEntered :
    let s := wrote ((holding base entry5).modBranch 0 fun br => { br with queue := [write5] }) 0x008 3
    s.Ready (mgmtWriteFrame 0x21 0 0x008 3) [] ∧ s.opState = .active ∧ write5 ∈ (s.branch 0).queue ∧
      write5.tag? = some { requester := 1, tag := 2 } ∧ s.entry 0 = some entry5 ∧ entry5.delivers = true ∧
      s.finalBegun 0 entry5 = false ∧ (((running s write5 .address).branch 0).op = some write5 ∧
      ((running s write5 .address).branch 0).told = none ∧ ((running s write5 .address).branch 0).phase = .address) :=
  ⟨ready_wrote _ _ _ (by decide), by decide, by decide, by decide, by decide, by decide, by decide, by decide⟩

/-- A record with RESET FOLLOWS is being sent. -/
def sendingReset : InFlight := { source := .record true, dataCount := 0, final := false, bytes := [] }

theorem met_ResetValues :
    (∃ t, exec (.coldReset { id := 5, ovc := true, qstart := true }) base = .next t) ∧
    (wrote base 0x009 1).Ready (mgmtWriteFrame 0x21 0 0x009 1) [] ∧
    ({ base with sending := some sendingReset } : State).sending = some sendingReset ∧ sendingReset.source = .record true :=
  ⟨⟨_, rfl⟩, ready_wrote _ _ _ (by decide), rfl, rfl⟩

theorem finalsFit_of_idle (s : State) (h : s.sending = none)
    (he : ∀ i e, s.entry i = some e → e.finalSent = false) : s.FinalsFit where
  gathering i e hi _ := by simp [State.finalBegun, State.inFlightOf, h, he i e hi]
  once i e _ _ := by simp [State.inFlightOf, h]
  held i _ := by simp [State.inFlightOf, h]

theorem met_BranchResetEffects :
    let post : Operation := { write5 with body := .posted [7] }
    let s := wrote ((holding base entry5).modBranch 0 fun br => { br with queue := [write5, post] }) 0x009 0x10
    s.Ready (mgmtWriteFrame 0x21 0 0x009 (BitVec.ofNat 32 (0x10 + (0 : Fin 4).val))) [] ∧ s.FinalsFit ∧
      (s.branch 0).op = none ∧ (s.branch 0).state ≠ .disabled ∧ (s.branch 1).state = .disabled ∧
      (write5 ∈ (s.branch 0).queue ∧ write5.tag? = some { requester := 1, tag := 2 }) ∧ post ∈ (s.branch 0).queue ∧
      (s.entry 0 = some entry5 ∧ entry5.state = .gathering ∧ entry5.route.branch = 0) :=
  ⟨ready_wrote _ _ _ (by decide), finalsFit_of_idle _ rfl (by decide +kernel), by decide, by decide, by decide, by decide,
    by decide, by decide⟩

/-- A branch without posted writes queued, which a reset leaves with an empty fault record. -/
theorem met_BranchResetEffects_no_posted :
    (base.branch 0).op = none ∧ ∀ o ∈ (base.branch 0).queue, ∀ data, o.body ≠ .posted data := by
  refine ⟨by decide, fun o ho => ?_⟩
  have : (base.branch 0).queue = [] := by decide
  rw [this] at ho
  exact absurd ho (List.not_mem_nil)

theorem met_BranchEnableDisable :
    ((wrote base 0x058 0x41).Ready (mgmtWriteFrame 0x21 0 (BitVec.ofNat 16 (0x040 + 8 * (3 : Fin 4).val)) 0x41) [] ∧
      (0x41 : Word).getLsbD 0 = true ∧ 3 < ((0x41 : Word).extractLsb' 4 3).toNat) ∧
    ((0x40 : Word).getLsbD 0 = false ∧ 3 < ((0x40 : Word).extractLsb' 4 3).toNat) ∧
    (Rate.khz1000.code = ((0x31 : Word).extractLsb' 4 3).toNat ∧ ((wrote base 0x058 0x31).branch 3).enabled = false ∧
      ((wrote base 0x058 0x31).branch 3).phase = .disabled) ∧
    ((wrote base 0x040 0x31).branch 0).enabled = true ∧
    ((0x30 : Word).getLsbD 0 = false ∧ ((wrote base 0x058 0x30).branch 3).enabled = false) ∧
    ((wrote base 0x040 0x30).branch 0).enabled = true :=
  ⟨⟨ready_wrote _ _ _ (by decide), by decide, by decide⟩, by decide, by decide, by decide, by decide, by decide⟩

theorem met_StampCounterMoves :
    base.opState ≠ .quiet ∧
    (let s := released { base with opState := .quiet } { timed5 with due := false, stamp := 1 }
     s.opState = .quiet ∧ ∃ e ∈ s.releaseQueue, e.due = false ∧ isDue (s.stamp + 1) e.stamp = true) ∧
    (let s := released { base with opState := .quiet } timed5
     s.opState = .quiet ∧ ∀ e ∈ s.releaseQueue, e.due = true ∨ isDue (s.stamp + 1) e.stamp = false) ∧
    ((wrote base 0x029 1999).Ready (mgmtWriteFrame 0x21 0 0x029 1999) [] ∧
      ∀ i, State.expiryDue { wrote (holding base entry5) 0x029 1999 with stamp := 1999 } i = false) ∧
    (let s := wrote (holding base entry5) 0x029 2000
     s.entry 0 = some entry5 ∧ State.expiryDue { s with stamp := 2000 } 0 = true ∧ entry5.route.timeoutPolicy = .abandon) :=
  ⟨by decide, ⟨by decide, _, List.mem_singleton.2 rfl, by decide, by decide⟩, by decide,
    ⟨ready_wrote _ _ _ (by decide), by decide⟩, by decide⟩

theorem met_GroupCommands :
    ((wrote base 0x08C 1).Ready (mgmtWriteFrame 0x21 0 (BitVec.ofNat 16 (0x074 + 4 * (6 : Fin 7).val)) 1) [] ∧
      ((wrote base 0x08C 1).group 6).state = .idle) ∧
    ((wrote (collecting base 0 0 0) 0x074 1).Ready (mgmtWriteFrame 0x21 0 (BitVec.ofNat 16 (0x074 + 4 * (0 : Fin 7).val)) 1) [] ∧
      ((wrote (collecting base 0 0 0) 0x074 1).group 0).state ≠ .idle) ∧
    ((collecting base 0 0 0).group 0).generation ≠ 0 :=
  ⟨⟨ready_wrote _ _ _ (by decide), by decide⟩, ⟨ready_wrote _ _ _ (by decide), by decide⟩, by decide⟩

/-- Reports that are ignored, that are counted, and that make an ARMED group fire or fail. -/
theorem met_GroupCommands_reports :
    let armed (members done failed : Nat) := (collecting base members done failed).modGroup 0 fun g => { g with state := .armed }
    (base.group 0).state = .idle ∧ ((collecting base 1 0 0).group 0).generation ≠ 2 ∧
    (let x := (collecting base 1 1 0).group 0
     x.members ≤ x.done + x.failed) ∧
    (let x := (collecting base 1 0 0).group 0
     x.state ≠ .idle ∧ x.generation = 1 ∧ x.done + x.failed < x.members ∧ x.state = .collecting) ∧
    (let x := (armed 2 1 0).group 0
     x.state = .armed ∧ x.done + 1 + x.failed = x.members ∧ x.failed = 0 ∧ x.done + (x.failed + 1) = x.members ∧
      x.failed + 1 ≠ 0 ∧ x.policy = .hold ∧ x.done + x.failed = x.members - 1) := by decide

theorem met_GroupCommands_close :
    let s (g : State) := wrote g 0x074 2
    (∀ g : State, g.opState = .active → g.intakeStopped = false → g.responseQueue = [] →
      (s g).Ready (mgmtWriteFrame 0x21 0 (BitVec.ofNat 16 (0x074 + 4 * (0 : Fin 7).val)) 2) []) ∧
    ((s base).group 0).state ≠ .collecting ∧
    (((s (collecting base 1 0 0)).group 0).state = .collecting ∧ 0 + 0 ≠ ((s (collecting base 1 0 0)).group 0).members) ∧
    (let x := (s (collecting base 0 0 0)).group 0
     x.state = .collecting ∧ x.done + x.failed = x.members ∧ x.failed = 0) ∧
    (let x := (s (collecting base 2 1 1)).group 0
     x.state = .collecting ∧ x.done + x.failed = x.members ∧ x.failed ≠ 0 ∧ x.policy = .hold) ∧
    (wrote base 0x074 3).Ready (mgmtWriteFrame 0x21 0 (BitVec.ofNat 16 (0x074 + 4 * (0 : Fin 7).val)) 3) [] :=
  ⟨fun g h1 h2 h3 => ready_wrote _ _ _ ⟨.inl h1, h2, by rw [h3]; decide⟩, by decide, by decide, by decide, by decide,
    ready_wrote _ _ _ (by decide)⟩

theorem met_AttentionEntryWritten :
    let low : State := base.modAttn 3 fun a => { a with line := false }
    ((wrote base 0x06C 5).Ready (mgmtWriteFrame 0x21 0 (BitVec.ofNat 16 (0x060 + 4 * (3 : Fin 4).val)) 5) [] ∧
      (5 : Word).extractLsb' 1 2 = 2 ∧ (7 : Word).extractLsb' 1 2 = 3) ∧
    ((1 : Word).extractLsb' 1 2 = 0 ∧ (3 : Word).extractLsb' 1 2 = 1 ∧ (base.attn 3).line = true) ∧
    ((3 : Word).getLsbD 0 = true ∧ low.opState ≠ .offline ∧ (low.attn 3).line = false ∧ (low.attn 3).status = .idle ∧
      (low.attn 3).pending = false ∧ (low.attn 3).length = 0) ∧
    ((wrote base 0x061 5).Ready (mgmtWriteFrame 0x21 0 (BitVec.ofNat 16 (0x061 + 4 * (0 : Fin 4).val)) 5) [] ∧
      (base.attn 0).levelSpent = false) ∧
    ((wrote base 0x062 0x2000).Ready (mgmtWriteFrame 0x21 0 (BitVec.ofNat 16 (0x062 + 4 * (0 : Fin 4).val)) 0x2000) [] ∧
      ((0x2000 : Word).extractLsb' 8 6).toNat = 32 ∧ ((0x2100 : Word).extractLsb' 8 6).toNat = 33 ∧
      ((0x100 : Word).extractLsb' 8 6).toNat = 1 ∧ ((5 : Word).extractLsb' 8 6).toNat = 0) :=
  ⟨⟨ready_wrote _ _ _ (by decide), by decide, by decide⟩, by decide, by decide, ⟨ready_wrote _ _ _ (by decide), by decide⟩,
    ready_wrote _ _ _ (by decide), by decide, by decide, by decide, by decide⟩

theorem met_EngineTakesOperation :
    let s := (holding base entry5).modBranch 0 fun br => { br with queue := [piece5] }
    ((s.branch 0).phase = .idle ∧ (s.branch 0).resetting = false ∧ (s.branch 0).answers = [] ∧
      (s.branch 0).queue = piece5 :: [] ∧ s.opState = .active) ∧
    (piece5.body = .readPiece 0 8 true ∧ s.entry 0 = some entry5 ∧ s.headHasWaited = false) ∧ (base.branch 0).queue = [] ∧
    (base.branch 1).phase ≠ .idle := by decide

theorem met_WaitsForTheBus :
    let s := running base write5
    let freed (x : State) := x.modBranch 0 fun br => { br with bus := .free }
    ((s .gap).branch 0).op = some write5 ∧ ((s .gap).branch 0).phase = .gap ∧
    ((s .pause).branch 0).phase = .pause ∧ ((s .pause).branch 0).bus ≠ .free ∧
    ((freed (s .pause)).branch 0).phase = .pause ∧ ((freed (s .pause)).branch 0).bus = .free ∧
    ((s .restart).branch 0).phase = .restart ∧
    ((base.branch 0).op = none ∧ (base.branch 0).phase = .idle ∧ (base.branch 0).bus = .free) ∧
    ((freed (s .gap)).branch 0).bus ≠ .busyOther ∧ (base.branch 0).phase ≠ .stall ∧
    (((s .busyOther).branch 0).phase = .busyOther ∧ ((s .busyOther).branch 0).gap ≠ 0) ∧
    (let t := (s .stop).modBranch 0 fun br => { br with stopReason := .addressNack, retryCount := 2 }
     (t.branch 0).op = some write5 ∧ (t.branch 0).phase = .stop ∧ (t.branch 0).told = none ∧
      (t.branch 0).stopReason = .addressNack ∧ (t.branch 0).retryCount ≤ write5.retryLimit.val ∧
      (t.branch 0).retryPause ≠ 0) ∧
    (let z := (s .busyOther).modBranch 0 fun br => { br with gap := 0, retryPause := 0 }
     (z.branch 0).gap = 0 ∧ (z.branch 0).retryPause = 0) := by decide

/-- A write is no later piece of a read. -/
theorem met_WaitsForTheBus_write : ∀ i n first, write5.body = .readPiece i n first → first = true := by
  intro i n first h
  exact OpBody.noConfusion h

theorem met_ArbitrationLost :
    let s := running base write5 .address
    let t := s.modBranch 0 fun br => { br with retryCount := 2 }
    ((s.branch 0).op = some write5 ∧ (s.branch 0).told = none ∧
      (s.branch 0).phase ∈ ([.start, .address, .subaddress, .writeData, .restart, .readData] : List Phase) ∧
      (s.branch 0).retryCount + 1 ≤ write5.retryLimit.val) ∧
    (write5.retryLimit.val < (t.branch 0).retryCount + 1 ∧
      write5.body = .confirmed { requester := 1, tag := 2 } [7, 8]) := by decide

/-- A loss on each kind of STOP, and on the STOP after a piece's last byte. -/
theorem met_ArbitrationLost_stop :
    let s (r : StopReason) (n : Nat) := (running base write5 .stop).modBranch 0 fun br =>
      { br with stopReason := r, retryCount := n }
    let e : SplitEntry := { entry5 with pieces := [{ offset := 16, length := 8, state := .active }], received := 8 }
    let t := running (holding base e) piece5 .stop
    (∀ r n, ((s r n).branch 0).op = some write5 ∧ ((s r n).branch 0).told = none ∧ ((s r n).branch 0).phase = .stop ∧
      ((s r n).branch 0).stopReason = r ∧ ((s r n).branch 0).retryCount = n) ∧ 2 ≤ write5.retryLimit.val ∧
    write5.retryLimit.val < 3 ∧
    ((t.branch 0).op = some piece5 ∧ (t.branch 0).told = none ∧ (t.branch 0).phase = .stop ∧
      (t.branch 0).stopReason = .done ∧ piece5.body = .readPiece 0 8 true ∧ t.entry 0 = some e ∧ e.state = .gathering ∧
      e.finalSent = false ∧ piece5.offset + 8 ≤ e.start + e.received) :=
  ⟨fun _ _ => ⟨rfl, rfl, rfl, rfl, rfl⟩, by decide, by decide, by decide⟩

/-- The states in which bytes are sent: a write of width 1, one of width 2, the general call, and a piece that reads. -/
theorem met_BytesOnTheBus :
    let br (o : Operation) (p : Phase) : Branch := (running base o p).branch 0
    (br write5 .address).op = some write5 ∧ (br write5 .address).phase = .address ∧
    ((br { write5 with busAddress := 0 } .address).progress.readDirection = false) ∧
    ((br write5 .subaddress).phase = .subaddress ∧ write5.width = 1 ∧ (br write5 .subaddress).progress.subaddressDone = 0) ∧
    ({ write5 with width := 2 } : Operation).width = 2 ∧ (br write5 .writeData).phase = .writeData ∧
    (br write5 .start).phase ∉ ([.address, .subaddress, .writeData] : List Phase) ∧
    (((reading .readData).branch 0).op = some piece5 ∧ piece5.body = .readPiece 0 8 true ∧
      ((reading .readData).branch 0).phase = .readData ∧ ((reading .readData).branch 0).givesAck 8 = true ∧
      ((reading .readData).branch 0).givesAck 1 = false) ∧
    (let s := reading .subaddress
     (s.branch 0).op = some piece5 ∧ piece5.isRead = true ∧ (s.branch 0).told = none ∧ (s.branch 0).phase = .subaddress ∧
      (s.branch 0).progress.subaddressDone + 1 = piece5.width.val) := by decide

/-- Engines to be told and engines told, in each state that the clauses name. -/
theorem met_RunsToldToEnd :
    let s := running base write5
    let told (x : State) := x.modBranch 0 fun br => { br with told := some .branchReset }
    (((s .start).branch 0).op = some write5 ∧ ((s .restart).branch 0).phase = .restart ∧
      ((reading .stall).branch 0).phase = .stall ∧ ((s .writeData).branch 0).phase = .writeData ∧
      ((s .gap).branch 0).phase = .gap ∧ ((s .busyOther).branch 0).phase = .busyOther ∧ ((s .pause).branch 0).phase = .pause ∧
      ((s .gap).branch 0).progress = Progress.none ∧ write5.body = .confirmed { requester := 1, tag := 2 } [7, 8]) ∧
    (((told (s .address)).branch 0).op = some write5 ∧ ((told (s .address)).branch 0).told = some .branchReset ∧
      ((told (s .address)).branch 0).phase = .address) ∧
    (piece5.body = .readPiece 0 8 true ∧ ((told (reading .readData)).branch 0).phase = .readData ∧
      ((told (reading .readData)).branch 0).told = some .branchReset) ∧
    (((told (s .stop)).branch 0).phase = .stop ∧ ((told (s .stop)).branch 0).progress.addressAcked = false) ∧
    (let t := (told (s .stop)).modBranch 0 fun br =>
      { br with progress := { br.progress with addressAcked := true, subaddressDone := 1, dataDone := 2 } }
     (t.branch 0).progress.addressAcked = true ∧ (t.branch 0).progress.subaddressDone = write5.width.val ∧
      (t.branch 0).progress.dataDone = write5.data.length) ∧
    (let post : Operation := { write5 with body := .posted [7] }
     let timed : Operation := { write5 with body := .timed pair1 [7] none }
     ((running base post .stop).branch 0).op = some post ∧ ((running base timed .stop).branch 0).op = some timed ∧
      write5.tag? = some { requester := 1, tag := 2 }) := by decide

theorem met_AcksAndNacks :
    let s := running base write5
    (((s .start).branch 0).op = some write5 ∧ write5.isRead = false ∧ ((s .start).branch 0).told = none ∧
      ((s .start).branch 0).progress.readDirection = false ∧
      ((s .start).branch 0).phase ∈ ([.start, .address, .restart] : List Phase)) ∧
    ((s .subaddress).branch 0).phase = .subaddress ∧ ((s .writeData).branch 0).phase = .writeData := by decide

theorem met_AcksAndNacks_nacks :
    let s := running base write5
    (((s .address).branch 0).op = some write5 ∧ ((s .address).branch 0).told = none ∧
      ((s .address).branch 0).phase ∈ ([.start, .address, .restart] : List Phase)) ∧
    ((s .subaddress).branch 0).phase = .subaddress ∧ ((s .writeData).branch 0).phase = .writeData := by decide

theorem met_ReadsAskForRoom :
    let s := reading .subaddress
    let t := (reading .restart).modBranch 0 fun br => { br with progress := { br.progress with readDirection := true } }
    let e : SplitEntry := { entry5 with pieces := [{ offset := 16, length := 8, state := .active }] }
    ((s.branch 0).op = some piece5 ∧ piece5.body = .readPiece 0 8 true ∧ (s.branch 0).told = none ∧
      (s.branch 0).phase = .subaddress ∧ (s.branch 0).progress.subaddressDone + 1 = piece5.width.val) ∧
    (((reading .address).branch 0).phase ∈ ([.start, .address, .restart] : List Phase) ∧
      ((reading .address).branch 0).progress.readDirection = false ∧ piece5.width ≠ 0) ∧
    (s.branch 0).progress.subaddressDone + 1 < ({ piece5 with width := 2 } : Operation).width.val ∧
    ((t.branch 0).phase ∈ ([.start, .address, .restart] : List Phase) ∧ (t.branch 0).progress.readDirection = true ∧
      t.entry 0 = some e ∧ e.state = .gathering) ∧
    (piece5.offset + (t.branch 0).progress.dataDone = e.start + e.received ∧ t.occupancy < 512) ∧
    piece5.offset + 0 ≠ ({ e with received := 1 } : SplitEntry).start + 1 := by decide

/-- The buffer is full: 512 bytes are held in place 1. -/
def bufferFull (s : State) : State := s.setEntry 1 (some { entry5 with held := List.replicate 512 0, pieces := [] })

theorem met_ReadsAskForRoom_full : 512 ≤ (bufferFull (reading .restart)).occupancy := by decide +kernel

theorem met_ReadByteStored :
    let t (done : Nat) := (reading .readData).modBranch 0 fun br =>
      { br with progress := { br.progress with reserved := true, dataDone := done } }
    let e (received : Nat) : SplitEntry :=
      { entry5 with pieces := [{ offset := 16, length := 8, state := .active }], received := received }
    (((t 0).branch 0).op = some piece5 ∧ piece5.body = .readPiece 0 8 true ∧ ((t 0).branch 0).told = none ∧
      ((t 0).branch 0).phase = .readData ∧ (t 0).entry 0 = some (e 0) ∧ (e 0).state = .gathering ∧
      piece5.offset + ((t 0).branch 0).progress.dataDone = (e 0).start + (e 0).received ∧
      ((t 0).branch 0).progress.reserved = true) ∧
    (((t 0).branch 0).progress.dataDone + 1 < 8 ∧ (e 0).received + 1 ≠ (e 0).length ∧ (t 0).occupancy < 512) ∧
    (((t 7).branch 0).progress.dataDone + 1 = 8 ∧ piece5.offset + 7 = (e 7).start + (e 7).received) ∧
    piece5.offset + ((t 7).branch 0).progress.dataDone ≠ (e 0).start + (e 0).received := by decide

theorem met_ReadByteStored_full : 512 ≤ (bufferFull ((reading .readData).modBranch 0 fun br =>
    { br with progress := { br.progress with reserved := true } })).occupancy := by decide +kernel

theorem met_StuckClockAndClears :
    let s := running base write5 .writeData
    let c := base.modBranch 0 fun br => { br with phase := .clearing }
    let busy (flagged : Bool) := base.modBranch 0 fun br =>
      { br with bus := .busyOther, busyFlagged := flagged, busyLimit := 1, busyTimer := 1001 }
    ((s.branch 0).phase ∈
        ([.start, .address, .subaddress, .writeData, .restart, .readData, .stop, .clearing] : List Phase) ∧
      25000 ≤ (s.branch 0).stretchLimit.toNat * 1000 ∧ (base.branch 0).phase = .idle) ∧
    (let t := s.modBranch 0 fun br => { br with stretchCounter := 25001 }
     (t.branch 0).stretchLimit.toNat * 1000 < (t.branch 0).stretchCounter ∧ 0 < (t.branch 0).stretchCounter) ∧
    ((s.branch 0).stretchLimit ≠ 0 ∧ (s.branch 0).stretchLimit.toNat * 1000 < 25001 ∧ (s.branch 0).told = none ∧
      (s.branch 0).op = some write5 ∧ write5.tag? = some { requester := 1, tag := 2 } ∧
      (s.branch 0).progress.dataDone ≠ write5.data.length) ∧
    ((c.branch 0).phase = .clearing ∧ (c.branch 0).stretchLimit ≠ 0 ∧
      (c.branch 0).stretchLimit.toNat * 1000 < 25001) ∧
    (((busy false).branch 0).enabled = true ∧ ((busy false).branch 0).bus = .busyOther ∧
      ((busy false).branch 0).busyFlagged = false ∧ ((busy false).branch 0).busyLimit ≠ 0) ∧
    (((busy true).branch 0).busyFlagged = true ∧
      ((busy true).branch 0).busyLimit.toNat * 1000 < ((busy true).branch 0).busyTimer) := by decide

/-- Runs that a stuck clock ends: told to end, all bytes acknowledged, a posted and a timed write, and a piece. -/
theorem met_StuckClockAndClears_runs :
    let told (x : State) := x.modBranch 0 fun br => { br with told := some .branchReset }
    let done (x : State) := x.modBranch 0 fun br =>
      { br with progress := { br.progress with addressAcked := true, subaddressDone := 1, dataDone := 2 } }
    let post : Operation := { write5 with body := .posted [7] }
    let g := collecting base 1 0 0
    let timed : Operation := { write5 with body := .timed pair1 [7] (some (0, (g.group 0).generation)) }
    let e (st : EntryState) (received : Nat) : SplitEntry :=
      { entry5 with pieces := [{ offset := 16, length := 8, state := .active }], state := st, received := received }
    ((told (running base write5 .writeData)).branch 0).told = some .branchReset ∧
    (let s := done (running base write5 .stop)
     write5.isRead = false ∧ (s.branch 0).progress.addressAcked = true ∧ (s.branch 0).progress.subaddressDone = write5.width.val ∧
      (s.branch 0).progress.dataDone = write5.data.length) ∧
    (((running base post .address).branch 0).op = some post ∧ post.body = .posted [7] ∧ base.fault = none) ∧
    (((running g timed .address).branch 0).op = some timed ∧ (g.group 0).state = .collecting ∧
      (g.group 0).done + (g.group 0).failed < (g.group 0).members) ∧
    (((reading .readData).branch 0).op = some piece5 ∧ (reading .readData).entry 0 = some (e .gathering 0) ∧
      (e .gathering 0).finalSent = false ∧ (e .gathering 0).start + (e .gathering 0).received < piece5.offset + 8 ∧
      piece5.offset + 8 ≤ (e .delivering 8).start + (e .delivering 8).received ∧ (e .abandoned 0).state = .abandoned) := by
  decide

theorem met_RunEndsHandOn :
    let s (r : StopReason) (n : Nat) := (running base write5 .stop).modBranch 0 fun br =>
      { br with stopReason := r, retryCount := n }
    (((s .done 0).branch 0).op = some write5 ∧ write5.isRead = false ∧ ((s .done 0).branch 0).phase = .stop ∧
      ((s .done 0).branch 0).told = none ∧ ((s .done 0).branch 0).stopReason = .done) ∧
    ((s .dataNack 0).branch 0).stopReason = .dataNack ∧
    (((s .addressNack 3).branch 0).stopReason = .addressNack ∧ write5.retryLimit.val < ((s .addressNack 3).branch 0).retryCount) ∧
    (write5.tag? = some { requester := 1, tag := 2 } ∧ ((s .done 0).branch 0).answers = [] ∧
      (full (s .done 0) 15).responseQueue.length < 16 ∧ 16 ≤ (full (s .done 0) 16).responseQueue.length) ∧
    (let post : Operation := { write5 with body := .posted [7] }
     post.isRead = false ∧ post.body = .posted [7] ∧ (s .dataNack 0).fault = none) ∧
    (let g := collecting base 1 0 0
     let o : Operation := { write5 with body := .timed pair1 [7] (some (0, (g.group 0).generation)) }
     o.isRead = false ∧ (g.group 0).state = .collecting ∧ (g.group 0).done + (g.group 0).failed < (g.group 0).members) ∧
    (let a := base.modBranch 0 fun br => { br with answers := [completion pair1 .ok 0] }
     (a.branch 0).answers = completion pair1 .ok 0 :: [] ∧ (full a 15).responseQueue.length < 16 ∧
      16 ≤ (full a 16).responseQueue.length) := by decide

theorem met_ReadRunEnds :
    let s (r : StopReason) (n : Nat) := (reading .stop).modBranch 0 fun br => { br with stopReason := r, retryCount := n }
    let e : SplitEntry := { entry5 with pieces := [{ offset := 16, length := 8, state := .active }] }
    (((s .done 0).branch 0).op = some piece5 ∧ piece5.body = .readPiece 0 8 true ∧ (s .done 0).entry 0 = some e ∧
      e.state = .gathering ∧ (s .done 0).FinalsFit ∧ ((s .done 0).branch 0).phase = .stop ∧
      ((s .done 0).branch 0).told = none ∧ ((s .done 0).branch 0).stopReason = .done ∧ (s .done 0).headHasWaited = false) ∧
    (let later : Operation := { piece5 with body := .readPiece 0 8 false }
     later.persist = false ∧ e.start + e.received < later.offset + 8) ∧
    (((s .addressNack 3).branch 0).stopReason = .addressNack ∧
      piece5.retryLimit.val < ((s .addressNack 3).branch 0).retryCount ∧ e.start + e.received < piece5.offset + 8) ∧
    ((s .dataNack 0).branch 0).stopReason = .dataNack :=
  ⟨⟨by decide, by decide, by decide, by decide, finalsFit_of_idle _ rfl (by decide +kernel), by decide, by decide, by decide, by decide⟩,
    by decide, by decide, by decide⟩

/-- Runs that end when the bytes are all stored, and when the entry no longer wants them. -/
theorem met_ReadRunEnds_late :
    let e (st : EntryState) (received : Nat) (sent : Bool) : SplitEntry :=
      { entry5 with
        pieces := [{ offset := 16, length := 8, state := .active }], state := st, received := received, finalSent := sent }
    (((e .delivering 8 false).state = .delivering ∧ (e .delivering 8 false).finalSent = false) ∧
      piece5.offset + 8 ≤ (e .delivering 8 false).start + (e .delivering 8 false).received) ∧
    ((e .closing 0 false).state = .closing ∧ (e .abandoned 0 false).state = .abandoned) ∧
    ((e .delivering 8 true).finalSent = true ∧ (e .delivering 8 true).owner = .trunk pair1 ∧
      (e .delivering 8 true).state ≠ .gathering ∧ ∀ c, (base.attn c).pending = false) ∧
    ({ piece5 with persist := true } : Operation).persist = true := by decide

/-- The state of such a run meets what the statement asks of every state. -/
theorem met_ReadRunEnds_late_state :
    let e : SplitEntry := { entry5 with
      pieces := [{ offset := 16, length := 8, state := .active }], state := .delivering, received := 8, finalSent := true }
    let s := running (holding base e) piece5 .stop
    (s.branch 0).op = some piece5 ∧ s.entry 0 = some e ∧ s.FinalsFit ∧ (s.branch 0).phase = .stop ∧
      (s.branch 0).told = none ∧ (s.branch 0).stopReason = .done := by
  refine ⟨by decide, by decide, ⟨?_, ?_, ?_⟩, by decide, by decide, by decide⟩
  · decide +kernel
  · intro i e _ _
    rfl
  · intro i _
    rfl

theorem met_DeadlineExpires :
    let s : State := { holding base entry5 with stamp := 2000 }
    let x : SplitEntry := { entry5 with route := { snap5 with timeoutPolicy := .extend } }
    (s.entry 0 = some entry5 ∧ entry5.state = .gathering ∧ s.finalBegun 0 entry5 = false ∧
      (s.stamp - entry5.deadline).toNat < 2 ^ 31 ∧ entry5.route.timeoutPolicy = .abandon ∧ s.headHasWaited = false) ∧
    ((holding base x).entry 0 = some x ∧ x.route.timeoutPolicy = .extend ∧ x.extended = false) ∧
    2 ^ 31 ≤ ((1999 : Stamp) - entry5.deadline).toNat ∧
    (((reading .stall).branch 0).op = some piece5 ∧ piece5.isPieceOf 0 = true ∧ ((reading .stall).branch 0).told = none ∧
      ((reading .stall).branch 0).phase = .stall) := by decide

theorem met_RecordFrameBegins :
    ((full base 1).sending = none ∧ (full base 1).holdIn = false ∧
      (full base 1).responseQueue = completion pair1 .ok 0 :: [] ∧ (completion pair1 .ok 0).body = .completion 0) ∧
    (mgmtCompletion pair1 .ok 0 [1]).body = .mgmt 0 [1] false ∧ ({ base with holdIn := true } : State).holdIn = true := by
  decide

theorem met_NoticeOrSplitBegins :
    let noticed : State := { base with noticePending := true }
    let s (st : EntryState) (f : Option Status) := holding base { entry5 with state := st, finalStatus := f, received := 8, held := [1] }
    (noticed.sending = none ∧ noticed.holdIn = false ∧ noticed.responseQueue = [] ∧ noticed.noticePending = true) ∧
    (base.noticePending = false ∧ ∀ i, base.frameReady i = false) ∧
    ((s .gathering none).frameReady 0 = true ∧ (s .delivering (some .ok)).frameReady 0 = true ∧
      (s .closing (some .short)).frameReady 0 = true ∧ (s .closing (some .nack)).frameReady 0 = true ∧
      (s .abandoned (some .timeout)).frameReady 0 = true) ∧
    (∀ k : Fin 16, (k - ((s .gathering none).lastServed + 1)).val < ((0 : Fin 16) - ((s .gathering none).lastServed + 1)).val →
      (s .gathering none).frameReady k = false) := by decide

theorem met_SendEnds :
    let rec0 : InFlight := { source := .record false, dataCount := 0, final := false, bytes := [] }
    let data (final : Bool) : InFlight := { source := .split 0, dataCount := 1, final := final, bytes := [] }
    let sent (f : InFlight) (e : SplitEntry) : State := { holding base e with sending := some f, holdIn := true }
    let busyEntry : SplitEntry := { entry5 with pieces := [{ offset := 16, length := 8, state := .active }] }
    (({ base with sending := some rec0, holdIn := true } : State).sending = some rec0 ∧ rec0.source = .record false ∧
      base.opState ≠ .draining) ∧
    (let s : State := { base with sending := some rec0, opState := .draining }
     s.opState = .draining ∧ s.responseQueue = [] ∧ s.noticePending = false ∧ s.intake = [] ∧ (∀ i, s.entry i = none) ∧
      (∀ b, (s.branch b).queue = [] ∧ (s.branch b).answers = []) ∧ ∀ x ∈ s.releaseQueue, x.due = false) ∧
    ((sent (data false) entry5).sending = some (data false) ∧ (data false).source = .split 0 ∧
      (sent (data false) entry5).entry 0 = some entry5 ∧ entry5.finalSent = false ∧ (data false).final = false) ∧
    (∃ p ∈ busyEntry.pieces, p.state = .active) ∧
    ((data true).final = true ∧ (∀ p ∈ entry5.pieces, p.state ≠ .active) ∧ entry5.owner = .trunk pair1 ∧
      ∀ b, ((sent (data true) entry5).attn b).pending = false) ∧
    (base.responseQueue = [] ∧ base.noticePending = false ∧ ∀ i, base.frameReady i = false) := by decide

/-- A full table with an attention entry that waits, and the entry of a poll that is freed. -/
theorem met_SendEnds_polls :
    let f : InFlight := { source := .split 0, dataCount := 0, final := true, bytes := [] }
    let tbl : State := { base with
      split := Vector.replicate 16 (some { entry5 with pieces := [] }), sending := some f, holdIn := true }
    let s := tbl.modAttn 2 fun a => { a with ldn := 5, length := 1, pending := true }
    let polled (holdoff : Byte) : State := ({ holding base { entry5 with owner := .attn 2, pieces := [] } with
      sending := some f, holdIn := true } : State).modAttn 2 fun a => { a with status := .polling, holdoff := holdoff }
    (s.sending = some f ∧ s.entry 0 = some { entry5 with pieces := [] } ∧ s.opState = .active ∧
      (∀ j, j ≠ 0 → (s.entry j).isSome = true) ∧ (s.attn 2).status = .idle ∧ (s.attn 2).pending = true ∧
      1 ≤ (s.attn 2).length ∧ (∀ c : Fin 4, c < 2 → (s.attn c).status ≠ .idle ∨ (s.attn c).pending = false) ∧
      s.routeFor (s.attn 2).ldn .forRead none (s.attn 2).offset.toNat (s.attn 2).length = .ok snap5) ∧
    ((polled 1).entry 0 = some { entry5 with owner := .attn 2, pieces := [] } ∧
      (∀ c, c ≠ 2 → ((polled 1).attn c).pending = false) ∧ ((polled 1).attn 2).holdoff ≠ 0) ∧
    (((polled 0).attn 2).holdoff = 0 ∧ ((polled 0).attn 2).enabled = false ∧ ((polled 0).attn 2).pending = false ∧
      ((polled 0).attn 2).mode = .edge) :=
  ⟨⟨by decide, by decide, by decide, by decide, by decide, by decide, by decide, by decide, rfl⟩, by decide, by decide⟩

theorem met_HeadReleased :
    let s := released base timed5
    let off := released (base.modBranch 0 fun br => { br with enabled := false }) timed5
    (s.releaseQueue = timed5 :: [] ∧ timed5.body = .timedWrite none snap5 0 [7] ∧ timed5.due = true ∧ s.opState ≠ .offline ∧
      (s.branch 0).enabled = true ∧ (s.branch 0).queue.length < 16) ∧
    16 ≤ ((s.modBranch 0 fun br => { br with queue := List.replicate 16 write5 }).branch 0).queue.length ∧
    ((off.branch 0).enabled = false ∧ (full off 15).responseQueue.length < 16 ∧ 16 ≤ (full off 16).responseQueue.length) ∧
    (let g := collecting off 1 0 0
     (g.group 0).state = .collecting ∧ (g.group 0).done + (g.group 0).failed < (g.group 0).members) ∧
    (latch5.body = .timedLatch 1 .set 100 ∧ latch5.due = true ∧ (released base latch5).responseQueue.length < 16) ∧
    (({ s with opState := .offline } : State).opState = .offline ∧ s.responseQueue.length < 16) ∧
    ({ timed5 with due := false } : ReleaseEntry).due = false := by decide

theorem met_PulsesAndLatches :
    (2 : BitVec 4).getLsbD (0 : Fin 4).val = false ∧ (2 : BitVec 4).getLsbD (1 : Fin 4).val = true ∧
    (base.line 1).pulse = none ∧
    ((State.latch base 2 .pulse 50).line 1).pulse = some { level := true, width := 50, timer := 0 } := by decide

theorem met_AttentionSteps :
    let s (o : OpState) := ({ base with opState := o } : State).modAttn 0 fun a =>
      { a with enabled := true, wake := true, ldn := 5, length := 1 }
    let noWake := ({ base with opState := .quiet } : State).modAttn 0 fun a => { a with enabled := true }
    (base.attn 0).enabled = false ∧ (s .offline).opState = .offline ∧
    (((s .draining).attn 0).enabled = true ∧
      ((((s .active).modAttn 0 fun a => { a with status := .polling }).attn 0).status ≠ .idle)) ∧
    ((s .waking).opState = .waking ∧ noWake.opState = .quiet ∧ (noWake.attn 0).wake = false) ∧
    ((s .quiet).opState = .quiet ∧ ((s .quiet).attn 0).wake = true) ∧
    (((s .active).attn 0).status = .idle ∧ ((s .active).attn 0).pending = false ∧ 1 ≤ ((s .active).attn 0).length) ∧
    (s .active).freePlace = some 0 ∧
    ({ s .active with split := Vector.replicate 16 (some entry5) } : State).freePlace = none ∧
    (let h (o : OpState) := (s o).modAttn 0 fun a => { a with status := .holdoff, pending := true }
     let low (o : OpState) := (s o).modAttn 0 fun a => { a with status := .holdoff, mode := .level, line := false }
     ((h .quiet).attn 0).status = .holdoff ∧ ((h .quiet).attn 0).enabled = true ∧ ((h .quiet).attn 0).pending = true ∧
     ((low .active).attn 0).status = .holdoff ∧ ((low .active).attn 0).mode = .level ∧
     ((low .active).attn 0).line = false ∧ 1 ≤ ((low .active).attn 0).length ∧ (low .active).freePlace = some 0) ∧
    ((s .waking).attn 0).pending = false ∧ (base.attn 0).length = 0 := by decide

/-- The LDN of an entry that may poll yields a route, and one that is not held yields NO_ROUTE. -/
theorem met_AttentionSteps_routes :
    base.routeFor 5 .forRead none (0 : BitVec 16).toNat 1 = .ok snap5 ∧
    base.routeFor 6 .forRead none (0 : BitVec 16).toNat 1 = .error .noRoute := ⟨rfl, rfl⟩

theorem met_RouteImageRoundTrip :
    route5.device ≠ .aliasOf route5.ldn ∧ (∀ b w, route5.device = .target b 0 w → route5.access = .wo) := by
  refine ⟨by decide, fun b w h => ?_⟩
  have : (0x20 : BitVec 7) = 0 := by
    have := congrArg (fun d => match d with
      | RouteDevice.target _ a _ => a
      | .aliasOf _ => 0) h
    exact this
  exact absurd this (by decide)

/-- The invariants hold in a state at work, which takes a step: an operation in hand and a frame in flight. -/
theorem met_invariants :
    let s : State :=
      { reading .readData with
        pending := [.sendEnd]
        sending := some { source := .record false, dataCount := 0, final := false, bytes := [] } }
    s.TagsUnique ∧ s.BufferFits ∧ s.EnginesHold ∧ ∃ t, step s = .next t :=
  ⟨by unfold State.TagsUnique; decide, by unfold State.BufferFits; decide, by unfold State.EnginesHold; decide, _, rfl⟩

theorem met_NothingIsLeftUndone : (reading .readData).Settled ∧ heldBase.Settled :=
  ⟨{ engines := by decide, answers := by decide, head := by decide, frame := by decide, draining := by decide },
    { engines := by decide, answers := by decide, head := by decide, frame := by decide, draining := by decide }⟩

theorem met_BoundedKept : (full base 16).Bounded :=
  { responses := by decide, frames := by decide, operations := by decide, releases := by decide, routes := by decide
    ascending := by decide, limit := by decide, members := by decide }

theorem met_FinalFrameComesLast : (reading .readData).FinalsFit :=
  finalsFit_of_idle _ rfl (by decide +kernel)

end Sys2Proof.Machine
end

section
/-! SUPPORT. The Route Table as a list: what each change of it leaves under every LDN, its length, and that it keeps ascending. -/

namespace Sys2Proof.Machine

/-- The table holds every LDN once, in ascending order (R2). -/
abbrev RoutesAscend (t : List RouteEntry) : Prop := t.Pairwise fun x y => x.ldn.toNat < y.ldn.toNat

/-! ## The entry held under an LDN -/

@[simp] theorem findRoute_nil (ldn : Byte) : findRoute [] ldn = none := rfl

theorem findRoute_cons (x : RouteEntry) (t : List RouteEntry) (ldn : Byte) :
    findRoute (x :: t) ldn = if x.ldn = ldn then some x else findRoute t ldn := by
  unfold findRoute
  by_cases h : x.ldn = ldn
  · rw [if_pos h]
    exact List.find?_cons_of_pos (by simp [h])
  · rw [if_neg h]
    exact List.find?_cons_of_neg (by simp [h])

theorem findRoute_eq_none_iff {t : List RouteEntry} {ldn : Byte} : findRoute t ldn = none ↔ ∀ x ∈ t, x.ldn ≠ ldn := by
  simp [findRoute]

theorem findRoute_ldn {t : List RouteEntry} {ldn : Byte} {e : RouteEntry} (h : findRoute t ldn = some e) : e.ldn = ldn := by
  simpa using List.find?_some h

/-! ## Insertion -/

theorem insertRoute_length (e : RouteEntry) (t : List RouteEntry) : (insertRoute e t).length = t.length + 1 := by
  induction t with
  | nil => rfl
  | cons x rest ih => unfold insertRoute; split <;> simp [ih]

theorem mem_insertRoute {e x : RouteEntry} {t : List RouteEntry} : x ∈ insertRoute e t ↔ x = e ∨ x ∈ t := by
  induction t with
  | nil => simp [insertRoute]
  | cons y rest ih =>
    unfold insertRoute
    split
    · simp
    · simp only [List.mem_cons, ih]
      tauto

/-- The new entry is found wherever it stands, unless its LDN is held already. -/
theorem findRoute_insertRoute_same {e : RouteEntry} {t : List RouteEntry} (h : findRoute t e.ldn = none) :
    findRoute (insertRoute e t) e.ldn = some e := by
  induction t with
  | nil => simp [insertRoute, findRoute_cons]
  | cons x rest ih =>
    rw [findRoute_cons] at h
    split at h
    · cases h
    · rename_i hx
      unfold insertRoute
      split
      · simp [findRoute_cons]
      · rw [findRoute_cons, if_neg hx]
        exact ih h

theorem findRoute_insertRoute_ne (e : RouteEntry) (t : List RouteEntry) {ldn : Byte} (h : ldn ≠ e.ldn) :
    findRoute (insertRoute e t) ldn = findRoute t ldn := by
  induction t with
  | nil => simp [insertRoute, findRoute_cons, h.symm]
  | cons x rest ih =>
    unfold insertRoute
    split
    · rw [findRoute_cons, if_neg h.symm]
    · rw [findRoute_cons, findRoute_cons, ih]

/-- An entry whose LDN is not held goes to its place of the ascending order. -/
theorem insertRoute_ascends {e : RouteEntry} {t : List RouteEntry} (ht : RoutesAscend t) (h : findRoute t e.ldn = none) :
    RoutesAscend (insertRoute e t) := by
  rw [findRoute_eq_none_iff] at h
  induction t with
  | nil => exact List.pairwise_singleton _ e
  | cons x rest ih =>
    obtain ⟨hx, hrest⟩ := List.pairwise_cons.1 ht
    unfold insertRoute
    split
    · rename_i hlt
      refine List.pairwise_cons.2 ⟨fun y hy => ?_, ht⟩
      rcases List.mem_cons.1 hy with rfl | hy
      · exact hlt
      · exact Nat.lt_trans hlt (hx y hy)
    · rename_i hle
      refine List.pairwise_cons.2 ⟨fun y hy => ?_, ih hrest fun y hy => h y (List.mem_cons_of_mem x hy)⟩
      rcases mem_insertRoute.1 hy with rfl | hy
      · have hne : x.ldn.toNat ≠ y.ldn.toNat := fun he => h x List.mem_cons_self (BitVec.eq_of_toNat_eq he)
        omega
      · exact hx y hy

/-! ## Exchange -/

theorem replaceRoute_length (e : RouteEntry) (t : List RouteEntry) : (replaceRoute e t).length = t.length :=
  List.length_map _

theorem replaceRoute_cons (e x : RouteEntry) (t : List RouteEntry) :
    replaceRoute e (x :: t) = (if x.ldn = e.ldn then e else x) :: replaceRoute e t := by
  simp [replaceRoute]

theorem findRoute_replaceRoute_same {e old : RouteEntry} {t : List RouteEntry} (h : findRoute t e.ldn = some old) :
    findRoute (replaceRoute e t) e.ldn = some e := by
  induction t with
  | nil => cases h
  | cons x rest ih =>
    rw [replaceRoute_cons, findRoute_cons]
    rw [findRoute_cons] at h
    by_cases hx : x.ldn = e.ldn
    · simp [hx]
    · simp only [hx, if_false] at h ⊢
      exact ih h

theorem findRoute_replaceRoute_ne (e : RouteEntry) (t : List RouteEntry) {ldn : Byte} (h : ldn ≠ e.ldn) :
    findRoute (replaceRoute e t) ldn = findRoute t ldn := by
  induction t with
  | nil => rfl
  | cons x rest ih =>
    rw [replaceRoute_cons, findRoute_cons, findRoute_cons, ih]
    by_cases hx : x.ldn = e.ldn
    · simp [hx, h.symm]
    · simp [hx]

/-- An exchange moves no LDN. -/
theorem replaceRoute_ascends (e : RouteEntry) {t : List RouteEntry} (ht : RoutesAscend t) :
    RoutesAscend (replaceRoute e t) := by
  have hl (x : RouteEntry) : (if x.ldn == e.ldn then e else x).ldn = x.ldn := by
    by_cases hx : x.ldn = e.ldn <;> simp [hx]
  refine List.pairwise_map.2 (ht.imp fun {x y} hxy => ?_)
  rw [hl, hl]
  exact hxy

/-! ## Removal -/

theorem findRoute_removeRoute_same (ldn : Byte) (t : List RouteEntry) : findRoute (removeRoute ldn t) ldn = none := by
  simp [findRoute_eq_none_iff, removeRoute]

theorem removeRoute_cons (ldn : Byte) (x : RouteEntry) (t : List RouteEntry) :
    removeRoute ldn (x :: t) = if x.ldn = ldn then removeRoute ldn t else x :: removeRoute ldn t := by
  by_cases h : x.ldn = ldn <;> simp [removeRoute, h]

theorem findRoute_removeRoute_ne (t : List RouteEntry) {ldn x : Byte} (h : x ≠ ldn) :
    findRoute (removeRoute ldn t) x = findRoute t x := by
  induction t with
  | nil => rfl
  | cons y rest ih =>
    rw [removeRoute_cons, findRoute_cons]
    by_cases hy : y.ldn = ldn
    · have hyx : y.ldn ≠ x := fun he => h (he.symm.trans hy)
      simp [hy, h.symm, ih]
    · simp only [hy, if_false, findRoute_cons, ih]

theorem removeRoute_of_absent {ldn : Byte} {t : List RouteEntry} (h : findRoute t ldn = none) : removeRoute ldn t = t := by
  rw [findRoute_eq_none_iff] at h
  exact List.filter_eq_self.2 fun x hx => by simp [h x hx]

theorem findRoute_of_ascends_cons {x : RouteEntry} {t : List RouteEntry} (ht : RoutesAscend (x :: t)) :
    findRoute t x.ldn = none := by
  obtain ⟨hx, -⟩ := List.pairwise_cons.1 ht
  exact findRoute_eq_none_iff.2 fun y hy he => absurd (hx y hy) (by rw [he]; exact Nat.lt_irrefl _)

/-- Of an ascending table a removal takes one entry. -/
theorem removeRoute_length {ldn : Byte} {t : List RouteEntry} {old : RouteEntry} (ht : RoutesAscend t)
    (h : findRoute t ldn = some old) : (removeRoute ldn t).length + 1 = t.length := by
  induction t with
  | nil => cases h
  | cons x rest ih =>
    rw [removeRoute_cons]
    by_cases hx : x.ldn = ldn
    · subst hx
      rw [if_pos rfl, removeRoute_of_absent (findRoute_of_ascends_cons ht), List.length_cons]
    · rw [findRoute_cons, if_neg hx] at h
      rw [if_neg hx, List.length_cons, List.length_cons, ih (List.pairwise_cons.1 ht).2 h]

theorem removeRoute_length_le (ldn : Byte) (t : List RouteEntry) : (removeRoute ldn t).length ≤ t.length :=
  List.length_filter_le _ t

theorem removeRoute_ascends (ldn : Byte) {t : List RouteEntry} (ht : RoutesAscend t) : RoutesAscend (removeRoute ldn t) :=
  ht.filter _

/-! ## The next entry -/

theorem nextRoute_eq_none {ldn : Byte} {t : List RouteEntry} (h : ∀ e ∈ t, e.ldn.toNat ≤ ldn.toNat) :
    nextRoute ldn t = none := by
  simpa [nextRoute] using h

/-- In an ascending table the first entry above an LDN is the one with the smallest LDN above it (R14). -/
theorem nextRoute_eq_some {ldn : Byte} {t : List RouteEntry} {e : RouteEntry} (ht : RoutesAscend t) (he : e ∈ t)
    (hl : ldn.toNat < e.ldn.toNat) (hmin : ∀ x ∈ t, ldn.toNat < x.ldn.toNat → e.ldn.toNat ≤ x.ldn.toNat) :
    nextRoute ldn t = some e := by
  induction t with
  | nil => cases he
  | cons x rest ih =>
    obtain ⟨hx, hrest⟩ := List.pairwise_cons.1 ht
    unfold nextRoute at ih ⊢
    rw [List.find?_cons]
    rcases List.mem_cons.1 he with rfl | he
    · simp [hl]
    · have hxe : x.ldn.toNat < e.ldn.toNat := hx e he
      have hxl : ¬ ldn.toNat < x.ldn.toNat := fun h => absurd (hmin x List.mem_cons_self h) (Nat.not_le.2 hxe)
      simp only [hxl, decide_false]
      exact ih hrest he fun y hy => hmin y (List.mem_cons_of_mem x hy)

end Sys2Proof.Machine
end

section
/-! SUPPORT. The route entry image: when R3 refuses it, the LDN it carries, and how its fields read back. -/

namespace Sys2Proof.Machine

/-! ## Fields of an image -/

theorem finOf_eq_none_iff {n v : Nat} : finOf n v = none ↔ n ≤ v := by
  unfold finOf
  split <;> simp_all

@[simp] theorem finOf_val {n : Nat} (x : Fin n) : finOf n x.val = some x := by simp [finOf, x.isLt]

theorem topBit_iff (b : Byte) : b.getLsbD 7 = true ↔ 0x7F < b.toNat := by
  have h : b.getLsbD 7 = decide (2 ^ 7 ≤ b.toNat) := BitVec.msb_eq_decide b
  rw [h, decide_eq_true_eq]
  omega

theorem highNibble_toNat (b : Byte) : (b.extractLsb' 4 4).toNat = b.toNat / 16 := by
  rw [BitVec.extractLsb'_toNat, Nat.shiftRight_eq_div_pow]
  omega

theorem lowNibble_bit (b : Byte) : b.getLsbD 3 = true ↔ 7 < (b.extractLsb' 0 4).toNat := by
  have h : (b.extractLsb' 0 4).getLsbD 3 = decide (2 ^ 3 ≤ (b.extractLsb' 0 4).toNat) :=
    BitVec.msb_eq_decide (b.extractLsb' 0 4)
  rw [BitVec.getLsbD_extractLsb', Nat.zero_add] at h
  rw [show b.getLsbD 3 = _ from h, decide_eq_true_eq]
  omega

theorem lowSeven_eq_zero_iff {b : Byte} (h : b.getLsbD 7 = false) : b.extractLsb' 0 7 = 0 ↔ b = 0 := by
  have hb : ¬ 0x7F < b.toNat := by rw [← topBit_iff, h]; exact Bool.false_ne_true
  have h0 (w : Nat) : (0 : BitVec w).toNat = 0 := BitVec.toNat_zero
  rw [← BitVec.toNat_inj, ← BitVec.toNat_inj, BitVec.extractLsb'_toNat, Nat.shiftRight_zero, h0, h0,
    Nat.mod_eq_of_lt (by omega)]

/-! ## What R3 refuses -/

theorem imageTarget_eq_none_iff {branch busAddress b5 : Byte} :
    imageTarget branch busAddress b5 = none ↔ 3 < branch.toNat ∨ 0x7F < busAddress.toNat ∨ 0x2F < b5.toNat := by
  have hw : 0x2F < b5.toNat ↔ finOf 3 (b5.extractLsb' 4 4).toNat = none := by
    rw [finOf_eq_none_iff, highNibble_toNat]; omega
  have hb : 3 < branch.toNat ↔ finOf 4 branch.toNat = none := finOf_eq_none_iff.symm
  rw [hw, hb, ← topBit_iff]
  unfold imageTarget
  generalize finOf 4 branch.toNat = br, finOf 3 (b5.extractLsb' 4 4).toNat = w, busAddress.getLsbD 7 = p
  cases br with
  | none => simp
  | some br =>
    cases w with
    | none => simp
    | some w => cases p <;> simp

theorem imageTarget_eq_some {branch busAddress b5 : Byte} {d : RouteDevice} (h : imageTarget branch busAddress b5 = some d) :
    busAddress.getLsbD 7 = false ∧ ∃ br w, d = .target br (busAddress.extractLsb' 0 7) w := by
  unfold imageTarget at h
  obtain ⟨br, -, h⟩ := Option.bind_eq_some_iff.1 h
  obtain ⟨w, -, h⟩ := Option.bind_eq_some_iff.1 h
  cases hp : busAddress.getLsbD 7 with
  | true => rw [hp] at h; cases h
  | false =>
    rw [hp] at h
    cases h
    exact ⟨rfl, br, w, rfl⟩

theorem imageOwner_eq_none_iff {b1 : Byte} :
    imageOwner b1 = none ↔ b1.getLsbD 5 = true ∧ 7 < (b1.extractLsb' 0 4).toNat := by
  rw [← lowNibble_bit]
  unfold imageOwner
  generalize b1.getLsbD 5 = p, b1.getLsbD 3 = q
  cases p <;> cases q <;> simp

theorem accessOfCode_eq_none_iff {x : BitVec 4} : Access.ofCode x.toNat = none ↔ x ≠ 1 ∧ x ≠ 2 ∧ x ≠ 3 := by
  revert x; decide

theorem accessOfCode_readable_iff {x : BitVec 4} {a : Access} (h : Access.ofCode x.toNat = some a) :
    a ≠ .wo ↔ x = 1 ∨ x = 3 := by
  have hx : ∀ x : BitVec 4, x = 1 ∧ Access.ofCode x.toNat = some .ro ∨ x = 2 ∧ Access.ofCode x.toNat = some .wo ∨
      x = 3 ∧ Access.ofCode x.toNat = some .rw ∨ Access.ofCode x.toNat = none := by decide
  rcases hx x with ⟨rfl, _⟩ | ⟨rfl, _⟩ | ⟨rfl, _⟩ | hn
  · cases h; decide
  · cases h; decide
  · cases h; decide
  · rw [hn] at h; cases h

theorem policyOfCode_eq_none_iff {n : Nat} : TimeoutPolicy.ofCode n = none ↔ 1 < n := by
  unfold TimeoutPolicy.ofCode
  split
  · simp
  · simp
  · rename_i h0 h1
    have h0 : n ≠ 0 := h0
    have h1 : n ≠ 1 := h1
    simp only [true_iff]
    omega

/-- A TARGET at the general call may not be read (R3). -/
theorem exists_generalCallReadable_iff {branch busAddress b5 : Byte} {d : RouteDevice} {x : BitVec 4}
    (hd : imageTarget branch busAddress b5 = some d) :
    (∃ a, Access.ofCode x.toNat = some a ∧ generalCallReadable d a = true) ↔ busAddress = 0 ∧ (x = 1 ∨ x = 3) := by
  obtain ⟨hb, br, w, rfl⟩ := imageTarget_eq_some hd
  simp only [generalCallReadable, decide_eq_true_eq, lowSeven_eq_zero_iff hb]
  constructor
  · rintro ⟨a, ha, h0, hr⟩
    exact ⟨h0, (accessOfCode_readable_iff ha).1 hr⟩
  · rintro ⟨h0, hx⟩
    cases ha : Access.ofCode x.toNat with
    | none =>
      obtain ⟨h1, -, h3⟩ := accessOfCode_eq_none_iff.1 ha
      exact absurd hx (by tauto)
    | some a => exact ⟨a, rfl, h0, (accessOfCode_readable_iff ha).2 hx⟩

/-- The entry of an image, field by field. -/
theorem entryOfImage_eq (ldn b1 branch busAddress other b5 b6 retry : Byte) :
    entryOfImage [ldn, b1, branch, busAddress, other, b5, b6, retry] =
      (imageDevice ldn b1 branch busAddress other b5).bind fun d => (imageOwner b1).bind fun o =>
      (finOf 4 (b5.extractLsb' 0 4).toNat).bind fun c => (Access.ofCode (b6.extractLsb' 4 4).toNat).bind fun a =>
      (TimeoutPolicy.ofCode (b6.extractLsb' 0 4).toNat).bind fun p => (finOf 16 retry.toNat).bind fun r =>
      bif generalCallReadable d a then none
      else some { ldn := ldn, device := d, access := a, owner := o, persist := b1.getLsbD 4, timeoutClass := c,
                  timeoutPolicy := p, retryLimit := r } := rfl

/-- An image whose device has been read is refused for the general call or for another field out of its range. -/
theorem entryOfImage_eq_none_of_device {ldn b1 branch busAddress other b5 b6 retry : Byte} {d : RouteDevice}
    (hd : imageDevice ldn b1 branch busAddress other b5 = some d) :
    entryOfImage [ldn, b1, branch, busAddress, other, b5, b6, retry] = none ↔
      (∃ a, Access.ofCode (b6.extractLsb' 4 4).toNat = some a ∧ generalCallReadable d a = true) ∨
      (b1.getLsbD 5 = true ∧ 7 < (b1.extractLsb' 0 4).toNat) ∨ 3 < (b5.extractLsb' 0 4).toNat ∨
      (b6.extractLsb' 4 4 ≠ 1 ∧ b6.extractLsb' 4 4 ≠ 2 ∧ b6.extractLsb' 4 4 ≠ 3) ∨
      1 < (b6.extractLsb' 0 4).toNat ∨ 15 < retry.toNat := by
  have h3 : 3 < (b5.extractLsb' 0 4).toNat ↔ finOf 4 (b5.extractLsb' 0 4).toNat = none := finOf_eq_none_iff.symm
  have h15 : 15 < retry.toNat ↔ finOf 16 retry.toNat = none := finOf_eq_none_iff.symm
  rw [← imageOwner_eq_none_iff, ← accessOfCode_eq_none_iff, ← policyOfCode_eq_none_iff, h3, h15, entryOfImage_eq, hd]
  generalize imageOwner b1 = owner, finOf 4 (b5.extractLsb' 0 4).toNat = tclass,
    Access.ofCode (b6.extractLsb' 4 4).toNat = access, TimeoutPolicy.ofCode (b6.extractLsb' 0 4).toNat = policy,
    finOf 16 retry.toNat = limit
  cases owner with
  | none => simp
  | some owner =>
    cases tclass with
    | none => simp
    | some tclass =>
      cases access with
      | none => simp
      | some access =>
        cases policy with
        | none => simp
        | some policy =>
          cases limit with
          | none => simp
          | some limit => cases hg : generalCallReadable d access <;> simp [hg]

theorem entryOfImage_eq_none_of_no_device {ldn b1 branch busAddress other b5 b6 retry : Byte}
    (hd : imageDevice ldn b1 branch busAddress other b5 = none) :
    entryOfImage [ldn, b1, branch, busAddress, other, b5, b6, retry] = none := by
  rw [entryOfImage_eq, hd]
  rfl

/-- R3 refuses exactly the faulty images: by the two presence bits, then by the device they name. -/
theorem entryOfImage_eq_none_iff {ldn b1 branch busAddress other b5 b6 retry : Byte} :
    entryOfImage [ldn, b1, branch, busAddress, other, b5, b6, retry] = none ↔
      FaultyImage ldn b1 branch busAddress other b5 b6 retry := by
  unfold FaultyImage
  cases h7 : b1.getLsbD 7 <;> cases h6 : b1.getLsbD 6
  case false.false =>
    have hd : imageDevice ldn b1 branch busAddress other b5 = none := by rw [imageDevice, h7, h6]
    exact iff_of_true (entryOfImage_eq_none_of_no_device hd) (.inl rfl)
  case true.true =>
    have hd : imageDevice ldn b1 branch busAddress other b5 = none := by rw [imageDevice, h7, h6]
    exact iff_of_true (entryOfImage_eq_none_of_no_device hd) (.inl rfl)
  case true.false =>
    have hi : imageDevice ldn b1 branch busAddress other b5 = imageTarget branch busAddress b5 := by
      rw [imageDevice, h7, h6]
    cases hd : imageTarget branch busAddress b5 with
    | none =>
      refine iff_of_true (entryOfImage_eq_none_of_no_device (hi.trans hd)) (.inr (.inl ⟨rfl, ?_⟩))
      exact (imageTarget_eq_none_iff.1 hd).imp_right fun h => h.imp_right .inl
    | some d =>
      have ht := mt imageTarget_eq_none_iff.2 (by rw [hd]; exact Option.some_ne_none d)
      simp only [not_or] at ht
      obtain ⟨hbr, hba, hw⟩ := ht
      rw [entryOfImage_eq_none_of_device (hi.trans hd), exists_generalCallReadable_iff hd]
      simp only [hbr, hba, hw, false_or, true_and, Bool.true_eq_false, Bool.false_eq_true, false_and]
  case false.true =>
    have hi : imageDevice ldn b1 branch busAddress other b5 = if other = ldn then none else some (.aliasOf other) := by
      rw [imageDevice, h7, h6]
    by_cases ho : other = ldn
    · rw [if_pos ho] at hi
      exact iff_of_true (entryOfImage_eq_none_of_no_device hi) (.inr (.inr (.inl ⟨rfl, ho⟩)))
    · rw [if_neg ho] at hi
      rw [entryOfImage_eq_none_of_device hi]
      simp only [generalCallReadable, ho, Bool.false_eq_true, and_false, exists_false, false_or, false_and]

/-- An entry carries the LDN of its image. -/
theorem entryOfImage_ldn {ldn b1 branch busAddress other b5 b6 retry : Byte} {e : RouteEntry}
    (h : entryOfImage [ldn, b1, branch, busAddress, other, b5, b6, retry] = some e) : e.ldn = ldn := by
  rw [entryOfImage_eq] at h
  simp only [Option.bind_eq_some_iff] at h
  obtain ⟨d, -, _, -, _, -, a, -, _, -, _, -, h⟩ := h
  cases hg : generalCallReadable d a with
  | true => rw [hg] at h; cases h
  | false => rw [hg] at h; cases h; rfl

/-! ## Reading an image back -/

/-- The second byte of an image: four presence and policy bits, then OWNER. -/
def flagByte (p7 p6 p5 p4 : Bool) (owner : BitVec 4) : Byte :=
  BitVec.ofBool p7 ++ BitVec.ofBool p6 ++ BitVec.ofBool p5 ++ BitVec.ofBool p4 ++ owner

theorem flagByte_bits (p7 p6 p5 p4 : Bool) (owner : BitVec 4) :
    (flagByte p7 p6 p5 p4 owner).getLsbD 7 = p7 ∧ (flagByte p7 p6 p5 p4 owner).getLsbD 6 = p6 ∧
      (flagByte p7 p6 p5 p4 owner).getLsbD 5 = p5 ∧ (flagByte p7 p6 p5 p4 owner).getLsbD 4 = p4 := by
  revert p7 p6 p5 p4 owner; decide

theorem flagByte_low (p7 p6 p5 p4 : Bool) (owner : BitVec 4) :
    (flagByte p7 p6 p5 p4 owner).getLsbD 3 = owner.getLsbD 3 ∧
      (flagByte p7 p6 p5 p4 owner).extractLsb' 0 3 = owner.extractLsb' 0 3 := by
  revert p7 p6 p5 p4 owner; decide

/-- OWNER as it stands in an image: 0 when it is absent (R26). -/
def ownerField (owner : Option (BitVec 3)) : BitVec 4 := (owner.map (BitVec.setWidth 4)).getD 0

/-- The image of an entry with TARGET (R26). -/
theorem imageOfEntry_target {e : RouteEntry} {br : Fin 4} {addr : BitVec 7} {w : Fin 3} (h : e.device = .target br addr w) :
    imageOfEntry e = [e.ldn, flagByte true false e.owner.isSome e.persist (ownerField e.owner), BitVec.ofNat 8 br.val,
      addr.setWidth 8, 0, BitVec.ofNat 4 w.val ++ BitVec.ofNat 4 e.timeoutClass.val,
      e.access.code ++ e.timeoutPolicy.code, BitVec.ofNat 8 e.retryLimit.val] := by
  unfold imageOfEntry
  rw [h]
  cases e.owner <;> rfl

/-- The image of an entry with ALIAS (R26). -/
theorem imageOfEntry_alias {e : RouteEntry} {other : Byte} (h : e.device = .aliasOf other) :
    imageOfEntry e = [e.ldn, flagByte false true e.owner.isSome e.persist (ownerField e.owner), 0, 0, other,
      (0 : BitVec 4) ++ BitVec.ofNat 4 e.timeoutClass.val, e.access.code ++ e.timeoutPolicy.code,
      BitVec.ofNat 8 e.retryLimit.val] := by
  unfold imageOfEntry
  rw [h]
  cases e.owner <;> rfl

theorem imageOfEntry_length (e : RouteEntry) : (imageOfEntry e).length = 8 := by
  cases h : e.device with
  | target br addr w => rw [imageOfEntry_target h]; rfl
  | aliasOf other => rw [imageOfEntry_alias h]; rfl

theorem imageOfEntry_head (e : RouteEntry) : (imageOfEntry e).head? = some e.ldn := by
  cases h : e.device with
  | target br addr w => rw [imageOfEntry_target h]; rfl
  | aliasOf other => rw [imageOfEntry_alias h]; rfl

theorem imageOwner_flagByte (p7 p6 p4 : Bool) (owner : Option (BitVec 3)) :
    imageOwner (flagByte p7 p6 owner.isSome p4 (ownerField owner)) = some owner := by
  obtain ⟨-, -, h5, -⟩ := flagByte_bits p7 p6 owner.isSome p4 (ownerField owner)
  obtain ⟨h3, hlow⟩ := flagByte_low p7 p6 owner.isSome p4 (ownerField owner)
  unfold imageOwner
  rw [h5, h3, hlow]
  cases owner with
  | none => rfl
  | some o =>
    have ho : ∀ o : BitVec 3, (ownerField (some o)).getLsbD 3 = false ∧ (ownerField (some o)).extractLsb' 0 3 = o := by
      decide
    rw [(ho o).1, (ho o).2]
    rfl

theorem finOf_ofNat {n w : Nat} (x : Fin n) (h : n ≤ 2 ^ w) : finOf n (BitVec.ofNat w x.val).toNat = some x := by
  rw [BitVec.toNat_ofNat, Nat.mod_eq_of_lt (by omega), finOf_val]

theorem highNibble_append (x y : BitVec 4) : (x ++ y : Byte).extractLsb' 4 4 = x := by revert x y; decide

theorem lowNibble_append (x y : BitVec 4) : (x ++ y : Byte).extractLsb' 0 4 = y := by revert x y; decide

theorem accessOfCode_code (a : Access) : Access.ofCode a.code.toNat = some a := by cases a <;> rfl

theorem policyOfCode_code (p : TimeoutPolicy) : TimeoutPolicy.ofCode p.code.toNat = some p := by cases p <;> rfl

theorem imageTarget_image (br : Fin 4) (addr : BitVec 7) (w : Fin 3) (c : BitVec 4) :
    imageTarget (BitVec.ofNat 8 br.val) (addr.setWidth 8) (BitVec.ofNat 4 w.val ++ c) = some (.target br addr w) := by
  have haddr : ∀ a : BitVec 7, (a.setWidth 8).getLsbD 7 = false ∧ (a.setWidth 8).extractLsb' 0 7 = a := by decide
  obtain ⟨h7, ha⟩ := haddr addr
  unfold imageTarget
  rw [finOf_ofNat br (by decide), highNibble_append, finOf_ofNat w (by decide), h7, ha]
  rfl

/-- An image whose device fields read back reads back whole. -/
theorem entryOfImage_fields (e : RouteEntry) (p7 p6 : Bool) (branch busAddress other : Byte) (high : BitVec 4)
    (hd : imageDevice e.ldn (flagByte p7 p6 e.owner.isSome e.persist (ownerField e.owner)) branch
      busAddress other (high ++ BitVec.ofNat 4 e.timeoutClass.val) = some e.device)
    (hg : generalCallReadable e.device e.access = false) :
    entryOfImage [e.ldn, flagByte p7 p6 e.owner.isSome e.persist (ownerField e.owner), branch,
      busAddress, other, high ++ BitVec.ofNat 4 e.timeoutClass.val, e.access.code ++ e.timeoutPolicy.code,
      BitVec.ofNat 8 e.retryLimit.val] = some e := by
  obtain ⟨-, -, -, h4⟩ := flagByte_bits p7 p6 e.owner.isSome e.persist (ownerField e.owner)
  rw [entryOfImage_eq, hd, imageOwner_flagByte, lowNibble_append, highNibble_append, lowNibble_append,
    finOf_ofNat e.timeoutClass (by decide), accessOfCode_code, policyOfCode_code, finOf_ofNat e.retryLimit (by decide), h4]
  simp only [Option.bind_some, hg, cond_false]

/-- Settles O53: the two forms of the image, TARGET and ALIAS, each field read back from its place. -/
theorem routeImageRoundTrip : Obligations.RouteImageRoundTrip := by
  intro e halias hcall
  refine ⟨imageOfEntry_length e, ?_⟩
  cases h : e.device with
  | target br addr w =>
    rw [imageOfEntry_target h]
    obtain ⟨h7, h6, -⟩ := flagByte_bits true false e.owner.isSome e.persist (ownerField e.owner)
    have hwo : addr = 0 → e.access = .wo := fun h0 => hcall br w (h0 ▸ h)
    refine entryOfImage_fields e _ _ _ _ _ _ ?_ ?_
    · rw [imageDevice, h7, h6, h]
      exact imageTarget_image br addr w _
    · simpa [h, generalCallReadable] using hwo
  | aliasOf other =>
    rw [imageOfEntry_alias h]
    obtain ⟨h7, h6, -⟩ := flagByte_bits false true e.owner.isSome e.persist (ownerField e.owner)
    have hne : other ≠ e.ldn := fun ho => halias (ho ▸ h)
    refine entryOfImage_fields e _ _ _ _ _ _ ?_ ?_
    · rw [imageDevice, h7, h6, h]
      exact if_neg hne
    · rw [h]; rfl

end Sys2Proof.Machine
end

section
/-! SUPPORT. Resolution and reach, and the table commands: the statements about the Route Table. -/

namespace Sys2Proof.Machine

/-! ## Resolution -/

theorem composeRoute_absent {t : List RouteEntry} {ldn : Byte} (h : findRoute t ldn = none) : composeRoute t ldn = none := by
  rw [composeRoute, h]

/-- An entry with ALIAS leads no further than one entry (R4). -/
theorem composeRoute_alias_dead {t : List RouteEntry} {ldn other : Byte} {e : RouteEntry} (he : findRoute t ldn = some e)
    (hd : e.device = .aliasOf other)
    (h : findRoute t other = none ∨ ∃ x y, findRoute t other = some x ∧ x.device = .aliasOf y) :
    composeRoute t ldn = none := by
  rw [composeRoute, he]
  dsimp only
  rw [hd]
  rcases h with h | ⟨x, y, hx, hy⟩
  · simp only [h]
  · simp only [hx, routeOf, hy, Option.map_none]

/-- The requested entry has TARGET itself, or ALIAS that names one which has (R4). -/
theorem composeRoute_target {t : List RouteEntry} {ldn : Byte} {e x : RouteEntry} {b : Fin 4} {addr : BitVec 7} {w : Fin 3}
    (he : findRoute t ldn = some e) (hd : x.device = .target b addr w)
    (hx : x = e ∨ ∃ other, e.device = .aliasOf other ∧ findRoute t other = some x) :
    composeRoute t ldn = some (
      { ldn := ldn, branch := b, busAddress := addr, width := w, persist := x.persist, timeoutClass := x.timeoutClass,
        timeoutPolicy := x.timeoutPolicy, retryLimit := x.retryLimit }, e) := by
  rw [composeRoute, he]
  dsimp only
  rcases hx with rfl | ⟨other, ho, hx⟩
  · simp only [hd, routeOf, Option.map_some]
  · simp only [ho, hx, hd, routeOf, Option.map_some]

theorem accessAllows_iff (a : Access) (kind : AccessKind) :
    accessAllows a kind = true ↔ (kind = .forRead → a ≠ .wo) ∧ (kind = .forWrite → a ≠ .ro) := by
  cases a <;> cases kind <;> decide

theorem ownerAllows_iff (owner requester : Option (BitVec 3)) :
    ownerAllows owner requester = true ↔ ∀ r o, requester = some r → owner = some o → r = o := by
  cases requester with
  | none => simp [ownerAllows]
  | some r => cases owner <;> simp [ownerAllows]

/-- What the checks of R5 allow a request of a kind, by a requester, on a route to a bus address. -/
def routeAllowed (e : RouteEntry) (addr : BitVec 7) (kind : AccessKind) (requester : Option (BitVec 3)) : Prop :=
  (kind = .forRead → e.access ≠ .wo ∧ addr ≠ 0) ∧ (kind = .forWrite → e.access ≠ .ro) ∧
    ∀ r o, requester = some r → e.owner = some o → r = o

theorem resolve_noRoute {s : State} {ldn : Byte} (h : composeRoute s.routes ldn = none) (kind : AccessKind)
    (requester : Option (BitVec 3)) : s.resolve ldn kind requester = .error .noRoute := by
  rw [State.resolve, h]

/-- A composed route that R5 does not allow. -/
theorem resolve_refused {s : State} {ldn : Byte} {r : Route} {e : RouteEntry} {kind : AccessKind}
    {requester : Option (BitVec 3)} (h : composeRoute s.routes ldn = some (r, e))
    (hn : ¬ routeAllowed e r.busAddress kind requester) : s.resolve ldn kind requester = .error .routeRefused := by
  simp only [State.resolve, h, Bool.not_eq_true']
  split
  · rfl
  · rename_i ha
    split
    · rfl
    · rename_i hc
      split
      · rfl
      · rename_i ho
        rw [Bool.not_eq_false, accessAllows_iff] at ha
        rw [Bool.not_eq_false, ownerAllows_iff] at ho
        exact absurd ⟨fun hk => ⟨ha.1 hk, fun h0 => hc ⟨hk, h0⟩⟩, ha.2, ho⟩ hn

/-- A composed route that R5 allows: the branch decides (R6). -/
theorem resolve_allowed {s : State} {ldn : Byte} {r : Route} {e : RouteEntry} {kind : AccessKind}
    {requester : Option (BitVec 3)} (h : composeRoute s.routes ldn = some (r, e))
    (hy : routeAllowed e r.busAddress kind requester) :
    s.resolve ldn kind requester = if (s.branch r.branch).enabled = true then .ok r else .error .branchOff := by
  obtain ⟨hr, hw, ho⟩ := hy
  have ha := (accessAllows_iff e.access kind).2 ⟨fun hk => (hr hk).1, hw⟩
  have hc : ¬ (kind = .forRead ∧ r.busAddress = 0) := fun hc => (hr hc.1).2 hc.2
  have ho := (ownerAllows_iff e.owner requester).2 ho
  simp only [State.resolve, h, ha, ho, hc, Bool.not_true, Bool.false_eq_true, if_false]
  cases (s.branch r.branch).enabled <;> rfl

/-! ## Reach -/

theorem reaches_iff (w : Fin 3) (offset size : Nat) :
    reaches w offset size = true ↔ (w = 0 → offset = 0) ∧ (w = 1 → offset ≤ 255 ∧ offset + size ≤ 256) ∧
      (w = 2 → offset ≤ 65535 ∧ offset + size ≤ 65536) := by
  have hw : w = 0 ∨ w = 1 ∨ w = 2 := by omega
  rcases hw with rfl | rfl | rfl <;> simp [reaches]

theorem routeFor_of_ok {s : State} {ldn : Byte} {kind : AccessKind} {requester : Option (BitVec 3)} {r : Route}
    (h : s.resolve ldn kind requester = .ok r) (offset size : Nat) :
    s.routeFor ldn kind requester offset size = if reaches r.width offset size = true then .ok r else .error .badLength := by
  rw [State.routeFor, h]

/-- Settles O7: the composed route decides resolution, and the route's width decides reach. -/
theorem routesResolve : Obligations.RoutesResolve := by
  refine ⟨fun s ldn kind requester => ⟨fun h => ?_, fun e other he hd h => ?_, fun e x b addr w he hd hx => ?_⟩,
    fun s ldn kind requester offset size => ⟨fun st h => ?_, fun r h => ?_⟩⟩
  · exact resolve_noRoute (composeRoute_absent h) kind requester
  · exact resolve_noRoute (composeRoute_alias_dead he hd h) kind requester
  · have hc := composeRoute_target he hd hx
    refine ⟨fun hn => resolve_refused hc hn, fun hy hb => ?_, fun hy hb => ?_⟩
    · exact (resolve_allowed hc hy).trans (if_neg (by rw [hb]; exact Bool.false_ne_true))
    · exact (resolve_allowed hc hy).trans (if_pos hb)
  · rw [State.routeFor, h]
  · refine ⟨fun hw => ?_, fun hw => ?_⟩
    · exact (routeFor_of_ok h offset size).trans (if_pos ((reaches_iff _ _ _).2 hw))
    · exact (routeFor_of_ok h offset size).trans (if_neg (mt (reaches_iff _ _ _).1 hw))

/-! ## Table commands -/

/-- A TABLE COMMAND of a known code is carried out: the outcome of its meaning is the table and the answer (R9, R39). -/
theorem exec_tableFrame_result {s : State} {rest : List Frame} {reqtag command : Byte} {operand : List Byte} {n : Nat}
    {row : Instr} {x : TableResult} (h : s.Ready (tableFrame reqtag command operand) rest) (ho : s.opState ≠ .offline)
    (hrow : tableRow command.toNat = row) (hn : tableBodyLength command.toNat = some n) (hl : operand.length + 1 = n)
    (hx : tableCommand s.routes command operand = x) :
    exec row s = .next (State.endEvent { s.answeredWith rest
      { rt := ReqTag.ofByte reqtag, status := x.status, body := .mgmt 0 x.data false } with routes := x.routes }) := by
  rw [← hrow, exec_tableFrame h ho hn hl, hx]
  rfl

/-- Settles O22: each outcome of INSERT, by the image and then by the table. -/
theorem tableInsertAdds : Obligations.TableInsertAdds := by
  intro s rest reqtag image hready ho hl rt
  have run {x : TableResult} (hx : tableInsert s.routes image = x) :=
    exec_tableFrame_result (row := .tableInsert) hready ho rfl rfl (congrArg (· + 1) hl) hx
  refine ⟨fun ldn b1 branch addr other b5 b6 retry himage => ⟨fun hf => ?_, fun hf => ?_⟩, fun e old he hold => ?_,
    fun e he hfree hfull => ?_, fun e he hfree hroom => ?_⟩
  · exact run (x := ⟨s.routes, .badField, []⟩) (by rw [tableInsert, himage, entryOfImage_eq_none_iff.2 hf])
  · subst himage
    cases he : entryOfImage [ldn, b1, branch, addr, other, b5, b6, retry] with
    | none => exact absurd (entryOfImage_eq_none_iff.1 he) hf
    | some e => exact ⟨e, rfl, entryOfImage_ldn he⟩
  · exact run (x := ⟨s.routes, .keyExists, []⟩) (by simp only [tableInsert, he, hold, Option.isSome_some, if_true])
  · exact run (x := ⟨s.routes, .tableFull, []⟩) (by
      simp only [tableInsert, he, hfree, Option.isSome_none, Bool.false_eq_true, if_false]
      exact if_pos hfull)
  · refine ⟨insertRoute e s.routes, run (x := ⟨insertRoute e s.routes, .ok, []⟩) ?_, insertRoute_length e s.routes,
      findRoute_insertRoute_same hfree, fun ldn hne => findRoute_insertRoute_ne e s.routes hne⟩
    simp only [tableInsert, he, hfree, Option.isSome_none, Bool.false_eq_true, if_false]
    exact if_neg (Nat.not_le.2 hroom)

/-- Settles O23: REPLACE and REMOVE, by the entry held under the LDN. -/
theorem tableReplaceRemove : Obligations.TableReplaceRemove := by
  refine ⟨fun s rest reqtag image hready ho hl => ?_, fun s rest reqtag ldn hready ho => ?_⟩
  · intro rt
    have run {x : TableResult} (hx : tableReplace s.routes image = x) :=
      exec_tableFrame_result (row := .tableReplace) hready ho rfl rfl (congrArg (· + 1) hl) hx
    refine ⟨fun he => ?_, fun e he habsent => ?_, fun e old he hold => ?_⟩
    · exact run (x := ⟨s.routes, .badField, []⟩) (by rw [tableReplace, he])
    · exact run (x := ⟨s.routes, .keyAbsent, []⟩) (by simp only [tableReplace, he, habsent])
    · refine ⟨replaceRoute e s.routes, run (x := ⟨replaceRoute e s.routes, .ok, imageOfEntry old⟩) ?_,
        replaceRoute_length e s.routes, findRoute_replaceRoute_same hold,
        fun ldn hne => findRoute_replaceRoute_ne e s.routes hne⟩
      simp only [tableReplace, he, hold]
  · intro rt
    have run {x : TableResult} (hx : tableRemove s.routes ldn = x) :=
      exec_tableFrame_result (row := .tableRemove) hready ho rfl rfl rfl hx
    refine ⟨fun habsent => ?_, fun old hold => ?_⟩
    · exact run (x := ⟨s.routes, .keyAbsent, []⟩) (by rw [tableRemove, habsent])
    · exact ⟨removeRoute ldn s.routes,
        run (x := ⟨removeRoute ldn s.routes, .ok, imageOfEntry old⟩) (by rw [tableRemove, hold]),
        findRoute_removeRoute_same ldn s.routes, fun x hne => findRoute_removeRoute_ne s.routes hne,
        fun hasc => removeRoute_length hasc hold⟩

/-- Settles O24: LOOKUP by the entry held, NEXT by the ascending order, CLEAR, and that an empty table resolves nothing. -/
theorem tableLookupNextClear : Obligations.TableLookupNextClear := by
  refine ⟨fun s rest reqtag ldn hready ho => ?_, fun s rest reqtag ldn hready ho hasc => ?_,
    fun s rest reqtag hready ho => ?_, fun s ldn kind requester hempty => ?_⟩
  · intro rt
    have run {x : TableResult} (hx : tableLookup s.routes ldn = x) :=
      exec_tableFrame_result (row := .tableLookup) hready ho rfl rfl rfl hx
    refine ⟨fun habsent => ?_, fun e he => ?_, fun e other he hd => ?_⟩
    · exact run (x := ⟨s.routes, .keyAbsent, []⟩) (by rw [tableLookup, habsent])
    · exact run (x := ⟨s.routes, .ok, imageOfEntry e⟩) (by rw [tableLookup, he])
    · obtain ⟨h7, h6, h5, h4⟩ := flagByte_bits false true e.owner.isSome e.persist (ownerField e.owner)
      have hlow : (0 : BitVec 4) ++ BitVec.ofNat 4 e.timeoutClass.val = BitVec.ofNat 8 e.timeoutClass.val := by
        have h : ∀ c : Fin 4, (0 : BitVec 4) ++ BitVec.ofNat 4 c.val = BitVec.ofNat 8 c.val := by decide
        exact h e.timeoutClass
      refine ⟨_, ?_, h7, h6, h5, h4⟩
      rw [imageOfEntry_alias hd, hlow, findRoute_ldn he]
  · intro rt
    have run {x : TableResult} (hx : tableNext s.routes ldn = x) :=
      exec_tableFrame_result (row := .tableNext) hready ho rfl rfl rfl hx
    refine ⟨fun hnone => ?_, fun e he hl hmin => ⟨?_, imageOfEntry_head e⟩⟩
    · exact run (x := ⟨s.routes, .keyAbsent, []⟩) (by rw [tableNext, nextRoute_eq_none hnone])
    · exact run (x := ⟨s.routes, .ok, imageOfEntry e⟩) (by rw [tableNext, nextRoute_eq_some hasc he hl hmin])
  · exact exec_tableFrame_result (row := .tableClear) (x := ⟨[], .ok, []⟩) hready ho rfl rfl rfl rfl
  · exact resolve_noRoute (composeRoute_absent (by rw [hempty]; rfl)) kind requester

end Sys2Proof.Machine
end

section
/-! SUPPORT. Every operation of the part keeps the queues, tables and counters within their capacities: a lemma per operation,
`State.Bounded.<operation>`, in the order of the definitions, and the step from them. -/

namespace Sys2Proof.Machine

variable {s t : State}

/-! ## Updates of the state -/

theorem State.Bounded.modBranch (h : s.Bounded) {b : Fin 4} {f : Branch → Branch}
    (hf : (f (s.branch b)).queue.length ≤ 16) : (s.modBranch b f).Bounded :=
  { h with
    operations := fun c => by
      by_cases hc : c = b
      · subst hc; rw [branch_modBranch_same]; exact hf
      · rw [branch_modBranch_ne _ _ _ _ hc]; exact h.operations c }

/-- A change of a branch that leaves its Issue Queue. -/
theorem State.Bounded.keepQueue (h : s.Bounded) {b : Fin 4} {f : Branch → Branch}
    (hf : ∀ br, (f br).queue = br.queue) : (s.modBranch b f).Bounded :=
  h.modBranch (by rw [hf]; exact h.operations b)

theorem State.Bounded.enqueue (h : s.Bounded) {b : Fin 4} (o : Operation) (hl : (s.branch b).queue.length < 16) :
    (s.modBranch b fun br => { br with queue := br.queue ++ [o] }).Bounded :=
  h.modBranch (by rw [List.length_append]; exact hl)

theorem State.Bounded.setEntry (h : s.Bounded) (i : Fin 16) (e : Option SplitEntry) : (s.setEntry i e).Bounded := { h with }

theorem State.Bounded.modAttn (h : s.Bounded) (b : Fin 4) (f : Attn → Attn) : (s.modAttn b f).Bounded := { h with }

theorem State.Bounded.modGroup (h : s.Bounded) {g : Fin 7} {f : Group → Group}
    (hf : (f (s.group g)).done + (f (s.group g)).failed ≤ (f (s.group g)).members ∧ (f (s.group g)).members ≤ 32) :
    (s.modGroup g f).Bounded :=
  { h with
    members := fun k => by
      by_cases hk : k = g
      · subst hk; rw [group_modGroup_same]; exact hf
      · rw [group_modGroup_ne _ _ _ _ hk]; exact h.members k }

theorem State.Bounded.pushRecord (h : s.Bounded) (r : Record) (hr : s.responseQueue.length < 16) :
    (s.pushRecord r).Bounded :=
  { h with responses := by rw [pushRecord_responseQueue, List.length_append]; exact hr }

theorem State.Bounded.foldl {α : Type} {f : State → α → State} (hf : ∀ (u : State) (x : α), u.Bounded → (f u x).Bounded)
    (xs : List α) (h : s.Bounded) : (xs.foldl f s).Bounded := by
  induction xs generalizing s with
  | nil => exact h
  | cons x xs ih => exact ih (hf s x h)

/-! ## Flags, free choices, lines -/

theorem State.Bounded.raiseNotice (h : s.Bounded) : s.raiseNotice.Bounded := by
  unfold State.raiseNotice
  split
  · exact { h with }
  · exact h

theorem State.Bounded.setFlag (h : s.Bounded) (f : EventFlag) : (s.setFlag f).Bounded := by
  have hf : ({ s with flags := s.flags ||| f.mask } : State).Bounded := { h with }
  unfold State.setFlag
  split
  · exact h
  · dsimp only
    split
    · exact hf.raiseNotice
    · exact hf

theorem State.Bounded.wakeUp (h : s.Bounded) : s.wakeUp.Bounded := by
  have hw : ({ s with opState := .waking, wakeTimer := 0 } : State).Bounded := { h with }
  unfold State.wakeUp
  split
  · exact hw.setFlag .woke
  · exact h

theorem State.Bounded.pick (h : s.Bounded) {α : Type} {xs : List α} {x : α} (hp : s.pick xs = some (x, t)) : t.Bounded := by
  rw [← pick_only s xs x t hp] at h
  exact { h with }

theorem State.Bounded.latch (h : s.Bounded) (lines : BitVec 4) (action : LatchAction) (width : Nat) :
    (s.latch lines action width).Bounded := { h with }

theorem State.Bounded.addAnswer (h : s.Bounded) (b : Fin 4) (r : Record) : (s.addAnswer b r).Bounded := by
  unfold State.addAnswer
  split
  · rename_i hc
    exact h.pushRecord r ((recordRoom_iff s).1 (Bool.and_eq_true_iff.1 hc).2)
  · exact h.keepQueue fun _ => rfl

/-! ## The grant pass and the stalls -/

theorem State.Bounded.granted (h : s.Bounded) (hg : Granted s t) : t.Bounded := by
  have hk : ({ t with split := s.split, branches := s.branches } : State).Bounded := by rw [hg.rest]; exact h
  refine { hk with operations := fun b => ?_ }
  obtain ⟨more, hq, -, hl | rfl⟩ := hg.queues b
  · exact hl
  · rw [hq, List.append_nil]; exact h.operations b

theorem State.Bounded.grantPass (h : s.Bounded) : s.grantPass.Bounded := h.granted (grantPass_granted s)

theorem State.Bounded.createEntry (h : s.Bounded) (i : Fin 16) (owner : SplitOwner) (route : Route) (start length : Nat) :
    (s.createEntry i owner route start length).Bounded :=
  State.Bounded.grantPass { h with }

theorem State.Bounded.endStalls (h : s.Bounded) (fuel : Nat) : (s.endStalls fuel).Bounded := by
  induction fuel generalizing s with
  | zero => exact h
  | succ n ih =>
    unfold State.endStalls
    split
    · split
      · exact h
      · rename_i hp; exact ih ((h.pick hp).keepQueue fun _ => rfl)
    · exact h

theorem State.Bounded.roomFreed (h : s.Bounded) : s.roomFreed.Bounded := h.endStalls 4

/-! ## Polls -/

theorem State.Bounded.pollUnroutable (h : s.Bounded) (b : Fin 4) : (s.pollUnroutable b).Bounded :=
  (h.modAttn b _).setFlag .attnNoRoute

theorem State.Bounded.attemptPoll (h : s.Bounded) (b : Fin 4) : (s.attemptPoll b).Bounded := by
  unfold State.attemptPoll
  dsimp only
  split
  · exact h.pollUnroutable b
  · split
    · exact h.pollUnroutable b
    · split
      · exact h.modAttn b _
      · exact (h.modAttn b _).createEntry _ _ _ _ _

theorem State.Bounded.trigger (h : s.Bounded) (b : Fin 4) : (s.trigger b).Bounded := by
  unfold State.trigger
  dsimp only
  split
  · exact h
  · split
    · split
      · split
        · exact h
        · exact h.attemptPoll b
      · exact h.modAttn b _
    · split
      · exact h.modAttn b _
      · exact h

theorem State.Bounded.claimOver (h : s.Bounded) (bs : List (Fin 4)) : (s.claimOver bs).Bounded := by
  induction bs generalizing s with
  | nil => exact h
  | cons b rest ih =>
    unfold State.claimOver
    split
    · exact ih (h.attemptPoll b)
    · exact ih h

theorem State.Bounded.claims (h : s.Bounded) : s.claims.Bounded := by
  unfold State.claims
  split
  · exact h.claimOver four
  · exact h

theorem State.Bounded.endHoldoff (h : s.Bounded) (b : Fin 4) : (s.endHoldoff b).Bounded := by
  unfold State.endHoldoff
  dsimp only
  split
  · exact (h.modAttn b _).attemptPoll b
  · split
    · exact (h.modAttn b _).modAttn b _
    · exact h.modAttn b _

theorem State.Bounded.pollFreed (h : s.Bounded) (b : Fin 4) : (s.pollFreed b).Bounded := by
  have hm := h.modAttn b fun x => { x with
    status := .holdoff, holdoffTimer := 0, holdoffLength := (s.attn b).holdoff.toNat * 1000 }
  unfold State.pollFreed
  dsimp only
  split
  · exact hm.claims
  · split
    · rename_i hp; exact ((hm.pick hp).endHoldoff b).claims
    · rename_i hp; exact (hm.pick hp).claims.endHoldoff b
    · exact hm

theorem State.Bounded.levelTrigger (h : s.Bounded) (b : Fin 4) : (s.levelTrigger b).Bounded := by
  unfold State.levelTrigger
  split
  · exact h.trigger b
  · exact h

theorem State.Bounded.writeAttnFields (h : s.Bounded) (b : Fin 4) (store : Attn → Attn) :
    (s.writeAttnFields b store).Bounded := by
  unfold State.writeAttnFields
  dsimp only
  split
  · exact (h.modAttn b _).levelTrigger b
  · exact h.modAttn b _

/-! ## Groups -/

/-- A change of a group that leaves its counters. -/
theorem State.Bounded.keepCounts (h : s.Bounded) {g : Fin 7} {f : Group → Group}
    (hf : ∀ x, (f x).done = x.done ∧ (f x).failed = x.failed ∧ (f x).members = x.members) : (s.modGroup g f).Bounded := by
  obtain ⟨hd, hx, hm⟩ := hf (s.group g)
  exact h.modGroup (by rw [hd, hx, hm]; exact h.members g)

theorem State.Bounded.fireIfComplete (h : s.Bounded) (g : Fin 7) : (s.fireIfComplete g).Bounded := by
  have hi : (s.modGroup g fun x => { x with state := .idle }).Bounded := h.keepCounts fun _ => ⟨rfl, rfl, rfl⟩
  unfold State.fireIfComplete
  dsimp only
  split
  · split
    · exact hi.latch _ _ _
    · exact hi.setFlag _
  · exact h

/-- A group that counts reports has fewer of them than members (R150). -/
theorem counts_lt {gr : Group} {generation : Byte} (h : gr.counts generation = true) : gr.done + gr.failed < gr.members :=
  (of_decide_eq_true h).2.2

theorem State.Bounded.reportMember (h : s.Bounded) (member : Option (Fin 7 × Byte)) (ok : Bool) :
    (s.reportMember member ok).Bounded := by
  unfold State.reportMember
  split
  · exact h
  · rename_i g generation
    unfold State.memberReport
    split
    · rename_i hc
      have hlt := counts_lt hc
      have hm := (h.members g).2
      refine State.Bounded.fireIfComplete (h.modGroup ?_) g
      cases ok
      · exact ⟨by simp only [Bool.false_eq_true, if_false]; omega, hm⟩
      · exact ⟨by simp only [if_true]; omega, hm⟩
    · exact h

theorem State.Bounded.cancelMember (h : s.Bounded) (member : Option (Fin 7 × Byte)) : (s.cancelMember member).Bounded := by
  unfold State.cancelMember
  split
  · exact h
  · rename_i g generation
    split
    · rename_i hc
      have hlt := counts_lt hc
      have hm := (h.members g).2
      exact State.Bounded.fireIfComplete (h.modGroup ⟨by dsimp only; omega, by dsimp only; omega⟩) g
    · exact h

end Sys2Proof.Machine
end

section
/-! SUPPORT. The bounds through the judgement of heads, freed slots, the Split Unit, the end of an event and the engines' runs. -/

namespace Sys2Proof.Machine

variable {s t : State}

/-! ## The head of the Release Queue and the freed slots -/

theorem State.Bounded.dropHead (h : s.Bounded) {e : ReleaseEntry} {rest : List ReleaseEntry}
    (hq : s.releaseQueue = e :: rest) : ({ s with releaseQueue := rest } : State).Bounded := by
  have hl := h.releases
  rw [hq, List.length_cons] at hl
  exact { h with releases := Nat.le_of_succ_le hl }

theorem State.Bounded.headWaits (h : s.Bounded) {e : ReleaseEntry} {rest : List ReleaseEntry}
    (hq : s.releaseQueue = e :: rest) (ht : s.headWaits e rest = some t) : t.Bounded := by
  have hl := h.releases
  rw [hq] at hl
  have hw : ({ s with releaseQueue := { e with waiting := true } :: rest } : State).Bounded := { h with releases := hl }
  unfold State.headWaits at ht
  split at ht
  · cases ht
  · cases ht
    exact hw.setFlag _

theorem State.Bounded.judgeWrite (h : s.Bounded) {e : ReleaseEntry} {rest : List ReleaseEntry}
    {member : Option (Fin 7 × Byte)} {route : Route} {offset : Nat} {data : List Byte} (hq : s.releaseQueue = e :: rest)
    (ht : s.judgeWrite e rest member route offset data = some t) : t.Bounded := by
  unfold State.judgeWrite at ht
  split at ht
  · split at ht
    · rename_i hl; cases ht; exact (h.dropHead hq).enqueue _ hl
    · exact h.headWaits hq ht
  · split at ht
    · rename_i hr
      cases ht
      exact ((h.dropHead hq).pushRecord _ ((recordRoom_iff s).1 hr)).reportMember _ _
    · exact h.headWaits hq ht

theorem State.Bounded.judgeLatch (h : s.Bounded) {e : ReleaseEntry} {rest : List ReleaseEntry} {lines : BitVec 4}
    {action : LatchAction} {width : BitVec 16} (hq : s.releaseQueue = e :: rest)
    (ht : s.judgeLatch e rest lines action width = some t) : t.Bounded := by
  unfold State.judgeLatch at ht
  split at ht
  · rename_i hr
    cases ht
    exact ((h.dropHead hq).pushRecord _ ((recordRoom_iff s).1 hr)).latch _ _ _
  · exact h.headWaits hq ht

theorem State.Bounded.abortHead (h : s.Bounded) {e : ReleaseEntry} {rest : List ReleaseEntry}
    (hq : s.releaseQueue = e :: rest) (ht : s.abortHead e rest = some t) : t.Bounded := by
  unfold State.abortHead at ht
  split at ht
  · rename_i hr
    cases ht
    exact (h.dropHead hq).pushRecord _ ((recordRoom_iff s).1 hr)
  · cases ht

theorem State.Bounded.judgeHead (h : s.Bounded) (ht : s.judgeHead = some t) : t.Bounded := by
  unfold State.judgeHead at ht
  split at ht
  · cases ht
  · rename_i hq
    split at ht
    · exact h.abortHead hq ht
    · split at ht
      · split at ht
        · exact h.judgeWrite hq ht
        · exact h.judgeLatch hq ht
      · cases ht

theorem State.Bounded.judgeRun (h : s.Bounded) (fuel : Nat) : (s.judgeRun fuel).Bounded := by
  induction fuel generalizing s with
  | zero => exact h
  | succ n ih =>
    unfold State.judgeRun
    split
    · exact h
    · rename_i ht; exact ih (h.judgeHead ht)

theorem State.Bounded.judge (h : s.Bounded) : s.judge.Bounded := h.judgeRun _

theorem State.Bounded.headTakesSlot (h : s.Bounded) (ht : s.headTakesSlot = some t) : t.Bounded := by
  unfold State.headTakesSlot at ht
  split at ht
  · exact h.judgeHead ht
  · cases ht

/-- The head frame leaves the buffer. -/
theorem State.Bounded.dropFrame (h : s.Bounded) {f : Frame} {rest : List Frame} (hi : s.intake = f :: rest) :
    ({ s with intake := rest } : State).Bounded := by
  have hl := h.frames
  rw [hi, List.length_cons] at hl
  exact { h with frames := Nat.le_of_succ_le hl }

theorem State.Bounded.intakeTakesSlot (h : s.Bounded) {b : Fin 4} (ht : s.intakeTakesSlot b = some t) : t.Bounded := by
  obtain ⟨f, rest, o, hi, -, hl, rfl⟩ := intakeTakesSlot_write ht
  exact (h.dropFrame hi).enqueue o hl

theorem State.Bounded.slotFreedIn (h : s.Bounded) (b : Fin 4) (fuel : Nat) : (s.slotFreedIn b fuel).Bounded := by
  induction fuel generalizing s with
  | zero => exact h.grantPass
  | succ n ih =>
    obtain ⟨x, s', hp, he | ⟨u, hu, he⟩ | ⟨-, u, hu, he⟩⟩ := slotFreedIn_turn s b n <;> rw [he]
    · exact (h.pick hp).grantPass
    · exact ih ((h.pick hp).headTakesSlot hu).judge
    · exact ih ((h.pick hp).intakeTakesSlot hu)

theorem State.Bounded.slotFreed (h : s.Bounded) (b : Fin 4) : (s.slotFreed b).Bounded := h.slotFreedIn b _

/-! ## The Split Unit -/

theorem State.Bounded.dropQueued (h : s.Bounded) (i : Fin 16) (b : Fin 4) : (s.dropQueued i b).Bounded :=
  h.modBranch (Nat.le_trans (List.length_filter_le _ _) (h.operations b))

theorem State.Bounded.endEntry (h : s.Bounded) (i : Fin 16) (st : EntryState) (status : Status) :
    (s.endEntry i st status).Bounded := by
  unfold State.endEntry
  split
  · exact h
  · exact (h.setEntry i _).dropQueued i _

theorem State.Bounded.freeEntry (h : s.Bounded) (i : Fin 16) : (s.freeEntry i).Bounded := by
  unfold State.freeEntry
  split
  · exact h
  · have hf : ({ s.setEntry i none with ageOrder := s.ageOrder.filter fun j => !(j == i) } : State).Bounded := { h with }
    dsimp only
    split
    · exact hf.claims
    · exact hf.pollFreed _

theorem State.Bounded.freeIfDone (h : s.Bounded) (i : Fin 16) : (s.freeIfDone i).Bounded := by
  unfold State.freeIfDone
  split
  · exact h
  · split
    · exact h.freeEntry i
    · exact h

theorem State.Bounded.closeShort (h : s.Bounded) (i : Fin 16) (e : SplitEntry) (offset : Nat) :
    (s.closeShort i e offset).Bounded := (h.setEntry i _).dropQueued i _

theorem State.Bounded.settlePiece (h : s.Bounded) (i : Fin 16) (e : SplitEntry) (o : Operation) (length : Nat)
    (first : Bool) (status : Status) : (s.settlePiece i e o length first status).Bounded := by
  unfold State.settlePiece
  split
  · split
    · exact h.setEntry i _
    · split
      · exact h.closeShort i e _
      · exact (h.setEntry i _).endEntry i _ _
  · exact h.setEntry i _

theorem State.Bounded.pieceEnd (h : s.Bounded) (i : Fin 16) (o : Operation) (length : Nat) (first : Bool)
    (status : Status) : (s.pieceEnd i o length first status).Bounded := by
  unfold State.pieceEnd
  split
  · exact h
  · exact ((h.settlePiece i _ o length first status).slotFreed _).freeIfDone i

theorem State.Bounded.storeByte (h : s.Bounded) (i : Fin 16) (byte : Byte) : (s.storeByte i byte).Bounded := by
  unfold State.storeByte
  split
  · exact h
  · exact h.setEntry i _

theorem State.Bounded.extendDeadline (h : s.Bounded) (i : Fin 16) (e : SplitEntry) : (s.extendDeadline i e).Bounded :=
  (h.setEntry i _).setFlag _

/-! ## The transmitter and the end of an event -/

theorem State.Bounded.beginFrame (h : s.Bounded) : s.beginFrame.Bounded := by
  unfold State.beginFrame
  split
  · split
    · rename_i r rest hq
      have hl := h.responses
      rw [hq, List.length_cons] at hl
      exact { h with responses := Nat.le_of_succ_le hl }
    · split
      · exact { h with }
      · split
        · exact h
        · split
          · exact h
          · exact { h with }
  · exact h

@[simp] theorem beginAttempt_queue (br : Branch) (o : Operation) : (br.beginAttempt o).queue = br.queue := by
  unfold Branch.beginAttempt
  split
  · split <;> rfl
  · rfl

theorem State.Bounded.takeNext (h : s.Bounded) (b : Fin 4) : (s.takeNext b).Bounded := by
  unfold State.takeNext
  split
  · exact h
  · rename_i o rest hq
    refine State.Bounded.slotFreed ?_ b
    have hl := h.operations b
    rw [hq, List.length_cons] at hl
    have hm := h.modBranch (b := b) (f := fun br => Branch.beginAttempt
      { br with queue := rest, op := some o, retryCount := 0, lastCause := .absent, told := none } o)
      (by rw [beginAttempt_queue]; exact Nat.le_of_succ_le hl)
    unfold State.takeOp
    dsimp only
    split
    · exact hm.setEntry _ _
    · exact hm

theorem State.Bounded.postNext (h : s.Bounded) (b : Fin 4) (hr : s.responseQueue.length < 16) :
    (s.postNext b).Bounded := by
  unfold State.postNext
  split
  · exact h
  · exact (h.pushRecord _ hr).keepQueue fun _ => rfl

theorem responseRoom_of_mayPost {b : Fin 4} (h : s.mayPost b = true) : s.responseQueue.length < 16 :=
  (recordRoom_iff s).1 (Bool.and_eq_true_iff.1 h).2

/-- An answer follows at once only while the Response Queue has room (R81). -/
theorem responseRoom_of_follows {b : Fin 4} (h : Follow.post b ∈ s.follows) : s.responseQueue.length < 16 := by
  unfold State.follows at h
  rcases List.mem_append.1 h with h | h
  · rcases List.mem_append.1 h with h | h
    · obtain ⟨c, -, hc⟩ := List.mem_map.1 h; cases hc
    · obtain ⟨c, hc, -⟩ := List.mem_map.1 h
      exact responseRoom_of_mayPost (List.mem_filter.1 hc).2
  · split at h
    · cases List.mem_singleton.1 h
    · cases h

theorem State.Bounded.follow (h : s.Bounded) (f : Follow) (hr : ∀ b, f = .post b → s.responseQueue.length < 16) :
    (s.follow f).Bounded := by
  cases f with
  | take b => exact h.takeNext b
  | post b => exact h.postNext b (hr b rfl)
  | judge => exact h.judge

theorem State.Bounded.settleIn (h : s.Bounded) (fuel : Nat) : (s.settleIn fuel).Bounded := by
  induction fuel generalizing s with
  | zero => exact h
  | succ n ih =>
    unfold State.settleIn
    split
    · exact h
    · rename_i f s' hp
      refine ih ((h.pick hp).follow f fun b hb => ?_)
      have hq : s'.responseQueue = s.responseQueue := (congrArg State.responseQueue (pick_only s _ _ _ hp) :)
      rw [hq]
      exact responseRoom_of_follows (hb ▸ pick_mem s _ _ _ hp)

theorem State.Bounded.settle (h : s.Bounded) : s.settle.Bounded := h.settleIn _

theorem State.Bounded.quiesce (h : s.Bounded) : s.quiesce.Bounded := by
  unfold State.quiesce
  split
  · exact { h with }
  · exact h

theorem State.Bounded.endEvent (h : s.Bounded) : s.endEvent.Bounded := h.settle.beginFrame.settle.quiesce

/-! ## Runs of the engines -/

theorem State.Bounded.recordFault (h : s.Bounded) (b : Fin 4) (o : Operation) (status : Status) :
    (s.recordFault b o status).Bounded := by
  have hf (x : Option FaultRecord) : ({ s with fault := x } : State).Bounded := { h with }
  exact (hf _).setFlag _

theorem State.Bounded.handOn (h : s.Bounded) (b : Fin 4) (o : Operation) (status : Status) (dataDone : Nat) :
    (s.handOn b o status dataDone).Bounded := by
  unfold State.handOn
  split
  · exact h.pieceEnd _ o _ _ status
  · split
    · exact h
    · exact h.recordFault b o status
  · exact h.addAnswer b _
  · dsimp only
    split
    · exact h.addAnswer b _
    · exact (h.addAnswer b _).reportMember _ _

@[simp] theorem afterRun_queue (br : Branch) (stuck : Bool) : (br.afterRun stuck).queue = br.queue := by
  unfold Branch.afterRun
  split <;> rfl

theorem State.Bounded.endRun (h : s.Bounded) (b : Fin 4) (status : Status) (stuck : Bool) :
    (s.endRun b status stuck).Bounded := by
  unfold State.endRun
  split
  · exact h
  · rename_i o _
    have hd : (s.modBranch b Branch.dropOp).Bounded := h.keepQueue fun _ => rfl
    exact ((hd.handOn b o status _).keepQueue fun br => afterRun_queue br stuck).roomFreed

theorem State.Bounded.tellEnd (h : s.Bounded) (b : Fin 4) (cause : EndCause) : (s.tellEnd b cause).Bounded := by
  unfold State.tellEnd
  dsimp only
  split
  · exact h
  · split
    · exact h.endRun b _ _
    · exact State.Bounded.roomFreed (h.keepQueue fun _ => rfl)

theorem State.Bounded.tellUnwanted (h : s.Bounded) (i : Fin 16) (b : Fin 4) : (s.tellUnwanted i b).Bounded := by
  unfold State.tellUnwanted
  split
  · exact h
  · split
    · exact h.tellEnd b _
    · exact h

theorem State.Bounded.abandon (h : s.Bounded) (i : Fin 16) (status : Status) : (s.abandon i status).Bounded := by
  unfold State.abandon
  split
  · exact h
  · exact (((h.endEntry i _ status).tellUnwanted i _).slotFreed _).roomFreed

theorem State.Bounded.expire (h : s.Bounded) (i : Fin 16) : (s.expire i).Bounded := by
  unfold State.expire
  split
  · exact h
  · split
    · split
      · exact h.extendDeadline i _
      · exact (h.abandon i _).setFlag _
    · exact h

@[simp] theorem seeOther_queue (br : Branch) : br.seeOther.queue = br.queue := by
  unfold Branch.seeOther
  split <;> rfl

@[simp] theorem release_queue (br : Branch) : br.release.queue = br.queue := seeOther_queue br

@[simp] theorem beginPause_queue (br : Branch) (o : Operation) : (br.beginPause o).queue = br.queue := by
  unfold Branch.beginPause
  split
  · exact beginAttempt_queue br o
  · rfl

theorem State.Bounded.afterLoss (h : s.Bounded) (b : Fin 4) (o : Operation) : (s.afterLoss b o).Bounded := by
  unfold State.afterLoss
  split
  · exact h.endRun b _ _
  · exact State.Bounded.roomFreed (h.keepQueue fun _ => rfl)

theorem State.Bounded.loseArbitration (h : s.Bounded) (b : Fin 4) : (s.loseArbitration b).Bounded := by
  have hr : (s.modBranch b Branch.release).Bounded := h.keepQueue release_queue
  unfold State.loseArbitration
  dsimp only
  split
  · exact h
  · split
    · split
      · exact hr.endRun b _ _
      · split
        · split
          · exact hr.endRun b _ _
          · exact hr.endRun b _ _
          · refine State.Bounded.afterLoss ?_ b _
            exact hr.keepQueue fun _ => rfl
        · refine State.Bounded.afterLoss ?_ b _
          exact hr.keepQueue fun _ => rfl
    · exact h

theorem State.Bounded.otherStart (h : s.Bounded) (b : Fin 4) : (s.otherStart b).Bounded := by
  unfold State.otherStart
  dsimp only
  split
  · exact h.keepQueue seeOther_queue
  · split
    · exact h.loseArbitration b
    · split
      · exact h
      · refine h.keepQueue fun br => ?_
        dsimp only
        split
        · exact seeOther_queue br
        · rfl

theorem State.Bounded.ownStart (h : s.Bounded) (b : Fin 4) : (s.ownStart b).Bounded := by
  unfold State.ownStart
  split
  · exact h.keepQueue fun _ => rfl
  · exact h

theorem State.Bounded.leaveBusyOther (h : s.Bounded) (b : Fin 4) : (s.leaveBusyOther b).Bounded := by
  unfold State.leaveBusyOther
  split
  · exact h
  · split
    · exact h.keepQueue fun br => beginAttempt_queue br _
    · exact h

theorem State.Bounded.otherStop (h : s.Bounded) (b : Fin 4) : (s.otherStop b).Bounded := by
  unfold State.otherStop
  split
  · exact h
  · refine State.Bounded.leaveBusyOther ?_ b
    exact (h.loseArbitration b).keepQueue fun _ => rfl

theorem State.Bounded.ownStop (h : s.Bounded) (b : Fin 4) : (s.ownStop b).Bounded := by
  have hs : (s.modBranch b Branch.seeStop).Bounded := h.keepQueue fun _ => rfl
  unfold State.ownStop
  dsimp only
  split
  · exact h
  · split
    · split
      · exact hs.endRun b _ _
      · split
        · exact hs.endRun b _ _
        · exact hs.endRun b _ _
        · split
          · exact hs.endRun b _ _
          · exact hs.keepQueue fun br => beginPause_queue br _
    · exact h

/-! ## Bytes and clocks -/

@[simp] theorem toWriteData_queue (br : Branch) (o : Operation) : (br.toWriteData o).queue = br.queue := by
  unfold Branch.toWriteData
  split <;> rfl

@[simp] theorem ackSubaddress_queue (br : Branch) (o : Operation) : (br.ackSubaddress o).queue = br.queue := by
  unfold Branch.ackSubaddress
  dsimp only
  split
  · rfl
  · split
    · rfl
    · split
      · rfl
      · exact toWriteData_queue _ o

@[simp] theorem ackData_queue (br : Branch) (o : Operation) : (br.ackData o).queue = br.queue := by
  unfold Branch.ackData
  dsimp only
  split
  · rfl
  · split <;> rfl

@[simp] theorem endClear_queue (br : Branch) (stopMade : Bool) : (br.endClear stopMade).queue = br.queue := by
  unfold Branch.endClear
  dsimp only
  split <;> rfl

theorem State.Bounded.beginReadByte (h : s.Bounded) (b : Fin 4) (i : Fin 16) (o : Operation) :
    (s.beginReadByte b i o).Bounded := by
  unfold State.beginReadByte
  exact h.keepQueue fun _ => rfl

theorem State.Bounded.ackAddress (h : s.Bounded) (b : Fin 4) (o : Operation) : (s.ackAddress b o).Bounded := by
  have ha : (s.modBranch b fun br => { br with
    stretchCounter := 0, progress := { br.progress with addressAcked := true } }).Bounded := h.keepQueue fun _ => rfl
  unfold State.ackAddress
  dsimp only
  split
  · exact ha.keepQueue fun _ => rfl
  · split
    · split
      · exact ha.beginReadByte b _ o
      · exact ha
    · split
      · exact ha.keepQueue fun br => toWriteData_queue br o
      · exact ha.keepQueue fun _ => rfl

theorem State.Bounded.receiveData (h : s.Bounded) (b : Fin 4) (o : Operation) (i : Fin 16) (length : Nat) (byte : Byte) :
    (s.receiveData b o i length byte).Bounded := by
  unfold State.receiveData
  dsimp only
  split
  · exact State.Bounded.roomFreed (h.keepQueue fun _ => rfl)
  · generalize ((s.branch b).progress.reserved && s.byteWanted i (o.offset + (s.branch b).progress.dataDone)) = stores
    have hd (u : State) (hu : u.Bounded) : (u.modBranch b fun x => { x with
        stretchCounter := 0
        progress := { x.progress with reserved := false, dataDone := x.progress.dataDone + 1 } }).Bounded :=
      hu.keepQueue fun _ => rfl
    cases stores
    · split
      · exact ((hd s h).roomFreed).beginReadByte b i o
      · exact ((hd s h).roomFreed).keepQueue fun _ => rfl
    · split
      · exact (hd _ (h.storeByte i byte)).beginReadByte b i o
      · exact (hd _ (h.storeByte i byte)).keepQueue fun _ => rfl

theorem State.Bounded.judgeClock (h : s.Bounded) (b : Fin 4) : (s.judgeClock b).Bounded := by
  have hf := h.setFlag .branchStuck
  unfold State.judgeClock
  dsimp only
  split
  · split
    · exact hf.keepQueue fun br => endClear_queue br false
    · split
      · exact hf
      · exact hf.endRun b _ _
  · exact h

theorem State.Bounded.judgeBusy (h : s.Bounded) (b : Fin 4) : (s.judgeBusy b).Bounded := by
  unfold State.judgeBusy
  split
  · refine State.Bounded.setFlag ?_ _
    exact h.keepQueue fun _ => rfl
  · exact h

end Sys2Proof.Machine
end

section
/-! SUPPORT. The bounds through the Release Unit, the resets and the management space. -/

namespace Sys2Proof.Machine

variable {s t : State}

/-! ## The Release Unit -/

theorem State.Bounded.markDue (h : s.Bounded) : s.markDue.Bounded := by
  have hm : ({ s with releaseQueue := s.releaseQueue.map (ReleaseEntry.markDue s.stamp) } : State).Bounded :=
    { h with releases := by rw [List.length_map]; exact h.releases }
  unfold State.markDue
  dsimp only
  split
  · exact hm.wakeUp
  · exact hm

theorem State.Bounded.insertEntry (h : s.Bounded) (e : ReleaseEntry) (hl : s.releaseQueue.length < 32) :
    (s.insertEntry e).Bounded := by
  refine State.Bounded.markDue { h with releases := ?_ }
  rw [settleWaiting_length, insertRelease_length]
  exact hl

theorem State.Bounded.releaseRow (h : s.Bounded) (row : Instr) : (s.releaseRow row).Bounded := by
  unfold State.releaseRow
  split
  · split
    · exact h
    · rename_i ht; exact (h.judgeHead ht).judge.endEvent
  · exact h

theorem State.Bounded.expireEach (h : s.Bounded) (due : List (Fin 16)) (fuel : Nat) : (s.expireEach due fuel).Bounded := by
  induction fuel generalizing s due with
  | zero => exact h
  | succ n ih =>
    unfold State.expireEach
    split
    · exact h
    · rename_i i s' hp; exact ih ((h.pick hp).expire i) _
    · rename_i s' hp
      have hs := h.pick hp
      refine ih ?_ due
      cases ht : s'.judgeHead with
      | none => exact hs
      | some u => exact hs.judgeHead ht

theorem State.Bounded.writeStamp (h : s.Bounded) (value : Stamp) : (s.writeStamp value).Bounded := by
  have hs : ({ s with stamp := value, tickTimer := 0, tickLength := s.tickMicros } : State).Bounded := { h with }
  exact hs.markDue.expireEach _ _

/-! ## Resets -/

theorem State.Bounded.removeByReset (h : s.Bounded) (b : Fin 4) (o : Operation) : (s.removeByReset b o).Bounded := by
  unfold State.removeByReset
  split
  · exact h
  · exact h.recordFault b o _
  · exact h.addAnswer b _
  · exact (h.addAnswer b _).reportMember _ _

/-- An Issue Queue is emptied. -/
theorem State.Bounded.emptyQueue (h : s.Bounded) (b : Fin 4) : (s.modBranch b fun br => { br with queue := [] }).Bounded :=
  h.modBranch (Nat.zero_le 16)

theorem State.Bounded.resetQueue (h : s.Bounded) (b : Fin 4) : (s.resetQueue b).Bounded := by
  have hf (u : State) (hu : u.Bounded) : ({ u with fault := none } : State).Bounded := { hu with }
  have h1 := State.Bounded.foldl (f := fun t i => t.endEntry i .closing .branchReset)
    (fun _ i hu => hu.endEntry i _ _) (s.gatheringOn b) h
  have h2 := State.Bounded.foldl (f := fun t o => t.removeByReset b o) (fun _ o hu => hu.removeByReset b o)
    (s.branch b).queue (hf _ (h1.emptyQueue b))
  unfold State.resetQueue
  exact h2.modAttn b _

theorem State.Bounded.resetEngine (h : s.Bounded) (b : Fin 4) : (s.resetEngine b).Bounded := by
  unfold State.resetEngine
  dsimp only
  split
  · exact h
  · split
    · refine State.Bounded.tellEnd ?_ b _
      exact h.keepQueue fun _ => rfl
    · split
      · exact h.keepQueue fun _ => rfl
      · exact h.keepQueue fun _ => rfl

theorem State.Bounded.branchReset (h : s.Bounded) (b : Fin 4) : (s.branchReset b).Bounded :=
  ((h.resetQueue b).resetEngine b).grantPass.roomFreed

theorem State.Bounded.enableBranch (h : s.Bounded) (b : Fin 4) : (s.enableBranch b).Bounded := by
  unfold State.enableBranch
  split
  · exact h
  · refine h.keepQueue fun br => ?_
    dsimp only
    split <;> rfl

theorem State.Bounded.disableBranch (h : s.Bounded) (b : Fin 4) : (s.disableBranch b).Bounded := by
  unfold State.disableBranch
  split
  · refine State.Bounded.branchReset ?_ b
    exact h.keepQueue fun _ => rfl
  · exact h

theorem State.Bounded.writeBranchControl (h : s.Bounded) (b : Fin 4) (enabled : Bool) (rate : Rate) :
    (s.writeBranchControl b enabled rate).Bounded := by
  have hr : (s.modBranch b fun br => { br with rate := rate }).Bounded := h.keepQueue fun _ => rfl
  unfold State.writeBranchControl
  dsimp only
  split
  · exact hr.enableBranch b
  · exact hr.disableBranch b

theorem State.Bounded.removeByOffline (h : s.Bounded) (b : Fin 4) (o : Operation) : (s.removeByOffline b o).Bounded := by
  unfold State.removeByOffline
  split
  · exact h
  · exact h
  · exact h.addAnswer b _
  · exact h.addAnswer b _

theorem State.Bounded.abortQueue (h : s.Bounded) (b : Fin 4) : (s.abortQueue b).Bounded :=
  State.Bounded.foldl (f := fun t o => t.removeByOffline b o) (fun _ o hu => hu.removeByOffline b o) _ (h.emptyQueue b)

theorem State.Bounded.idleGroups (h : s.Bounded) : s.idleGroups.Bounded :=
  { h with
    members := fun g => by
      have hg : s.idleGroups.group g = { s.group g with state := .idle } := getElem_mapAll _ _ _ g.isLt
      rw [hg]
      exact h.members g }

theorem State.Bounded.enterOffline (h : s.Bounded) : s.enterOffline.Bounded := by
  have h0 : ({ s with opState := .offline } : State).Bounded := { h with }
  have h1 := State.Bounded.foldl (f := fun t i => t.endEntry i .abandoned .aborted) (fun _ i hu => hu.endEntry i _ _)
    (sixteen.filter (State.abortable { s with opState := .offline })) h0
  have h2 := State.Bounded.foldl (f := fun t b => t.abortQueue b) (fun _ b hu => hu.abortQueue b) four h1
  have h3 (u : State) (hu : u.Bounded) (v : Vector Attn 4) : ({ u.idleGroups with attns := v } : State).Bounded :=
    { hu.idleGroups with }
  exact (State.Bounded.foldl (f := fun t b => t.tellEnd b .aborted) (fun _ b hu => hu.tellEnd b _) four
    (h3 _ h2 _)).grantPass.roomFreed

/-- The reset values are within every capacity. -/
theorem resetTo_bounded (straps : Straps) (opState : OpState) (holdIn : Bool) (inputs : Vector Bool 4)
    (pending : List Instr) (freeCount : Nat) : (State.resetTo straps opState holdIn inputs pending freeCount).Bounded where
  responses := Nat.zero_le 16
  frames := Nat.zero_le 2
  operations b := by
    have hb : (State.resetTo straps opState holdIn inputs pending freeCount).branch b = Branch.reset :=
      Vector.getElem_replicate b.isLt
    rw [hb]
    exact Nat.zero_le 16
  releases := Nat.zero_le 32
  routes := Nat.zero_le 64
  ascending := List.Pairwise.nil
  limit := by
    show 64 ≤ resetCommitLimit straps ∧ resetCommitLimit straps ≤ 1023
    unfold resetCommitLimit
    split <;> decide
  members g := by
    have hg : (State.resetTo straps opState holdIn inputs pending freeCount).group g = Group.reset :=
      Vector.getElem_replicate g.isLt
    rw [hg]
    decide

theorem bridgeReset_bounded (s : State) : s.bridgeReset.Bounded := resetTo_bounded _ _ _ _ _ _

/-! ## Register writes -/

/-- The state that a word leaves, when it is applied, is within bounds. -/
def WordOutcome.Bounded : WordOutcome → Prop
  | .applied t => t.Bounded
  | .stops _ => True

theorem State.Bounded.writeState (h : s.Bounded) (v : Nat) : (s.writeState v).Bounded := by
  have hs (o : OpState) : ({ s with opState := o } : State).Bounded := { h with }
  have hi : ({ s with intakeStopped := true } : State).Bounded := { h with }
  unfold State.writeState
  split
  · split
    · exact hs _
    · exact hi
    · exact h
  · split
    · exact hs _
    · trivial
    · exact h
  · trivial
  · split
    · exact h.enterOffline
    · exact h.enterOffline
    · exact h
  · trivial
  · exact h

theorem State.Bounded.writeResetCommand (h : s.Bounded) (v : Nat) : (s.writeResetCommand v).Bounded := by
  have hi : ({ s with intakeStopped := true } : State).Bounded := { h with }
  unfold State.writeResetCommand
  split
  · exact h
  · exact hi
  · exact h.branchReset 0
  · exact h.branchReset 1
  · exact h.branchReset 2
  · exact h.branchReset 3
  · trivial

/-- The limit is clamped (R50). -/
theorem State.Bounded.writeCommitLimit (h : s.Bounded) (v : Nat) : (s.writeCommitLimit v).Bounded := by
  refine State.Bounded.grantPass { h with limit := ?_ }
  dsimp only
  omega

theorem State.Bounded.writeNoticeMask (h : s.Bounded) (w : Word) : (s.writeNoticeMask w).Bounded := by
  have hm : ({ s with noticeMask := w.setWidth 11 } : State).Bounded := { h with }
  unfold State.writeNoticeMask
  dsimp only
  split
  · exact hm.raiseNotice
  · exact hm

theorem State.Bounded.writeNoticeArm (h : s.Bounded) (w : Word) : (s.writeNoticeArm w).Bounded := by
  have hm : ({ s with noticeArm := w.getLsbD 0 } : State).Bounded := { h with }
  unfold State.writeNoticeArm
  dsimp only
  split
  · exact hm.raiseNotice
  · exact hm

theorem byteField_bounded {w : Word} {store : Byte → State} (h : ∀ x, (store x).Bounded) : (byteField w store).Bounded := by
  unfold byteField
  split
  · trivial
  · exact h _

theorem State.Bounded.writeControl (h : s.Bounded) (b : Fin 4) (w : Word) : (s.writeControl b w).Bounded := by
  unfold State.writeControl
  split
  · trivial
  · exact h.writeBranchControl b _ _

theorem State.Bounded.writeAttnWord (h : s.Bounded) (b : Fin 4) (w : Word) : (s.writeAttnWord b w).Bounded := by
  have hc (mode : AttnMode) : (s.writeAttnControl b (w.getLsbD 0) mode (w.getLsbD 3)).Bounded :=
    (h.modAttn b _).levelTrigger b
  unfold State.writeAttnWord
  split
  · exact hc _
  · exact hc _
  · trivial

theorem State.Bounded.writeAttnSize (h : s.Bounded) (b : Fin 4) (w : Word) : (s.writeAttnSize b w).Bounded := by
  unfold State.writeAttnSize
  dsimp only
  split
  · trivial
  · exact h.writeAttnFields b _

/-- OPEN begins with no member, CLOSE and ABORT leave the counters (R146 to R148). -/
theorem State.Bounded.writeGroupCommand (h : s.Bounded) (g : Fin 7) (v : Nat) : (s.writeGroupCommand g v).Bounded := by
  unfold State.writeGroupCommand
  split
  · unfold State.openGroup
    by_cases hs : (s.group g).state = .idle
    · rw [if_pos hs]
      exact h.modGroup ⟨Nat.le_refl 0, Nat.zero_le 32⟩
    · rw [if_neg hs]
      trivial
  · unfold State.closeGroup
    by_cases hs : (s.group g).state = .collecting
    · rw [if_pos hs]
      refine State.Bounded.fireIfComplete ?_ g
      exact h.keepCounts fun _ => ⟨rfl, rfl, rfl⟩
    · rw [if_neg hs]
      trivial
  · exact State.Bounded.keepCounts h fun _ => ⟨rfl, rfl, rfl⟩
  · trivial

theorem State.Bounded.writeGroupAction (h : s.Bounded) (g : Fin 7) (w : Word) : (s.writeGroupAction g w).Bounded := by
  unfold State.writeGroupAction
  split
  · exact State.Bounded.keepCounts h fun _ => ⟨rfl, rfl, rfl⟩
  · trivial

theorem State.Bounded.writeGroupWidth (h : s.Bounded) (g : Fin 7) (w : Word) : (s.writeGroupWidth g w).Bounded := by
  unfold State.writeGroupWidth
  split
  · trivial
  · exact State.Bounded.keepCounts h fun _ => ⟨rfl, rfl, rfl⟩

theorem State.Bounded.writeWord (h : s.Bounded) (r : Register) (w : Word) : (s.writeWord r w).Bounded := by
  cases r with
  | state => exact h.writeState _
  | resetCommand => exact h.writeResetCommand _
  | commitLimit => exact h.writeCommitLimit _
  | timeoutClass c =>
    have hs (v : Vector (BitVec 24) 4) : ({ s with timeoutClasses := v } : State).Bounded := { h with }
    simp only [State.writeWord]
    split
    · trivial
    · exact hs _
  | tickShift =>
    have hs (x : Fin 8) : ({ s with tickShift := x } : State).Bounded := { h with }
    simp only [State.writeWord]
    split
    · trivial
    · exact hs _
  | stamp => exact h.writeStamp w
  | lateWindow =>
    have hs : ({ s with lateWindow := w.setWidth 16 } : State).Bounded := { h with }
    simp only [State.writeWord]
    split
    · trivial
    · exact hs
  | eventFlags =>
    have hs (x : BitVec 11) : ({ s with flags := x } : State).Bounded := { h with }
    exact hs _
  | noticeMask => exact h.writeNoticeMask w
  | noticeArm => exact h.writeNoticeArm w
  | fault word =>
    have hs : ({ s with fault := none } : State).Bounded := { h with }
    simp only [State.writeWord]
    split
    · exact hs
    · exact h
  | branchControl b => exact h.writeControl b w
  | branchGap b =>
    have hs (x : Byte) : (s.modBranch b fun br => { br with gap := x }).Bounded := h.keepQueue fun _ => rfl
    exact byteField_bounded hs
  | branchPause b =>
    have hs (x : Byte) : (s.modBranch b fun br => { br with retryPause := x }).Bounded := h.keepQueue fun _ => rfl
    exact byteField_bounded hs
  | branchStretch b =>
    refine byteField_bounded fun _ => State.Bounded.judgeClock ?_ b
    exact h.keepQueue fun _ => rfl
  | branchBusy b =>
    refine byteField_bounded fun _ => State.Bounded.judgeBusy ?_ b
    exact h.keepQueue fun _ => rfl
  | attnControl b => exact h.writeAttnWord b w
  | attnPlace b => exact h.writeAttnFields b _
  | attnSize b => exact h.writeAttnSize b w
  | groupCommand g => exact h.writeGroupCommand g _
  | groupAction g => exact h.writeGroupAction g w
  | groupWidth g => exact h.writeGroupWidth g w
  | _ => exact h

theorem State.Bounded.writeWords (h : s.Bounded) (address k : Nat) (words : List Word) :
    (s.writeWords address k words).state.Bounded := by
  induction words generalizing s k with
  | nil => exact h
  | cons w rest ih =>
    unfold State.writeWords
    split
    · exact h
    · rename_i r _
      split
      · exact h
      · rename_i u hu
        have hw := h.writeWord r w
        rw [hu] at hw
        refine ih ?_ (k + 1)
        unfold State.betweenWords
        split
        · exact hw
        · exact State.Bounded.settle hw

theorem State.Bounded.mgmtWrite (h : s.Bounded) (rt : ReqTag) (bridgeNumber : BitVec 3) (address : Nat)
    (words : List Word) (hr : s.responseQueue.length < 16) : (s.mgmtWrite rt bridgeNumber address words).Bounded := by
  have h0 : ({ s with bridgeNumber := bridgeNumber, intake := [] } : State).Bounded := { h with frames := Nat.zero_le 2 }
  have h1 := (h0.pushRecord (mgmtCompletion rt .ok 0 []) hr).writeWords address 0 words
  have h2 (u : State) (hu : u.Bounded) (q : Nat) (r : Record) : (State.setAnswer { u with intake := s.intake } q r).Bounded :=
    { hu with
      frames := h.frames
      responses := by
        show (u.responseQueue.set q r).length ≤ 16
        rw [List.length_set]
        exact hu.responses }
  exact h2 _ h1 _ _

theorem readEffect_responseQueue (s : State) (r : Register) : (s.readEffect r).responseQueue = s.responseQueue := by
  unfold State.readEffect
  split <;> rfl

theorem State.Bounded.readEffect (h : s.Bounded) (r : Register) : (s.readEffect r).Bounded := by
  unfold State.readEffect
  split
  · exact h.keepQueue fun _ => rfl
  · exact h

theorem readEffects_responseQueue (rs : List Register) (s : State) :
    (rs.foldl State.readEffect s).responseQueue = s.responseQueue := by
  induction rs generalizing s with
  | nil => rfl
  | cons r rs ih => exact (ih _).trans (readEffect_responseQueue s r)

theorem State.Bounded.mgmtRead (h : s.Bounded) (rt : ReqTag) (address words : Nat) (hr : s.responseQueue.length < 16) :
    (s.mgmtRead rt address words).Bounded := by
  unfold State.mgmtRead
  split
  · exact h.pushRecord _ hr
  · rename_i rs _
    have hb := State.Bounded.foldl (f := State.readEffect) (fun _ r hu => hu.readEffect r) rs h
    exact hb.pushRecord _ (by rw [readEffects_responseQueue]; exact hr)

end Sys2Proof.Machine
end

section
/-! SUPPORT. The bounds through reception, the decisions of Intake, the end of a send, every command and every step. -/

namespace Sys2Proof.Machine

variable {s t : State}

/-! ## Reception -/

theorem State.Bounded.placeFrame (h : s.Bounded) (f : Frame) : (s.placeFrame f).Bounded := by
  unfold State.placeFrame
  split
  · rename_i hl
    have hp : ({ s with intake := s.intake ++ [f] } : State).Bounded :=
      { h with frames := by rw [List.length_append]; exact hl }
    exact hp.wakeUp
  · exact h.setFlag _

theorem State.Bounded.scan (h : s.Bounded) (bytes : List Byte) (fuel : Nat) : (s.scan bytes fuel).Bounded := by
  have hx (u : State) (hu : u.Bounded) (x : Receiver) : ({ u with rx := x } : State).Bounded := { hu with }
  induction fuel generalizing s bytes with
  | zero => exact h
  | succ n ih =>
    unfold State.scan
    split
    · exact hx s h _
    · split
      · exact ih h _
      · split
        · dsimp only
          split
          · exact hx s h _
          · split
            · exact ih (h.placeFrame _) _
            · exact ih (h.setFlag _) _
        · exact hx s h _

theorem State.Bounded.receive (h : s.Bounded) (bytes : List Byte) : (s.receive bytes).Bounded := h.scan _ _

/-! ## Decisions -/

/-- The state that a decision leaves is within bounds, for an answer in a state with room for its record (R33). -/
def Decision.Bounded (room : Prop) : Decision → Prop
  | .refuse _ => True
  | .answer t => room → t.Bounded
  | .accept t => t.Bounded

theorem State.Bounded.decideRead (h : s.Bounded) (room : Prop) (rt : ReqTag) (ldn : Byte) (offset length : Nat) :
    (s.decideRead rt ldn offset length).Bounded room := by
  unfold State.decideRead
  split
  · trivial
  · split
    · trivial
    · split
      · trivial
      · exact h.createEntry _ _ _ _ _

theorem State.Bounded.decideWrite (h : s.Bounded) (room : Prop) (rt : ReqTag) (body : OpBody) (ldn : Byte)
    (offset count : Nat) : (s.decideWrite rt body ldn offset count).Bounded room := by
  unfold State.decideWrite
  split
  · trivial
  · split
    · trivial
    · rename_i hl; exact h.enqueue _ (Nat.lt_of_not_le hl)

theorem State.Bounded.decideConfirmed (h : s.Bounded) (room : Prop) (rt : ReqTag) (ldn : Byte) (offset : Nat)
    (data : List Byte) : (s.decideConfirmed rt ldn offset data).Bounded room := by
  unfold State.decideConfirmed
  split
  · trivial
  · exact h.decideWrite room rt _ ldn offset _

/-- A group that a TIMED WRITE joins has fewer than 32 members (R149). -/
theorem joinGroup_room {group : Byte} {g : Fin 7} {generation : Byte} (hj : s.joinGroup group = some (some (g, generation))) :
    (s.group g).members < 32 := by
  unfold State.joinGroup at hj
  split at hj
  · cases hj
  · split at hj
    · cases hj
    · split at hj
      · rename_i hc; cases hj; exact hc.2
      · cases hj

theorem State.Bounded.addMember (h : s.Bounded) {group : Byte} {member : Option (Fin 7 × Byte)}
    (hj : s.joinGroup group = some member) : (s.addMember member).Bounded := by
  unfold State.addMember
  split
  · exact h
  · rename_i g generation
    have hm := (h.members g).1
    exact h.modGroup ⟨Nat.le_succ_of_le hm, joinGroup_room hj⟩

theorem addMember_releaseQueue (s : State) (member : Option (Fin 7 × Byte)) :
    (s.addMember member).releaseQueue = s.releaseQueue := by
  unfold State.addMember
  split <;> rfl

theorem releaseRoom_of_not_full (h : ¬ s.releaseFull = true) : s.releaseQueue.length < 32 :=
  Nat.lt_of_not_le fun hl => h (decide_eq_true hl)

theorem State.Bounded.decideTimedWrite (h : s.Bounded) (room : Prop) (rt : ReqTag) (stamp : Stamp) (group ldn : Byte)
    (offset : Nat) (data : List Byte) : (s.decideTimedWrite rt stamp group ldn offset data).Bounded room := by
  unfold State.decideTimedWrite
  split
  · trivial
  · split
    · trivial
    · split
      · trivial
      · split
        · trivial
        · rename_i member hj
          split
          · trivial
          · rename_i hl
            refine (h.addMember hj).insertEntry _ ?_
            rw [addMember_releaseQueue]
            exact releaseRoom_of_not_full hl

theorem State.Bounded.decideTimedLatch (h : s.Bounded) (room : Prop) (rt : ReqTag) (stamp : Stamp) (lines : BitVec 4)
    (action : LatchAction) (width : BitVec 16) : (s.decideTimedLatch rt stamp lines action width).Bounded room := by
  unfold State.decideTimedLatch
  split
  · trivial
  · split
    · trivial
    · split
      · trivial
      · rename_i hl; exact h.insertEntry _ (releaseRoom_of_not_full hl)

theorem State.Bounded.cancelEntry (h : s.Bounded) (e : ReleaseEntry) : (s.cancelEntry e).Bounded := by
  have hf : ({ s with releaseQueue := s.releaseQueue.filter fun x => !(x.rt == e.rt) } : State).Bounded :=
    { h with releases := Nat.le_trans (List.length_filter_le _ _) h.releases }
  exact hf.cancelMember _

theorem State.Bounded.cancelTarget (h : s.Bounded) (target : ReqTag) : (s.cancelTarget target).2.Bounded := by
  unfold State.cancelTarget
  split
  · split
    · exact h.abandon _ _
    · exact h
  · split
    · exact h.cancelEntry _
    · split
      · exact h
      · exact h

/-- A table command keeps the table within 64 entries and ascending (R2, R10 to R15). -/
theorem tableCommand_bounded {x : List RouteEntry} (hl : x.length ≤ 64) (ha : RoutesAscend x) (command : Byte)
    (operand : List Byte) :
    (tableCommand x command operand).routes.length ≤ 64 ∧ RoutesAscend (tableCommand x command operand).routes := by
  unfold tableCommand
  split
  · unfold tableInsert
    split
    · exact ⟨hl, ha⟩
    · rename_i e _
      split
      · exact ⟨hl, ha⟩
      · rename_i hf
        split
        · exact ⟨hl, ha⟩
        · rename_i hr
          have hfree : findRoute x e.ldn = none := Option.not_isSome_iff_eq_none.1 hf
          exact ⟨by dsimp only; rw [insertRoute_length]; exact Nat.lt_of_not_le hr, insertRoute_ascends ha hfree⟩
  · unfold tableReplace
    split
    · exact ⟨hl, ha⟩
    · split
      · exact ⟨hl, ha⟩
      · exact ⟨by dsimp only; rw [replaceRoute_length]; exact hl, replaceRoute_ascends _ ha⟩
  · unfold tableRemove
    split
    · exact ⟨hl, ha⟩
    · exact ⟨Nat.le_trans (removeRoute_length_le _ _) hl, removeRoute_ascends _ ha⟩
  · unfold tableLookup
    split <;> exact ⟨hl, ha⟩
  · unfold tableNext
    split <;> exact ⟨hl, ha⟩
  · exact ⟨Nat.zero_le 64, List.Pairwise.nil⟩
  · exact ⟨hl, ha⟩

theorem State.Bounded.decideTable (h : s.Bounded) (rt : ReqTag) (command : Byte) (operand : List Byte) :
    (s.decideTable rt command operand).Bounded (s.responseQueue.length < 16) := by
  intro hr
  obtain ⟨hl, ha⟩ := tableCommand_bounded h.routes h.ascending command operand
  have ht : ({ s with routes := (tableCommand s.routes command operand).routes } : State).Bounded :=
    { h with routes := hl, ascending := ha }
  exact ht.pushRecord _ hr

theorem State.Bounded.decideRequest (h : s.Bounded) (rt : ReqTag) (request : Request) :
    (s.decideRequest rt request).Bounded (s.responseQueue.length < 16) := by
  cases request with
  | read ldn offset length => exact h.decideRead _ rt ldn offset length
  | write ldn offset data => exact h.decideWrite _ rt _ ldn offset _
  | writeConfirmed ldn offset data => exact h.decideConfirmed _ rt ldn offset data
  | timedWrite stamp group ldn offset data => exact h.decideTimedWrite _ rt stamp group ldn offset data
  | timedLatch stamp lines action width => exact h.decideTimedLatch _ rt stamp lines action width
  | cancel target => exact fun hr => (h.pushRecord _ hr).cancelTarget _
  | mgmtRead address words => exact fun hr => h.mgmtRead rt address words hr
  | mgmtWrite bridgeNumber address words => exact fun hr => h.mgmtWrite rt bridgeNumber address words hr
  | table command operand => exact h.decideTable rt command operand

theorem State.Bounded.decideFrame (h : s.Bounded) (f : Frame) :
    (s.decideFrame f).Bounded (s.responseQueue.length < 16) := by
  unfold State.decideFrame
  split
  · trivial
  · split
    · trivial
    · exact h.decideRequest _ _

theorem State.Bounded.takeHead (h : s.Bounded) {f : Frame} {rest : List Frame} (hi : s.intake = f :: rest)
    (ht : s.takeHead f rest = some t) : t.Bounded := by
  have hs := h.dropFrame hi
  have hd := hs.decideFrame f
  have hroom (hr : s.intakeRoom = true) : s.responseQueue.length < 16 :=
    Nat.lt_trans ((intakeRoom_iff s).1 hr) (by decide)
  unfold State.takeHead at ht
  dsimp only at ht
  split at ht
  · rename_i u hu
    cases ht
    rw [hu] at hd
    exact hd
  · rename_i u hu
    split at ht
    · rename_i hr
      cases ht
      rw [hu] at hd
      exact hd (hroom hr)
    · cases ht
  · split at ht
    · rename_i hr
      cases ht
      exact hs.pushRecord _ (hroom hr)
    · cases ht

theorem State.Bounded.takeRow (h : s.Bounded) (row : Instr) : (s.takeRow row).Bounded := by
  unfold State.takeRow
  split
  · exact h
  · rename_i hi
    split
    · split
      · exact h
      · rename_i ht; exact (h.takeHead hi ht).endEvent
    · exact h

/-! ## The end of a send -/

theorem State.Bounded.splitSent (h : s.Bounded) (i : Fin 16) (n : Nat) (final : Bool) : (s.splitSent i n final).Bounded := by
  unfold State.splitSent
  split
  · exact h
  · dsimp only
    refine State.Bounded.freeIfDone (State.Bounded.roomFreed ?_) i
    split
    · exact h.setEntry i _
    · exact (h.setEntry i _).grantPass

theorem State.Bounded.endSend (h : s.Bounded) (f : InFlight) : (s.endSend f).Bounded := by
  have hs : ({ s with sending := none } : State).Bounded := { h with }
  unfold State.endSend
  dsimp only
  split
  · exact bridgeReset_bounded _
  · exact hs
  · exact hs
  · exact hs.splitSent _ _ _

/-! ## Every command -/

/-- The next state of an outcome, when it gives one, is within bounds. -/
def BoundedOutcome : Host.Outcome State Fault Refusal → Prop
  | .next t => t.Bounded
  | .fault _ => True
  | .refused _ => True

/-- A step that is taken under a condition, and changes nothing without it (log 1). -/
theorem State.Bounded.nextIf (h : s.Bounded) {p : Prop} [Decidable p] (ht : p → t.Bounded) :
    BoundedOutcome (.next (if p then t else s)) := by
  split
  · rename_i hp; exact ht hp
  · exact h

theorem State.Bounded.gapElapsed (h : s.Bounded) (b : Fin 4) : BoundedOutcome (execGapElapsed b s) := by
  unfold execGapElapsed
  split
  · exact h
  · exact h.nextIf fun _ => h.keepQueue fun _ => rfl

theorem State.Bounded.pauseElapsed (h : s.Bounded) (b : Fin 4) : BoundedOutcome (execPauseElapsed b s) := by
  unfold execPauseElapsed
  split
  · exact h
  · exact h.nextIf fun _ => h.keepQueue fun br => beginAttempt_queue br.endPause _

theorem State.Bounded.busStartSeen (h : s.Bounded) (b : Fin 4) (party : Party) : BoundedOutcome (execBusStartSeen b party s) := by
  cases party with
  | self => exact h.ownStart b
  | other => exact (h.otherStart b).endEvent

theorem State.Bounded.busStopSeen (h : s.Bounded) (b : Fin 4) (party : Party) : BoundedOutcome (execBusStopSeen b party s) := by
  cases party with
  | self => exact (h.ownStop b).endEvent
  | other => exact (h.otherStop b).endEvent

theorem State.Bounded.byteAck (h : s.Bounded) (b : Fin 4) : BoundedOutcome (execByteAck b s) := by
  have ha (o : Operation) : (s.modBranch b fun br => br.ackSubaddress o).Bounded := h.keepQueue fun br => ackSubaddress_queue br o
  have hd (o : Operation) : (s.modBranch b fun br => br.ackData o).Bounded := h.keepQueue fun br => ackData_queue br o
  unfold execByteAck
  split
  · exact h
  · rename_i o _
    split
    · exact (h.ackAddress b o).endEvent
    · exact (h.ackAddress b o).endEvent
    · exact (h.ackAddress b o).endEvent
    · exact (ha o).endEvent
    · exact (hd o).endEvent
    · exact h

theorem State.Bounded.readByteReceived (h : s.Bounded) (b : Fin 4) (byte : Byte) :
    BoundedOutcome (execReadByteReceived b byte s) := by
  unfold execReadByteReceived
  split
  · exact h
  · split
    · exact h.nextIf fun _ => (h.receiveData b _ _ _ byte).endEvent
    · exact h

theorem State.Bounded.sendEnd (h : s.Bounded) : BoundedOutcome (execSendEnd s) := by
  unfold execSendEnd
  split
  · exact h
  · exact (h.endSend _).endEvent

theorem State.Bounded.stampAdvance (h : s.Bounded) : BoundedOutcome (execStampAdvance s) := by
  have hs : ({ s with
      stamp := s.stamp + 1, tickTimer := 0, tickLength := s.tickMicros
      releaseQueue := s.releaseQueue.map (ReleaseEntry.wait s.stamp) } : State).Bounded :=
    { h with releases := by rw [List.length_map]; exact h.releases }
  exact hs.markDue.endEvent

theorem State.Bounded.attentionTrigger (h : s.Bounded) (b : Fin 4) : BoundedOutcome (execAttentionTrigger b s) := by
  have ht := (h.modAttn b fun a => { a with line := false }).trigger b
  unfold execAttentionTrigger
  dsimp only [BoundedOutcome]
  split
  · exact ht
  · split
    · exact ht.wakeUp.endEvent
    · exact ht.endEvent

/-- Every command keeps the bounds: the rows of Intake by what a frame can do, every other by its own meaning. -/
theorem State.Bounded.exec (h : s.Bounded) (c : Instr) : BoundedOutcome (exec c s) := by
  have hh (x : Bool) : ({ s with holdIn := x } : State).Bounded := { h with }
  have hw : ({ s with opState := .active, wakeTimer := 0 } : State).Bounded := { h with }
  cases c with
  | frameArrival bytes => exact (h.receive bytes).endEvent
  | syncReceived => exact (h.receive _).endEvent
  | engineTakeOperation b => exact h.nextIf fun _ => (h.takeNext b).endEvent
  | gapElapsed b => exact h.gapElapsed b
  | busStartSeen b party => exact h.busStartSeen b party
  | busStopSeen b party => exact h.busStopSeen b party
  | arbitrationLoss b => exact (h.loseArbitration b).endEvent
  | addressNack b => exact h.nextIf fun _ => h.keepQueue fun _ => rfl
  | dataNack b => exact h.nextIf fun _ => h.keepQueue fun _ => rfl
  | byteAck b => exact h.byteAck b
  | readByteReceived b byte => exact h.readByteReceived b byte
  | pauseElapsed b => exact h.pauseElapsed b
  | clockStuck b held =>
    have hs : (s.modBranch b fun br => { br with stretchCounter := held }).Bounded := h.keepQueue fun _ => rfl
    exact h.nextIf fun _ => (hs.judgeClock b).endEvent
  | busClearEnd b stopMade =>
    have hs : (s.modBranch b fun br => br.endClear stopMade).Bounded := h.keepQueue fun br => endClear_queue br stopMade
    exact h.nextIf fun _ => hs.endEvent
  | busyLimitExceeded b =>
    have hs : (s.modBranch b fun x => { x with
      busyTimer := max x.busyTimer (x.busyLimit.toNat * 1000 + 1) }).Bounded := h.keepQueue fun _ => rfl
    exact h.nextIf fun _ => (hs.judgeBusy b).endEvent
  | runEnd b => exact h.nextIf fun _ => (h.ownStop b).endEvent
  | answerPosted b => exact h.nextIf fun hp => (h.postNext b (responseRoom_of_mayPost hp)).endEvent
  | deadlineExpiry place => exact h.nextIf fun _ => (h.expire place).endEvent
  | frameSendBegin => exact h.nextIf fun _ => h.beginFrame.endEvent
  | sendEnd => exact h.sendEnd
  | holdInAssert => exact hh true
  | holdInRelease => exact (hh false).endEvent
  | stampAdvance => exact h.stampAdvance
  | releaseTimedWrite => exact h.releaseRow _
  | releaseBranchOff => exact h.releaseRow _
  | releaseTimedLatch => exact h.releaseRow _
  | offlineAbortAnswer => exact h.releaseRow _
  | pulseEnd line => exact { h with }
  | attentionTrigger b => exact h.attentionTrigger b
  | attentionLineRise b => exact h.modAttn b _
  | holdoffEnd b => exact h.nextIf fun _ => (h.endHoldoff b).endEvent
  | wakeTimeEnd => exact h.nextIf fun _ => hw.claims.endEvent
  | coldReset straps => exact resetTo_bounded _ _ _ _ _ _
  | _ => exact h.takeRow _

/-! ## Every step -/

theorem State.Bounded.tick (h : s.Bounded) : s.tick.Bounded :=
  { h with
    operations := fun b => by
      have hb : s.tick.branch b = (s.branch b).tick := getElem_mapAll _ _ _ b.isLt
      rw [hb]
      exact h.operations b }

theorem State.Bounded.idle (h : s.Bounded) : BoundedOutcome (idle s) := by
  unfold Machine.idle
  split
  · rename_i hp; exact (h.pick hp).exec _
  · exact h.tick

theorem State.Bounded.step (h : s.Bounded) : BoundedOutcome (step s) := by
  have hs (q : List Instr) : ({ s with pending := q } : State).Bounded := { h with }
  unfold Machine.step
  split
  · exact h.idle
  · exact (hs _).exec _

/-- Settles O54: every command keeps the bounds, and so do a due step and the passing of a microsecond on an empty queue. -/
theorem boundedKept : Obligations.BoundedKept := by
  intro s t h ht
  have hs := h.step
  rw [ht] at hs
  exact hs

end Sys2Proof.Machine
end

section
/-! SUPPORT. How often the tag holders of a state carry a requester and tag pair: place by place, branch by branch. -/

namespace Sys2Proof.Machine

/-! ## How often a pair is carried -/

/-- How often the entry of a place carries a pair: once or not at all. -/
def placeTagCount (rt : ReqTag) (e : Option SplitEntry) : Nat := if placeTag? e = some rt then 1 else 0

/-- How often the writes of a branch carry a pair. -/
def Branch.tagCount (rt : ReqTag) (br : Branch) : Nat := br.tags.count rt

/-- How often an operation carries a pair: once or not at all. -/
def Operation.tagCount (rt : ReqTag) (o : Operation) : Nat := if o.tag? = some rt then 1 else 0

/-- How often the entries of the Release Queue carry a pair. -/
def State.releaseTagCount (s : State) (rt : ReqTag) : Nat := (s.releaseQueue.map ReleaseEntry.rt).count rt

/-- How often the tag holders of a state carry a pair, place by place and branch by branch. -/
def State.tagCount (s : State) (rt : ReqTag) : Nat :=
  (sixteen.map fun i => placeTagCount rt (s.entry i)).sum + s.releaseTagCount rt +
    (four.map fun b => (s.branch b).tagCount rt).sum

theorem split_toList (s : State) : s.split.toList = sixteen.map s.entry := by
  have hs : ∀ (k : Nat) (h : k < 16), sixteen[k]'h = ⟨k, h⟩ := by decide
  apply List.ext_getElem
  · simp [sixteen]
  · intro k h1 h2
    have hk : k < 16 := by simpa using h1
    rw [List.getElem_map]
    exact congrArg s.entry (hs k hk).symm

theorem branches_toList (s : State) : s.branches.toList = four.map s.branch := by
  have hs : ∀ (k : Nat) (h : k < 4), four[k]'h = ⟨k, h⟩ := by decide
  apply List.ext_getElem
  · simp [four]
  · intro k h1 h2
    have hk : k < 4 := by simpa using h1
    rw [List.getElem_map]
    exact congrArg s.branch (hs k hk).symm

theorem count_filterMap_sum {α : Type} (f : α → Option ReqTag) (rt : ReqTag) (l : List α) :
    (l.filterMap f).count rt = (l.map fun x => if f x = some rt then 1 else 0).sum := by
  induction l with
  | nil => rfl
  | cons x xs ih =>
    cases hx : f x with
    | none => simp [hx, ih]
    | some y =>
      by_cases hy : y = rt
      · simp [hx, hy, ih, Nat.add_comm]
      · simp [hx, hy, ih]

theorem count_tagHolders (s : State) (rt : ReqTag) : s.tagHolders.count rt = s.tagCount rt := by
  unfold State.tagHolders State.tagCount State.releaseTagCount
  rw [List.count_append, List.count_append, count_filterMap_sum, List.count_flatten, split_toList, branches_toList,
    List.map_map, List.map_map, List.map_map]
  rfl

theorem tagsUnique_iff (s : State) : s.TagsUnique ↔ ∀ rt, s.tagCount rt ≤ 1 := by
  unfold State.TagsUnique
  rw [List.nodup_iff_count_le_one]
  simp only [count_tagHolders]

theorem live_eq_false_iff (s : State) (rt : ReqTag) : s.live rt = false ↔ s.tagCount rt = 0 := by
  rw [← count_tagHolders, List.count_eq_zero]
  simp [State.live]

/-- One summand has changed, and with it the sum. -/
theorem sum_change {ι : Type} (f g : ι → Nat) {i : ι} {l : List ι} (hi : i ∈ l) (hn : l.Nodup)
    (h : ∀ j, j ≠ i → f j = g j) : (l.map f).sum + g i = (l.map g).sum + f i := by
  induction l with
  | nil => cases hi
  | cons x xs ih =>
    obtain ⟨hx, hxs⟩ := List.nodup_cons.1 hn
    simp only [List.map_cons, List.sum_cons]
    rcases List.mem_cons.1 hi with rfl | hi
    · have he : xs.map f = xs.map g := List.map_congr_left fun j hj => h j fun hji => hx (hji ▸ hj)
      rw [he]
      omega
    · have hne : x ≠ i := fun hxi => hx (hxi ▸ hi)
      have h1 := ih hi hxs
      have h2 := h x hne
      omega

theorem tagCount_modBranch (s : State) (b : Fin 4) (f : Branch → Branch) (rt : ReqTag) :
    (s.modBranch b f).tagCount rt + (s.branch b).tagCount rt = s.tagCount rt + (f (s.branch b)).tagCount rt := by
  have h := sum_change (fun c => ((s.modBranch b f).branch c).tagCount rt) (fun c => (s.branch c).tagCount rt)
    (i := b) (l := four) (by revert b; decide) (by decide) (fun c hc => by rw [branch_modBranch_ne _ _ _ _ hc])
  rw [branch_modBranch_same] at h
  have he : (s.modBranch b f).releaseTagCount rt = s.releaseTagCount rt := rfl
  simp only [State.tagCount, entry_modBranch, he]
  omega

theorem tagCount_setEntry (s : State) (i : Fin 16) (e : Option SplitEntry) (rt : ReqTag) :
    (s.setEntry i e).tagCount rt + placeTagCount rt (s.entry i) = s.tagCount rt + placeTagCount rt e := by
  have h := sum_change (fun j => placeTagCount rt ((s.setEntry i e).entry j)) (fun j => placeTagCount rt (s.entry j))
    (i := i) (l := sixteen) (by revert i; decide) (by decide) (fun j hj => by rw [entry_setEntry_ne _ _ _ _ hj])
  rw [entry_setEntry_same] at h
  have he : (s.setEntry i e).releaseTagCount rt = s.releaseTagCount rt := rfl
  simp only [State.tagCount, branch_setEntry, he]
  omega

/-- The Release Queue is exchanged, and with it the pairs that it carries. -/
theorem tagCount_releaseQueue (s : State) (q : List ReleaseEntry) (rt : ReqTag) :
    ({ s with releaseQueue := q } : State).tagCount rt + s.releaseTagCount rt =
      s.tagCount rt + (q.map ReleaseEntry.rt).count rt := by
  have hq : ({ s with releaseQueue := q } : State).releaseTagCount rt = (q.map ReleaseEntry.rt).count rt := rfl
  have he (i : Fin 16) : ({ s with releaseQueue := q } : State).entry i = s.entry i := rfl
  have hb (b : Fin 4) : ({ s with releaseQueue := q } : State).branch b = s.branch b := rfl
  simp only [State.tagCount, hq, he, hb]
  omega

theorem releaseTagCount_cons {s : State} {e : ReleaseEntry} {rest : List ReleaseEntry} (hq : s.releaseQueue = e :: rest)
    (rt : ReqTag) : s.releaseTagCount rt = (rest.map ReleaseEntry.rt).count rt + (if e.rt = rt then 1 else 0) := by
  unfold State.releaseTagCount
  rw [hq, List.map_cons, List.count_cons]
  simp only [beq_iff_eq]

theorem tagCount_op (br : Branch) (o : Operation) (rt : ReqTag) :
    ({ br with queue := br.queue ++ [o] } : Branch).tagCount rt = br.tagCount rt + o.tagCount rt := by
  simp only [Branch.tagCount, Branch.tags, Operation.tagCount, List.filterMap_append, List.count_append, count_filterMap_sum,
    List.map_cons, List.map_nil, List.sum_cons, List.sum_nil]
  omega
end Sys2Proof.Machine
end

section
/-! SUPPORT. The pairs of the tag holders stay unique (R30): a lemma per operation, `State.TagsUnique.<operation>`, in the order of the
definitions, from the updates of the state to the freed slots. -/

namespace Sys2Proof.Machine

variable {s t : State}

/-! ## Updates of the state -/

/-- A state whose tag holders carry no pair more often. -/
theorem State.TagsUnique.of_count (h : s.TagsUnique) (hc : ∀ rt, t.tagCount rt ≤ s.tagCount rt) : t.TagsUnique :=
  (tagsUnique_iff t).2 fun rt => Nat.le_trans (hc rt) ((tagsUnique_iff s).1 h rt)

/-- A state that differs only in fields which hold no pair. -/
theorem State.TagsUnique.of_only (h : s.TagsUnique) {f : State → State} (hf : f t = s)
    (hk : ∀ rt, (f t).tagCount rt = t.tagCount rt) : t.TagsUnique :=
  h.of_count fun rt => by rw [← hk rt, hf]

theorem State.TagsUnique.modBranch (h : s.TagsUnique) {b : Fin 4} {f : Branch → Branch}
    (hf : ∀ rt, (f (s.branch b)).tagCount rt ≤ (s.branch b).tagCount rt) : (s.modBranch b f).TagsUnique :=
  h.of_count fun rt => by
    have h1 := tagCount_modBranch s b f rt
    have h2 := hf rt
    omega

/-- A change of a branch that leaves its writes. -/
theorem State.TagsUnique.keepTags (h : s.TagsUnique) {b : Fin 4} {f : Branch → Branch} (hf : ∀ br, (f br).tags = br.tags) :
    (s.modBranch b f).TagsUnique :=
  h.modBranch fun rt => Nat.le_of_eq (congrArg (List.count rt) (hf (s.branch b)))

/-- An operation that carries no live pair joins an Issue Queue. -/
theorem State.TagsUnique.enqueue (h : s.TagsUnique) (b : Fin 4) {o : Operation}
    (ho : ∀ rt, o.tag? = some rt → s.live rt = false) :
    (s.modBranch b fun br => { br with queue := br.queue ++ [o] }).TagsUnique := by
  refine (tagsUnique_iff _).2 fun rt => ?_
  have h1 := tagCount_modBranch s b (fun br => { br with queue := br.queue ++ [o] }) rt
  have h2 := tagCount_op (s.branch b) o rt
  have h3 := (tagsUnique_iff s).1 h rt
  by_cases hr : o.tag? = some rt
  · have h4 := (live_eq_false_iff s rt).1 (ho rt hr)
    rw [Operation.tagCount, if_pos hr] at h2
    omega
  · rw [Operation.tagCount, if_neg hr] at h2
    omega

/-- A place takes an entry of the same owner, or one without a pair, or none. -/
theorem State.TagsUnique.setEntry (h : s.TagsUnique) {i : Fin 16} {e : Option SplitEntry}
    (he : placeTag? e = placeTag? (s.entry i) ∨ placeTag? e = none) : (s.setEntry i e).TagsUnique :=
  h.of_count fun rt => by
    have h1 := tagCount_setEntry s i e rt
    have h2 : placeTagCount rt e ≤ placeTagCount rt (s.entry i) := by
      unfold placeTagCount
      rcases he with he | he
      · rw [he]
      · rw [he, if_neg (by simp)]; exact Nat.zero_le _
    omega

/-- A held entry is replaced by one of the same owner. -/
theorem State.TagsUnique.replaceEntry (h : s.TagsUnique) {i : Fin 16} {e e' : SplitEntry} (he : s.entry i = some e)
    (ho : e'.owner = e.owner) : (s.setEntry i (some e')).TagsUnique :=
  h.setEntry (.inl (by
    rw [he]
    show e'.tag? = e.tag?
    unfold SplitEntry.tag?
    rw [ho]))

theorem State.TagsUnique.foldl {α : Type} {f : State → α → State} (hf : ∀ (u : State) (x : α), u.TagsUnique → (f u x).TagsUnique)
    (xs : List α) (h : s.TagsUnique) : (xs.foldl f s).TagsUnique := by
  induction xs generalizing s with
  | nil => exact h
  | cons x xs ih => exact ih (hf s x h)

/-! ## Operations in hand -/

/-- The pairs of the tag holders and of operations that have left the state, and whose answers are still to be made, differ from
one another. -/
def State.TagsUniqueWith (s : State) (ops : List Operation) : Prop :=
  ∀ rt, s.tagCount rt + (ops.filterMap Operation.tag?).count rt ≤ 1

theorem tagsUniqueWith_nil : s.TagsUniqueWith [] ↔ s.TagsUnique := by
  simp only [State.TagsUniqueWith, tagsUnique_iff, List.filterMap_nil, List.count_nil, Nat.add_zero]

theorem State.TagsUniqueWith.of_count {ops : List Operation} (h : s.TagsUniqueWith ops)
    (hc : ∀ rt, t.tagCount rt ≤ s.tagCount rt) : t.TagsUniqueWith ops :=
  fun rt => Nat.le_trans (Nat.add_le_add_right (hc rt) _) (h rt)

theorem State.TagsUniqueWith.drop {o : Operation} {ops : List Operation} (h : s.TagsUniqueWith (o :: ops)) :
    s.TagsUniqueWith ops := fun rt => by
  have h1 := h rt
  have h2 : (ops.filterMap Operation.tag?).count rt ≤ ((o :: ops).filterMap Operation.tag?).count rt :=
    ((List.sublist_cons_self o ops).filterMap Operation.tag?).count_le rt
  omega

theorem tagCount_addAnswer_le (s : State) (b : Fin 4) (r : Record) (rt : ReqTag) :
    (s.addAnswer b r).tagCount rt ≤ s.tagCount rt + (if r.rt = rt then 1 else 0) := by
  unfold State.addAnswer
  split
  · exact Nat.le_add_right _ _
  · have h := tagCount_modBranch s b (fun br =>
      { br with answers := br.answers ++ [r], phase := if br.phase = .idle then .posting else br.phase }) rt
    have hc (br : Branch) (p : Phase) : ({ br with answers := br.answers ++ [r], phase := p } : Branch).tagCount rt =
        br.tagCount rt + (if r.rt = rt then 1 else 0) := by
      simp only [Branch.tagCount, Branch.tags, List.map_append, List.count_append, List.map_cons, List.map_nil,
        List.count_singleton, beq_iff_eq]
      omega
    rw [hc] at h
    omega

/-- The answer of an operation in hand carries its pair (R80). -/
theorem State.TagsUniqueWith.addAnswer {o : Operation} {ops : List Operation} (h : s.TagsUniqueWith (o :: ops)) (b : Fin 4)
    {r : Record} (ho : o.tag? = some r.rt) : (s.addAnswer b r).TagsUniqueWith ops := fun rt => by
  have h1 := h rt
  have h2 := tagCount_addAnswer_le s b r rt
  rw [List.filterMap_cons_some ho, List.count_cons] at h1
  simp only [beq_iff_eq] at h1
  omega

theorem State.TagsUniqueWith.setFlag {ops : List Operation} (h : s.TagsUniqueWith ops) (f : EventFlag) :
    (s.setFlag f).TagsUniqueWith ops :=
  h.of_count fun rt => Nat.le_of_eq (congrArg (fun x : State => x.tagCount rt) (setFlag_only s f) :)

theorem State.TagsUniqueWith.recordFault {ops : List Operation} (h : s.TagsUniqueWith ops) (b : Fin 4) (o : Operation)
    (status : Status) : (s.recordFault b o status).TagsUniqueWith ops :=
  h.of_count fun rt => Nat.le_of_eq (congrArg (fun x : State => x.tagCount rt) (recordFault_only s b o status) :)

theorem State.TagsUniqueWith.reportMember {ops : List Operation} (h : s.TagsUniqueWith ops)
    (member : Option (Fin 7 × Byte)) (ok : Bool) : (s.reportMember member ok).TagsUniqueWith ops :=
  h.of_count fun rt => Nat.le_of_eq (congrArg (fun x : State => x.tagCount rt) (reportMember_only s member ok) :)

/-- A queue is emptied, with its operations in hand. -/
theorem State.TagsUnique.emptyQueue (h : s.TagsUnique) (b : Fin 4) :
    (s.modBranch b fun br => { br with queue := [] }).TagsUniqueWith (s.branch b).queue := fun rt => by
  have h1 := tagCount_modBranch s b (fun br => { br with queue := [] }) rt
  have h2 := (tagsUnique_iff s).1 h rt
  simp only [Branch.tagCount, Branch.tags, List.count_append, List.filterMap_nil, List.count_nil] at h1
  omega

/-- An engine has dropped its operation, which is in hand (R104). -/
theorem State.TagsUnique.dropOp (h : s.TagsUnique) {b : Fin 4} {o : Operation} (ho : (s.branch b).op = some o) :
    (s.modBranch b Branch.dropOp).TagsUniqueWith [o] := fun rt => by
  have h1 := tagCount_modBranch s b Branch.dropOp rt
  have h2 := (tagsUnique_iff s).1 h rt
  simp only [Branch.tagCount, Branch.tags, Branch.dropOp, ho, List.count_append, Option.toList, List.filterMap_nil,
    List.count_nil] at h1
  omega

/-! ## Flags, free choices, lines -/

theorem State.TagsUnique.setFlag (h : s.TagsUnique) (f : EventFlag) : (s.setFlag f).TagsUnique :=
  h.of_count fun rt => Nat.le_of_eq (congrArg (fun x : State => x.tagCount rt) (setFlag_only s f) :)

theorem State.TagsUnique.raiseNotice (h : s.TagsUnique) : s.raiseNotice.TagsUnique :=
  h.of_count fun rt => Nat.le_of_eq (congrArg (fun x : State => x.tagCount rt) (raiseNotice_only s) :)

theorem State.TagsUnique.wakeUp (h : s.TagsUnique) : s.wakeUp.TagsUnique :=
  h.of_count fun rt => Nat.le_of_eq (congrArg (fun x : State => x.tagCount rt) (wakeUp_only s) :)

theorem State.TagsUnique.pick (h : s.TagsUnique) {α : Type} {xs : List α} {x : α} (hp : s.pick xs = some (x, t)) :
    t.TagsUnique :=
  h.of_count fun rt => Nat.le_of_eq (congrArg (fun x : State => x.tagCount rt) (pick_only s xs x t hp) :)

theorem State.TagsUnique.reportMember (h : s.TagsUnique) (member : Option (Fin 7 × Byte)) (ok : Bool) :
    (s.reportMember member ok).TagsUnique :=
  h.of_count fun rt => Nat.le_of_eq (congrArg (fun x : State => x.tagCount rt) (reportMember_only s member ok) :)

theorem State.TagsUnique.cancelMember (h : s.TagsUnique) (member : Option (Fin 7 × Byte)) :
    (s.cancelMember member).TagsUnique :=
  h.of_count fun rt => Nat.le_of_eq (congrArg (fun x : State => x.tagCount rt) (cancelMember_only s member) :)

theorem State.TagsUnique.fireIfComplete (h : s.TagsUnique) (g : Fin 7) : (s.fireIfComplete g).TagsUnique :=
  h.of_count fun rt => Nat.le_of_eq (congrArg (fun x : State => x.tagCount rt) (fireIfComplete_only s g) :)

/-! ## The grant pass and the stalls -/

theorem placeTag?_of_ungranted {x y : Option SplitEntry} (h : x.map SplitEntry.ungranted = y.map SplitEntry.ungranted) :
    placeTag? x = placeTag? y := by
  have hu (z : Option SplitEntry) : placeTag? (z.map SplitEntry.ungranted) = placeTag? z := by cases z <;> rfl
  rw [← hu x, h, hu y]

/-- The pieces of a grant pass carry no pair. -/
theorem Granted.tagCount_le (h : Granted s t) (rt : ReqTag) : t.tagCount rt ≤ s.tagCount rt := by
  have hb (b : Fin 4) : (t.branch b).tagCount rt ≤ (s.branch b).tagCount rt := by
    obtain ⟨more, hq, hp, -⟩ := h.queues b
    have hm : more.filterMap Operation.tag? = [] := List.filterMap_eq_nil_iff.2 fun o ho => by
      obtain ⟨i, e, n, first, hr, -⟩ := hp o ho
      rw [Operation.tag?, hr]
    have ho : (t.branch b).op = (s.branch b).op := (congrArg Branch.op (h.branches b) :)
    have ha : (t.branch b).answers = (s.branch b).answers := (congrArg Branch.answers (h.branches b) :)
    unfold Branch.tagCount Branch.tags
    rw [hq, ho, ha, List.filterMap_append, hm, List.append_nil]
  have he : (sixteen.map fun i => placeTagCount rt (t.entry i)) = sixteen.map fun i => placeTagCount rt (s.entry i) :=
    congrArg (fun f => sixteen.map f) (funext fun i => by
      unfold placeTagCount
      rw [placeTag?_of_ungranted (h.entries i)])
  have hq : t.releaseTagCount rt = s.releaseTagCount rt := (congrArg (fun x : State => x.releaseTagCount rt) h.rest :)
  have hs := sum_le_of_le (fun b => (t.branch b).tagCount rt) (fun b => (s.branch b).tagCount rt) four fun b _ => hb b
  unfold State.tagCount
  rw [he, hq]
  omega

theorem State.TagsUnique.grantPass (h : s.TagsUnique) : s.grantPass.TagsUnique :=
  h.of_count (grantPass_granted s).tagCount_le

/-- A place takes an entry whose owner carries no live pair. -/
theorem State.TagsUnique.newEntry (h : s.TagsUnique) (i : Fin 16) {e : SplitEntry}
    (ho : ∀ rt, e.tag? = some rt → s.live rt = false) : (s.setEntry i (some e)).TagsUnique := by
  refine (tagsUnique_iff _).2 fun rt => ?_
  have h1 := tagCount_setEntry s i (some e) rt
  have h2 := (tagsUnique_iff s).1 h rt
  have hp : placeTagCount rt (some e) = if e.tag? = some rt then 1 else 0 := rfl
  by_cases hx : e.tag? = some rt
  · have h3 := (live_eq_false_iff s rt).1 (ho rt hx)
    rw [hp, if_pos hx] at h1
    omega
  · rw [hp, if_neg hx] at h1
    omega

theorem State.TagsUnique.createEntry (h : s.TagsUnique) (i : Fin 16) {owner : SplitOwner} (route : Route) (start length : Nat)
    (ho : ∀ rt, owner = .trunk rt → s.live rt = false) : (s.createEntry i owner route start length).TagsUnique := by
  refine State.TagsUnique.grantPass (h.newEntry i fun rt ht => ho rt ?_)
  cases owner with
  | trunk x => exact congrArg SplitOwner.trunk (Option.some.inj ht)
  | attn b => exact (Option.some_ne_none _ ht.symm).elim

theorem State.TagsUnique.endStalls (h : s.TagsUnique) (fuel : Nat) : (s.endStalls fuel).TagsUnique := by
  induction fuel generalizing s with
  | zero => exact h
  | succ n ih =>
    unfold State.endStalls
    split
    · split
      · exact h
      · rename_i hp; exact ih ((h.pick hp).keepTags fun _ => rfl)
    · exact h

theorem State.TagsUnique.roomFreed (h : s.TagsUnique) : s.roomFreed.TagsUnique := h.endStalls 4

/-! ## Polls -/

theorem State.TagsUnique.pollUnroutable (h : s.TagsUnique) (b : Fin 4) : (s.pollUnroutable b).TagsUnique := by
  have hm (f : Attn → Attn) : (s.modAttn b f).TagsUnique := h
  exact (hm _).setFlag .attnNoRoute

theorem State.TagsUnique.attemptPoll (h : s.TagsUnique) (b : Fin 4) : (s.attemptPoll b).TagsUnique := by
  have hm (f : Attn → Attn) : (s.modAttn b f).TagsUnique := h
  unfold State.attemptPoll
  dsimp only
  split
  · exact h.pollUnroutable b
  · split
    · exact h.pollUnroutable b
    · split
      · exact h
      · exact (hm _).createEntry _ _ _ _ fun _ ho => SplitOwner.noConfusion ho

theorem State.TagsUnique.trigger (h : s.TagsUnique) (b : Fin 4) : (s.trigger b).TagsUnique := by
  unfold State.trigger
  dsimp only
  split
  · exact h
  · split
    · split
      · split
        · exact h
        · exact h.attemptPoll b
      · exact h
    · split
      · exact h
      · exact h

theorem State.TagsUnique.claimOver (h : s.TagsUnique) (bs : List (Fin 4)) : (s.claimOver bs).TagsUnique := by
  induction bs generalizing s with
  | nil => exact h
  | cons b rest ih =>
    unfold State.claimOver
    split
    · exact ih (h.attemptPoll b)
    · exact ih h

theorem State.TagsUnique.claims (h : s.TagsUnique) : s.claims.TagsUnique := by
  unfold State.claims
  split
  · exact h.claimOver four
  · exact h

theorem State.TagsUnique.endHoldoff (h : s.TagsUnique) (b : Fin 4) : (s.endHoldoff b).TagsUnique := by
  have hm (f : Attn → Attn) : (s.modAttn b f).TagsUnique := h
  unfold State.endHoldoff
  dsimp only
  split
  · exact (hm _).attemptPoll b
  · split
    · exact h
    · exact h

theorem State.TagsUnique.pollFreed (h : s.TagsUnique) (b : Fin 4) : (s.pollFreed b).TagsUnique := by
  have hm (f : Attn → Attn) : (s.modAttn b f).TagsUnique := h
  unfold State.pollFreed
  dsimp only
  split
  · exact (hm _).claims
  · split
    · rename_i hp; exact (((hm _).pick hp).endHoldoff b).claims
    · rename_i hp; exact ((hm _).pick hp).claims.endHoldoff b
    · exact h

theorem State.TagsUnique.levelTrigger (h : s.TagsUnique) (b : Fin 4) : (s.levelTrigger b).TagsUnique := by
  unfold State.levelTrigger
  split
  · exact h.trigger b
  · exact h

theorem State.TagsUnique.writeAttnFields (h : s.TagsUnique) (b : Fin 4) (store : Attn → Attn) :
    (s.writeAttnFields b store).TagsUnique := by
  have hm (f : Attn → Attn) : (s.modAttn b f).TagsUnique := h
  unfold State.writeAttnFields
  dsimp only
  split
  · exact (hm _).levelTrigger b
  · exact h

/-! ## The head of the Release Queue and the freed slots -/

/-- An entry leaves the head of the Release Queue. -/
theorem State.TagsUnique.dropHead (h : s.TagsUnique) {e : ReleaseEntry} {rest : List ReleaseEntry}
    (hq : s.releaseQueue = e :: rest) : ({ s with releaseQueue := rest } : State).TagsUnique :=
  h.of_count fun rt => by
    have h1 := tagCount_releaseQueue s rest rt
    have h2 := releaseTagCount_cons hq rt
    omega

/-- The Release Queue keeps its pairs. -/
theorem State.TagsUnique.keepReleases (h : s.TagsUnique) {q : List ReleaseEntry}
    (hq : q.map ReleaseEntry.rt = s.releaseQueue.map ReleaseEntry.rt) :
    ({ s with releaseQueue := q } : State).TagsUnique :=
  h.of_count fun rt => by
    have h1 := tagCount_releaseQueue s q rt
    have h2 : (q.map ReleaseEntry.rt).count rt = s.releaseTagCount rt := congrArg (List.count rt) hq
    omega

theorem State.TagsUnique.headWaits (h : s.TagsUnique) {e : ReleaseEntry} {rest : List ReleaseEntry}
    (hq : s.releaseQueue = e :: rest) (ht : s.headWaits e rest = some t) : t.TagsUnique := by
  unfold State.headWaits at ht
  split at ht
  · cases ht
  · cases ht
    have hk := h.keepReleases (q := { e with waiting := true } :: rest) (by rw [hq]; rfl)
    exact hk.setFlag _

/-- A released timed write carries its entry's pair on (R136). -/
theorem State.TagsUnique.releaseInto (h : s.TagsUnique) {e : ReleaseEntry} {rest : List ReleaseEntry}
    (hq : s.releaseQueue = e :: rest) (route : Route) {o : Operation} (ho : o.tag? = some e.rt) :
    (s.releaseInto rest route o).TagsUnique := by
  refine h.of_count fun rt => ?_
  unfold State.releaseInto
  have h1 := tagCount_modBranch { s with releaseQueue := rest } route.branch (fun br => { br with queue := br.queue ++ [o] }) rt
  have h2 := tagCount_releaseQueue s rest rt
  have h4 := releaseTagCount_cons hq rt
  have h3 := tagCount_op (State.branch { s with releaseQueue := rest } route.branch) o rt
  simp only [Operation.tagCount, ho, Option.some.injEq] at h3
  omega

theorem State.TagsUnique.judgeWrite (h : s.TagsUnique) {e : ReleaseEntry} {rest : List ReleaseEntry}
    {member : Option (Fin 7 × Byte)} {route : Route} {offset : Nat} {data : List Byte} (hq : s.releaseQueue = e :: rest)
    (ht : s.judgeWrite e rest member route offset data = some t) : t.TagsUnique := by
  have hp (r : Record) : (State.pushRecord { s with releaseQueue := rest } r).TagsUnique := h.dropHead hq
  unfold State.judgeWrite at ht
  split at ht
  · split at ht
    · cases ht; exact h.releaseInto hq route rfl
    · exact h.headWaits hq ht
  · split at ht
    · cases ht; exact (hp _).reportMember _ _
    · exact h.headWaits hq ht

theorem State.TagsUnique.judgeHead (h : s.TagsUnique) (ht : s.judgeHead = some t) : t.TagsUnique := by
  unfold State.judgeHead at ht
  split at ht
  · cases ht
  · rename_i e rest hq
    split at ht
    · unfold State.abortHead at ht
      split at ht
      · cases ht; exact h.dropHead hq
      · cases ht
    · split at ht
      · split at ht
        · exact h.judgeWrite hq ht
        · unfold State.judgeLatch at ht
          split at ht
          · cases ht; exact h.dropHead hq
          · exact h.headWaits hq ht
      · cases ht

theorem State.TagsUnique.judgeRun (h : s.TagsUnique) (fuel : Nat) : (s.judgeRun fuel).TagsUnique := by
  induction fuel generalizing s with
  | zero => exact h
  | succ n ih =>
    unfold State.judgeRun
    split
    · exact h
    · rename_i ht; exact ih (h.judgeHead ht)

theorem State.TagsUnique.judge (h : s.TagsUnique) : s.judge.TagsUnique := h.judgeRun _

theorem State.TagsUnique.headTakesSlot (h : s.TagsUnique) (ht : s.headTakesSlot = some t) : t.TagsUnique := by
  unfold State.headTakesSlot at ht
  split at ht
  · exact h.judgeHead ht
  · cases ht

/-- The state that a decision leaves, when it leaves one, has unique pairs. -/
def Decision.TagsUnique : Decision → Prop
  | .refuse _ => True
  | .answer t => t.TagsUnique
  | .accept t => t.TagsUnique

theorem State.TagsUnique.decideWrite (h : s.TagsUnique) (rt : ReqTag) {body : OpBody} (ldn : Byte) (offset count : Nat)
    (hb : ∀ r x, (writeOperation body r offset).tag? = some x → s.live x = false) :
    (s.decideWrite rt body ldn offset count).TagsUnique := by
  unfold State.decideWrite
  split
  · trivial
  · split
    · trivial
    · exact h.enqueue _ (hb _)

theorem State.TagsUnique.decidePosted (h : s.TagsUnique) (rt : ReqTag) (ldn : Byte) (offset : Nat) (data : List Byte)
    (count : Nat) : (s.decideWrite rt (.posted data) ldn offset count).TagsUnique :=
  h.decideWrite rt ldn offset count fun _ _ hx => (Option.some_ne_none _ hx.symm).elim

/-- A WRITE-CONFIRMED is accepted only while its pair is not live (R30). -/
theorem State.TagsUnique.decideConfirmed (h : s.TagsUnique) (rt : ReqTag) (ldn : Byte) (offset : Nat) (data : List Byte) :
    (s.decideConfirmed rt ldn offset data).TagsUnique := by
  unfold State.decideConfirmed
  split
  · trivial
  · rename_i hl
    exact h.decideWrite rt ldn offset _ fun _ x hx => by
      obtain rfl : rt = x := Option.some.inj hx
      exact Bool.eq_false_iff.2 hl

theorem State.TagsUnique.intakeTakesSlot (h : s.TagsUnique) {b : Fin 4} (ht : s.intakeTakesSlot b = some t) :
    t.TagsUnique := by
  unfold State.intakeTakesSlot at ht
  split at ht
  · cases ht
  · rename_i f rest _
    split at ht
    · dsimp only at ht
      split at ht
      · rename_i u hd
        split at ht
        · cases ht
          have hu : (Decision.accept u).TagsUnique := by
            rw [← hd]
            split
            · exact h.decidePosted _ _ _ _ _
            · exact h.decideConfirmed _ _ _ _
            · trivial
          exact hu
        · cases ht
      · cases ht
    · cases ht

theorem State.TagsUnique.slotFreedIn (h : s.TagsUnique) (b : Fin 4) (fuel : Nat) : (s.slotFreedIn b fuel).TagsUnique := by
  induction fuel generalizing s with
  | zero => exact h.grantPass
  | succ n ih =>
    obtain ⟨x, s', hp, he | ⟨u, hu, he⟩ | ⟨-, u, hu, he⟩⟩ := slotFreedIn_turn s b n <;> rw [he]
    · exact (h.pick hp).grantPass
    · exact ih ((h.pick hp).headTakesSlot hu).judge
    · exact ih ((h.pick hp).intakeTakesSlot hu)

theorem State.TagsUnique.slotFreed (h : s.TagsUnique) (b : Fin 4) : (s.slotFreed b).TagsUnique := h.slotFreedIn b _

end Sys2Proof.Machine
end

section
/-! SUPPORT. The pairs stay unique through the Split Unit, the end of an event and the engines' runs. -/

namespace Sys2Proof.Machine

variable {s t : State}

/-! ## The Split Unit -/

theorem Operation.tag?_of_isPieceOf {o : Operation} {i : Fin 16} (h : o.isPieceOf i = true) : o.tag? = none := by
  unfold Operation.isPieceOf at h
  unfold Operation.tag?
  split at h
  · rename_i hb; rw [hb]
  · cases h

/-- The pieces that leave an Issue Queue carry no pair. -/
theorem filterMap_dropPieces (i : Fin 16) (q : List Operation) :
    (q.filter fun o => !o.isPieceOf i).filterMap Operation.tag? = q.filterMap Operation.tag? := by
  rw [List.filterMap_filter]
  refine congrFun (congrArg List.filterMap (funext fun o => ?_)) q
  cases hp : o.isPieceOf i with
  | false => rfl
  | true => exact (Operation.tag?_of_isPieceOf hp).symm

theorem State.TagsUnique.dropQueued (h : s.TagsUnique) (i : Fin 16) (b : Fin 4) : (s.dropQueued i b).TagsUnique :=
  h.keepTags fun br => by
    unfold Branch.tags
    dsimp only
    rw [filterMap_dropPieces]

theorem State.TagsUnique.endEntry (h : s.TagsUnique) (i : Fin 16) (st : EntryState) (status : Status) :
    (s.endEntry i st status).TagsUnique := by
  unfold State.endEntry
  split
  · exact h
  · rename_i e he
    refine State.TagsUnique.dropQueued ?_ i _
    exact h.replaceEntry he rfl

theorem State.TagsUnique.freeEntry (h : s.TagsUnique) (i : Fin 16) : (s.freeEntry i).TagsUnique := by
  unfold State.freeEntry
  split
  · exact h
  · have hn : (s.setEntry i none).TagsUnique := h.setEntry (.inr rfl)
    have hf : ({ s.setEntry i none with ageOrder := s.ageOrder.filter fun j => !(j == i) } : State).TagsUnique := hn
    dsimp only
    split
    · exact hf.claims
    · exact hf.pollFreed _

theorem State.TagsUnique.freeIfDone (h : s.TagsUnique) (i : Fin 16) : (s.freeIfDone i).TagsUnique := by
  unfold State.freeIfDone
  split
  · exact h
  · split
    · exact h.freeEntry i
    · exact h

theorem State.TagsUnique.closeShort (h : s.TagsUnique) {i : Fin 16} {e : SplitEntry} (he : s.entry i = some e)
    (offset : Nat) : (s.closeShort i e offset).TagsUnique := by
  unfold State.closeShort
  refine State.TagsUnique.dropQueued (h.replaceEntry he ?_) i _
  dsimp only
  split <;> rfl

theorem State.TagsUnique.settlePiece (h : s.TagsUnique) {i : Fin 16} {e : SplitEntry} (he : s.entry i = some e)
    (o : Operation) (length : Nat) (first : Bool) (status : Status) :
    (s.settlePiece i e o length first status).TagsUnique := by
  unfold State.settlePiece
  split
  · split
    · exact h.replaceEntry he rfl
    · split
      · exact h.closeShort he _
      · refine State.TagsUnique.endEntry ?_ i _ _
        exact h.replaceEntry he rfl
  · exact h.replaceEntry he rfl

theorem State.TagsUnique.pieceEnd (h : s.TagsUnique) (i : Fin 16) (o : Operation) (length : Nat) (first : Bool)
    (status : Status) : (s.pieceEnd i o length first status).TagsUnique := by
  unfold State.pieceEnd
  split
  · exact h
  · rename_i he; exact ((h.settlePiece he o length first status).slotFreed _).freeIfDone i

theorem State.TagsUnique.storeByte (h : s.TagsUnique) (i : Fin 16) (byte : Byte) : (s.storeByte i byte).TagsUnique := by
  unfold State.storeByte
  split
  · exact h
  · rename_i he
    refine h.replaceEntry he ?_
    split <;> rfl

theorem State.TagsUnique.extendDeadline (h : s.TagsUnique) {i : Fin 16} {e : SplitEntry} (he : s.entry i = some e) :
    (s.extendDeadline i e).TagsUnique := by
  refine State.TagsUnique.setFlag ?_ _
  exact h.replaceEntry he rfl

/-! ## The transmitter and the end of an event -/

theorem State.TagsUnique.beginFrame (h : s.TagsUnique) : s.beginFrame.TagsUnique :=
  h.of_count fun rt => Nat.le_of_eq (congrArg (fun x : State => x.tagCount rt) (beginFrame_only s) :)

theorem State.TagsUnique.quiesce (h : s.TagsUnique) : s.quiesce.TagsUnique :=
  h.of_count fun rt => Nat.le_of_eq (congrArg (fun x : State => x.tagCount rt) (quiesce_only s) :)

@[simp] theorem beginAttempt_tags (br : Branch) (o : Operation) : (br.beginAttempt o).tags = br.tags := by
  unfold Branch.beginAttempt
  split
  · split <;> rfl
  · rfl

/-- The pair of a queue's head passes to the engine (R73). -/
theorem State.TagsUnique.takeOp (h : s.TagsUnique) {b : Fin 4} {o : Operation} {rest : List Operation}
    (hq : (s.branch b).queue = o :: rest) : (s.takeOp b o rest).TagsUnique := by
  have hm : (s.modBranch b fun br => Branch.beginAttempt
      { br with queue := rest, op := some o, retryCount := 0, lastCause := .absent, told := none } o).TagsUnique :=
    h.modBranch fun rt => by
      unfold Branch.tagCount
      rw [beginAttempt_tags]
      simp only [Branch.tags, hq, List.count_append, count_filterMap_sum, List.map_cons, List.sum_cons, Option.toList,
        List.map_nil, List.sum_nil]
      omega
  unfold State.takeOp
  dsimp only
  split
  · refine hm.setEntry (.inl ?_)
    cases he : State.entry (s.modBranch b _) _ <;> rfl
  · exact hm

theorem State.TagsUnique.takeNext (h : s.TagsUnique) (b : Fin 4) : (s.takeNext b).TagsUnique := by
  unfold State.takeNext
  split
  · exact h
  · rename_i hq; exact (h.takeOp hq).slotFreed b

theorem State.TagsUnique.postNext (h : s.TagsUnique) (b : Fin 4) : (s.postNext b).TagsUnique := by
  have hp (r : Record) : (s.pushRecord r).TagsUnique := h
  unfold State.postNext
  split
  · exact h
  · rename_i r rest hq
    refine (hp r).modBranch fun rt => ?_
    simp only [Branch.tagCount, Branch.tags, branch_pushRecord, hq, List.count_append, List.map_cons, List.count_cons]
    omega

theorem State.TagsUnique.follow (h : s.TagsUnique) (f : Follow) : (s.follow f).TagsUnique := by
  cases f with
  | take b => exact h.takeNext b
  | post b => exact h.postNext b
  | judge => exact h.judge

theorem State.TagsUnique.settleIn (h : s.TagsUnique) (fuel : Nat) : (s.settleIn fuel).TagsUnique := by
  induction fuel generalizing s with
  | zero => exact h
  | succ n ih =>
    unfold State.settleIn
    split
    · exact h
    · rename_i hp; exact ih ((h.pick hp).follow _)

theorem State.TagsUnique.settle (h : s.TagsUnique) : s.settle.TagsUnique := h.settleIn _

theorem State.TagsUnique.endEvent (h : s.TagsUnique) : s.endEvent.TagsUnique := h.settle.beginFrame.settle.quiesce

/-! ## Runs of the engines -/

/-- The outcome of a run: the pair of the operation in hand passes to its answer (R78 to R80). -/
theorem State.TagsUniqueWith.handOn {o : Operation} (h : s.TagsUniqueWith [o]) (b : Fin 4) (status : Status) (dataDone : Nat) :
    (s.handOn b o status dataDone).TagsUnique := by
  have hd := tagsUniqueWith_nil.1 h.drop
  unfold State.handOn
  split
  · exact hd.pieceEnd _ o _ _ status
  · split
    · exact hd
    · exact tagsUniqueWith_nil.1 (h.drop.recordFault b o status)
  · rename_i hb
    exact tagsUniqueWith_nil.1 (h.addAnswer b (by rw [Operation.tag?, hb]; rfl))
  · rename_i rt _ _ hb
    have ha (st : Status) (offset : Nat) : (s.addAnswer b (completion rt st offset)).TagsUnique :=
      tagsUniqueWith_nil.1 (h.addAnswer b (by rw [Operation.tag?, hb]; rfl))
    dsimp only
    split
    · exact ha _ _
    · exact (ha _ _).reportMember _ _

@[simp] theorem afterRun_tags (br : Branch) (stuck : Bool) : (br.afterRun stuck).tags = br.tags := by
  unfold Branch.afterRun
  split <;> rfl

theorem State.TagsUnique.endRun (h : s.TagsUnique) (b : Fin 4) (status : Status) (stuck : Bool) :
    (s.endRun b status stuck).TagsUnique := by
  unfold State.endRun
  split
  · exact h
  · rename_i ho
    exact (((h.dropOp ho).handOn b status _).keepTags fun br => afterRun_tags br stuck).roomFreed

theorem State.TagsUnique.tellEnd (h : s.TagsUnique) (b : Fin 4) (cause : EndCause) : (s.tellEnd b cause).TagsUnique := by
  unfold State.tellEnd
  dsimp only
  split
  · exact h
  · split
    · exact h.endRun b _ _
    · refine State.TagsUnique.roomFreed ?_
      exact h.keepTags fun _ => rfl

theorem State.TagsUnique.abandon (h : s.TagsUnique) (i : Fin 16) (status : Status) : (s.abandon i status).TagsUnique := by
  unfold State.abandon
  split
  · exact h
  · refine State.TagsUnique.roomFreed (State.TagsUnique.slotFreed ?_ _)
    have he := h.endEntry i .abandoned status
    unfold State.tellUnwanted
    split
    · exact he
    · split
      · exact he.tellEnd _ _
      · exact he

theorem State.TagsUnique.expire (h : s.TagsUnique) (i : Fin 16) : (s.expire i).TagsUnique := by
  unfold State.expire
  split
  · exact h
  · rename_i he
    split
    · split
      · exact h.extendDeadline he
      · exact (h.abandon i _).setFlag _
    · exact h

@[simp] theorem seeOther_tags (br : Branch) : br.seeOther.tags = br.tags := by
  unfold Branch.seeOther
  split <;> rfl

@[simp] theorem release_tags (br : Branch) : br.release.tags = br.tags := seeOther_tags br

@[simp] theorem beginPause_tags (br : Branch) (o : Operation) : (br.beginPause o).tags = br.tags := by
  unfold Branch.beginPause
  split
  · exact beginAttempt_tags br o
  · rfl

theorem State.TagsUnique.afterLoss (h : s.TagsUnique) (b : Fin 4) (o : Operation) : (s.afterLoss b o).TagsUnique := by
  unfold State.afterLoss
  split
  · exact h.endRun b _ _
  · refine State.TagsUnique.roomFreed ?_
    exact h.keepTags fun _ => rfl

theorem State.TagsUnique.loseArbitration (h : s.TagsUnique) (b : Fin 4) : (s.loseArbitration b).TagsUnique := by
  have hr : (s.modBranch b Branch.release).TagsUnique := h.keepTags release_tags
  unfold State.loseArbitration
  dsimp only
  split
  · exact h
  · split
    · split
      · exact hr.endRun b _ _
      · split
        · split
          · exact hr.endRun b _ _
          · exact hr.endRun b _ _
          · refine State.TagsUnique.afterLoss ?_ b _
            exact hr.keepTags fun _ => rfl
        · refine State.TagsUnique.afterLoss ?_ b _
          exact hr.keepTags fun _ => rfl
    · exact h

theorem State.TagsUnique.otherStart (h : s.TagsUnique) (b : Fin 4) : (s.otherStart b).TagsUnique := by
  unfold State.otherStart
  dsimp only
  split
  · exact h.keepTags seeOther_tags
  · split
    · exact h.loseArbitration b
    · split
      · exact h
      · refine h.keepTags fun br => ?_
        split
        · exact seeOther_tags br
        · rfl

theorem State.TagsUnique.ownStart (h : s.TagsUnique) (b : Fin 4) : (s.ownStart b).TagsUnique := by
  unfold State.ownStart
  split
  · exact h.keepTags fun _ => rfl
  · exact h

theorem State.TagsUnique.otherStop (h : s.TagsUnique) (b : Fin 4) : (s.otherStop b).TagsUnique := by
  unfold State.otherStop
  split
  · exact h
  · have hs : ((s.loseArbitration b).modBranch b Branch.seeStop).TagsUnique := (h.loseArbitration b).keepTags fun _ => rfl
    unfold State.leaveBusyOther
    split
    · exact hs
    · split
      · exact hs.keepTags fun br => beginAttempt_tags br _
      · exact hs

theorem State.TagsUnique.ownStop (h : s.TagsUnique) (b : Fin 4) : (s.ownStop b).TagsUnique := by
  have hs : (s.modBranch b Branch.seeStop).TagsUnique := h.keepTags fun _ => rfl
  unfold State.ownStop
  dsimp only
  split
  · exact h
  · split
    · split
      · exact hs.endRun b _ _
      · split
        · exact hs.endRun b _ _
        · exact hs.endRun b _ _
        · split
          · exact hs.endRun b _ _
          · exact hs.keepTags fun br => beginPause_tags br _
    · exact h

/-! ## Bytes and clocks -/

@[simp] theorem toWriteData_tags (br : Branch) (o : Operation) : (br.toWriteData o).tags = br.tags := by
  unfold Branch.toWriteData
  split <;> rfl

@[simp] theorem ackSubaddress_tags (br : Branch) (o : Operation) : (br.ackSubaddress o).tags = br.tags := by
  unfold Branch.ackSubaddress
  dsimp only
  split
  · rfl
  · split
    · rfl
    · split
      · rfl
      · exact toWriteData_tags _ o

@[simp] theorem ackData_tags (br : Branch) (o : Operation) : (br.ackData o).tags = br.tags := by
  unfold Branch.ackData
  dsimp only
  split
  · rfl
  · split <;> rfl

@[simp] theorem endClear_tags (br : Branch) (stopMade : Bool) : (br.endClear stopMade).tags = br.tags := by
  unfold Branch.endClear
  dsimp only
  split <;> rfl

theorem State.TagsUnique.beginReadByte (h : s.TagsUnique) (b : Fin 4) (i : Fin 16) (o : Operation) :
    (s.beginReadByte b i o).TagsUnique := by
  unfold State.beginReadByte
  exact h.keepTags fun _ => rfl

theorem State.TagsUnique.ackAddress (h : s.TagsUnique) (b : Fin 4) (o : Operation) : (s.ackAddress b o).TagsUnique := by
  have ha : (s.modBranch b fun br => { br with
    stretchCounter := 0, progress := { br.progress with addressAcked := true } }).TagsUnique := h.keepTags fun _ => rfl
  unfold State.ackAddress
  dsimp only
  split
  · exact ha.keepTags fun _ => rfl
  · split
    · split
      · exact ha.beginReadByte b _ o
      · exact ha
    · split
      · exact ha.keepTags fun br => toWriteData_tags br o
      · exact ha.keepTags fun _ => rfl

theorem State.TagsUnique.receiveData (h : s.TagsUnique) (b : Fin 4) (o : Operation) (i : Fin 16) (length : Nat) (byte : Byte) :
    (s.receiveData b o i length byte).TagsUnique := by
  have hd (u : State) (hu : u.TagsUnique) : (u.modBranch b fun x => { x with
      stretchCounter := 0
      progress := { x.progress with reserved := false, dataDone := x.progress.dataDone + 1 } }).TagsUnique :=
    hu.keepTags fun _ => rfl
  unfold State.receiveData
  dsimp only
  split
  · refine State.TagsUnique.roomFreed ?_
    exact h.keepTags fun _ => rfl
  · generalize ((s.branch b).progress.reserved && s.byteWanted i (o.offset + (s.branch b).progress.dataDone)) = stores
    cases stores
    · split
      · exact ((hd s h).roomFreed).beginReadByte b i o
      · exact ((hd s h).roomFreed).keepTags fun _ => rfl
    · split
      · exact (hd _ (h.storeByte i byte)).beginReadByte b i o
      · exact (hd _ (h.storeByte i byte)).keepTags fun _ => rfl

theorem State.TagsUnique.judgeClock (h : s.TagsUnique) (b : Fin 4) : (s.judgeClock b).TagsUnique := by
  have hf := h.setFlag .branchStuck
  unfold State.judgeClock
  dsimp only
  split
  · split
    · exact hf.keepTags fun br => endClear_tags br false
    · split
      · exact hf
      · exact hf.endRun b _ _
  · exact h

theorem State.TagsUnique.judgeBusy (h : s.TagsUnique) (b : Fin 4) : (s.judgeBusy b).TagsUnique := by
  unfold State.judgeBusy
  split
  · refine State.TagsUnique.setFlag ?_ _
    exact h.keepTags fun _ => rfl
  · exact h

end Sys2Proof.Machine
end

section
/-! SUPPORT. The pairs stay unique through the Release Unit, the resets, the management space, Intake and every step. -/

namespace Sys2Proof.Machine

variable {s t : State}

/-! ## The Release Unit -/

theorem State.TagsUnique.markDue (h : s.TagsUnique) : s.markDue.TagsUnique := by
  have hm : ({ s with releaseQueue := s.releaseQueue.map (ReleaseEntry.markDue s.stamp) } : State).TagsUnique :=
    h.keepReleases (by rw [List.map_map]; rfl)
  unfold State.markDue
  dsimp only
  split
  · exact hm.wakeUp
  · exact hm

theorem insertRelease_perm (c : Stamp) (e : ReleaseEntry) (q : List ReleaseEntry) :
    (insertRelease c e q).Perm (e :: q) := by
  induction q with
  | nil => exact List.Perm.refl _
  | cons x rest ih =>
    unfold insertRelease
    split
    · exact List.Perm.refl _
    · exact (ih.cons x).trans (List.Perm.swap e x rest)

theorem settleWaiting_rt (q : List ReleaseEntry) : (settleWaiting q).map ReleaseEntry.rt = q.map ReleaseEntry.rt := by
  cases q with
  | nil => rfl
  | cons x rest => simp only [settleWaiting, List.map_cons, List.map_map]; rfl

/-- A new Release Queue entry carries no live pair (R30). -/
theorem State.TagsUnique.insertEntry (h : s.TagsUnique) {e : ReleaseEntry} (he : s.live e.rt = false) :
    (s.insertEntry e).TagsUnique := by
  refine State.TagsUnique.markDue ((tagsUnique_iff _).2 fun rt => ?_)
  have hc : ((settleWaiting (insertRelease s.stamp e s.releaseQueue)).map ReleaseEntry.rt).count rt =
      s.releaseTagCount rt + (if e.rt = rt then 1 else 0) := by
    rw [settleWaiting_rt, ((insertRelease_perm s.stamp e s.releaseQueue).map ReleaseEntry.rt).count_eq, List.map_cons,
      List.count_cons]
    simp only [beq_iff_eq]
    rfl
  have h1 := tagCount_releaseQueue s (settleWaiting (insertRelease s.stamp e s.releaseQueue)) rt
  have h2 := (tagsUnique_iff s).1 h rt
  by_cases hr : e.rt = rt
  · have h3 := (live_eq_false_iff s rt).1 (hr ▸ he)
    rw [if_pos hr] at hc
    omega
  · rw [if_neg hr] at hc
    omega

theorem State.TagsUnique.releaseRow (h : s.TagsUnique) (row : Instr) : (s.releaseRow row).TagsUnique := by
  unfold State.releaseRow
  split
  · split
    · exact h
    · rename_i ht; exact (h.judgeHead ht).judge.endEvent
  · exact h

theorem State.TagsUnique.expireEach (h : s.TagsUnique) (due : List (Fin 16)) (fuel : Nat) :
    (s.expireEach due fuel).TagsUnique := by
  induction fuel generalizing s due with
  | zero => exact h
  | succ n ih =>
    unfold State.expireEach
    split
    · exact h
    · rename_i i s' hp; exact ih ((h.pick hp).expire i) _
    · rename_i s' hp
      refine ih ?_ due
      cases ht : s'.judgeHead with
      | none => exact h.pick hp
      | some u => exact (h.pick hp).judgeHead ht

theorem State.TagsUnique.writeStamp (h : s.TagsUnique) (value : Stamp) : (s.writeStamp value).TagsUnique := by
  have hs : ({ s with stamp := value, tickTimer := 0, tickLength := s.tickMicros } : State).TagsUnique := h
  exact hs.markDue.expireEach _ _

/-! ## Resets -/

theorem State.TagsUniqueWith.removeByReset {o : Operation} {ops : List Operation} (h : s.TagsUniqueWith (o :: ops))
    (b : Fin 4) : (s.removeByReset b o).TagsUniqueWith ops := by
  unfold State.removeByReset
  split
  · exact h.drop
  · exact h.drop.recordFault b o _
  · rename_i hb; exact h.addAnswer b (by rw [Operation.tag?, hb]; rfl)
  · rename_i hb; exact State.TagsUniqueWith.reportMember (h.addAnswer b (by rw [Operation.tag?, hb]; rfl)) _ _

theorem State.TagsUniqueWith.removeByOffline {o : Operation} {ops : List Operation} (h : s.TagsUniqueWith (o :: ops))
    (b : Fin 4) : (s.removeByOffline b o).TagsUniqueWith ops := by
  unfold State.removeByOffline
  split
  · exact h.drop
  · exact h.drop
  · rename_i hb; exact h.addAnswer b (by rw [Operation.tag?, hb]; rfl)
  · rename_i hb; exact h.addAnswer b (by rw [Operation.tag?, hb]; rfl)

/-- The operations in hand are answered one after another. -/
theorem State.TagsUniqueWith.foldl {f : State → Operation → State}
    (hf : ∀ (u : State) (o : Operation) (ops : List Operation), u.TagsUniqueWith (o :: ops) → (f u o).TagsUniqueWith ops)
    {ops : List Operation} (h : s.TagsUniqueWith ops) : (ops.foldl f s).TagsUnique := by
  induction ops generalizing s with
  | nil => exact tagsUniqueWith_nil.1 h
  | cons o ops ih => exact ih (hf s o ops h)

theorem endEntry_queueTags (s : State) (i : Fin 16) (st : EntryState) (status : Status) (b : Fin 4) :
    ((s.endEntry i st status).branch b).queue.filterMap Operation.tag? = (s.branch b).queue.filterMap Operation.tag? := by
  unfold State.endEntry
  split
  · rfl
  · rename_i e _
    unfold State.dropQueued
    by_cases hb : b = e.route.branch
    · subst hb; rw [branch_modBranch_same]; exact filterMap_dropPieces i _
    · rw [branch_modBranch_ne _ _ _ _ hb, branch_setEntry]

theorem endEntries_queueTags (st : EntryState) (status : Status) (b : Fin 4) (places : List (Fin 16)) (s : State) :
    ((places.foldl (fun t i => t.endEntry i st status) s).branch b).queue.filterMap Operation.tag? =
      (s.branch b).queue.filterMap Operation.tag? := by
  induction places generalizing s with
  | nil => rfl
  | cons i rest ih => exact (ih _).trans (endEntry_queueTags s i st status b)

theorem State.TagsUnique.resetQueue (h : s.TagsUnique) (b : Fin 4) : (s.resetQueue b).TagsUnique := by
  have h1 := State.TagsUnique.foldl (f := fun t i => t.endEntry i .closing .branchReset)
    (fun _ i hu => hu.endEntry i _ _) (s.gatheringOn b) h
  have h2 := h1.emptyQueue b
  unfold State.TagsUniqueWith at h2
  rw [endEntries_queueTags] at h2
  have h3 (u : State) (hu : u.TagsUniqueWith (s.branch b).queue) :
      ({ u with fault := none } : State).TagsUniqueWith (s.branch b).queue := hu
  have h4 := (h3 _ h2).foldl (f := fun t o => t.removeByReset b o) fun _ _ _ hu => hu.removeByReset b
  unfold State.resetQueue
  exact h4

theorem State.TagsUnique.resetEngine (h : s.TagsUnique) (b : Fin 4) : (s.resetEngine b).TagsUnique := by
  unfold State.resetEngine
  dsimp only
  split
  · exact h
  · split
    · refine State.TagsUnique.tellEnd ?_ b _
      exact h.keepTags fun _ => rfl
    · split
      · exact h.keepTags fun _ => rfl
      · exact h.keepTags fun _ => rfl

theorem State.TagsUnique.branchReset (h : s.TagsUnique) (b : Fin 4) : (s.branchReset b).TagsUnique :=
  ((h.resetQueue b).resetEngine b).grantPass.roomFreed

theorem State.TagsUnique.writeBranchControl (h : s.TagsUnique) (b : Fin 4) (enabled : Bool) (rate : Rate) :
    (s.writeBranchControl b enabled rate).TagsUnique := by
  have hr : (s.modBranch b fun br => { br with rate := rate }).TagsUnique := h.keepTags fun _ => rfl
  unfold State.writeBranchControl
  dsimp only
  split
  · unfold State.enableBranch
    split
    · exact hr
    · refine hr.keepTags fun br => ?_
      dsimp only
      split <;> rfl
  · unfold State.disableBranch
    split
    · refine State.TagsUnique.branchReset ?_ b
      exact hr.keepTags fun _ => rfl
    · exact hr

theorem State.TagsUnique.abortQueue (h : s.TagsUnique) (b : Fin 4) : (s.abortQueue b).TagsUnique :=
  (h.emptyQueue b).foldl (f := fun t o => t.removeByOffline b o) fun _ _ _ hu => hu.removeByOffline b

theorem State.TagsUnique.enterOffline (h : s.TagsUnique) : s.enterOffline.TagsUnique := by
  have h0 : ({ s with opState := .offline } : State).TagsUnique := h
  have h1 := State.TagsUnique.foldl (f := fun t i => t.endEntry i .abandoned .aborted) (fun _ i hu => hu.endEntry i _ _)
    (sixteen.filter (State.abortable { s with opState := .offline })) h0
  have h2 := State.TagsUnique.foldl (f := fun t b => t.abortQueue b) (fun _ b hu => hu.abortQueue b) four h1
  have h3 (u : State) (hu : u.TagsUnique) (v : Vector Attn 4) : ({ u.idleGroups with attns := v } : State).TagsUnique := hu
  exact (State.TagsUnique.foldl (f := fun t b => t.tellEnd b .aborted) (fun _ b hu => hu.tellEnd b _) four
    (h3 _ h2 _)).grantPass.roomFreed

/-- After a reset no tag holder is left. -/
theorem resetTo_tagsUnique (straps : Straps) (opState : OpState) (holdIn : Bool) (inputs : Vector Bool 4)
    (pending : List Instr) (freeCount : Nat) :
    (State.resetTo straps opState holdIn inputs pending freeCount).TagsUnique := by
  refine (tagsUnique_iff _).2 fun rt => ?_
  have he (i : Fin 16) : (State.resetTo straps opState holdIn inputs pending freeCount).entry i = none :=
    Vector.getElem_replicate i.isLt
  have hb (b : Fin 4) : (State.resetTo straps opState holdIn inputs pending freeCount).branch b = Branch.reset :=
    Vector.getElem_replicate b.isLt
  have hq : (State.resetTo straps opState holdIn inputs pending freeCount).releaseTagCount rt = 0 := rfl
  have h0 : placeTagCount rt none = 0 := rfl
  have h1 : Branch.reset.tagCount rt = 0 := rfl
  simp only [State.tagCount, he, hb, hq, h0, h1]
  decide

/-! ## Register writes -/

/-- The state that a word leaves, when it is applied, has unique pairs. -/
def WordOutcome.TagsUnique : WordOutcome → Prop
  | .applied t => t.TagsUnique
  | .stops _ => True

theorem State.TagsUnique.writeState (h : s.TagsUnique) (v : Nat) : (s.writeState v).TagsUnique := by
  unfold State.writeState
  split
  · split
    · exact h
    · exact h
    · exact h
  · split
    · exact h
    · trivial
    · exact h
  · trivial
  · split
    · exact h.enterOffline
    · exact h.enterOffline
    · exact h
  · trivial
  · exact h

theorem State.TagsUnique.writeResetCommand (h : s.TagsUnique) (v : Nat) : (s.writeResetCommand v).TagsUnique := by
  unfold State.writeResetCommand
  split
  · exact h
  · exact h
  · exact h.branchReset 0
  · exact h.branchReset 1
  · exact h.branchReset 2
  · exact h.branchReset 3
  · trivial

theorem State.TagsUnique.writeNoticeMask (h : s.TagsUnique) (w : Word) : (s.writeNoticeMask w).TagsUnique := by
  have hm : ({ s with noticeMask := w.setWidth 11 } : State).TagsUnique := h
  unfold State.writeNoticeMask
  dsimp only
  split
  · exact hm.raiseNotice
  · exact hm

theorem State.TagsUnique.writeNoticeArm (h : s.TagsUnique) (w : Word) : (s.writeNoticeArm w).TagsUnique := by
  have hm : ({ s with noticeArm := w.getLsbD 0 } : State).TagsUnique := h
  unfold State.writeNoticeArm
  dsimp only
  split
  · exact hm.raiseNotice
  · exact hm

theorem byteField_tagsUnique {w : Word} {store : Byte → State} (h : ∀ x, (store x).TagsUnique) :
    (byteField w store).TagsUnique := by
  unfold byteField
  split
  · trivial
  · exact h _

theorem State.TagsUnique.writeAttnWord (h : s.TagsUnique) (b : Fin 4) (w : Word) : (s.writeAttnWord b w).TagsUnique := by
  have hm (f : Attn → Attn) : (s.modAttn b f).TagsUnique := h
  unfold State.writeAttnWord
  split
  · exact (hm _).levelTrigger b
  · exact (hm _).levelTrigger b
  · trivial

theorem State.TagsUnique.writeGroupCommand (h : s.TagsUnique) (g : Fin 7) (v : Nat) : (s.writeGroupCommand g v).TagsUnique := by
  have hm (f : Group → Group) : (s.modGroup g f).TagsUnique := h
  unfold State.writeGroupCommand
  split
  · unfold State.openGroup
    by_cases hs : (s.group g).state = .idle
    · rw [if_pos hs]; exact h
    · rw [if_neg hs]; trivial
  · unfold State.closeGroup
    by_cases hs : (s.group g).state = .collecting
    · rw [if_pos hs]; exact (hm _).fireIfComplete g
    · rw [if_neg hs]; trivial
  · exact h
  · trivial

theorem State.TagsUnique.writeWord (h : s.TagsUnique) (r : Register) (w : Word) : (s.writeWord r w).TagsUnique := by
  cases r with
  | state => exact h.writeState _
  | resetCommand => exact h.writeResetCommand _
  | commitLimit =>
    have hl (n : Nat) : ({ s with commitLimit := n } : State).TagsUnique := h
    exact (hl _).grantPass
  | timeoutClass c =>
    simp only [State.writeWord]
    split
    · trivial
    · exact h
  | tickShift =>
    simp only [State.writeWord]
    split
    · trivial
    · exact h
  | stamp => exact h.writeStamp w
  | lateWindow =>
    simp only [State.writeWord]
    split
    · trivial
    · exact h
  | noticeMask => exact h.writeNoticeMask w
  | noticeArm => exact h.writeNoticeArm w
  | fault word =>
    simp only [State.writeWord]
    split
    · exact h
    · exact h
  | branchControl b =>
    simp only [State.writeWord, State.writeControl]
    split
    · trivial
    · exact h.writeBranchControl b _ _
  | branchGap b =>
    have hs (x : Byte) : (s.modBranch b fun br => { br with gap := x }).TagsUnique := h.keepTags fun _ => rfl
    exact byteField_tagsUnique hs
  | branchPause b =>
    have hs (x : Byte) : (s.modBranch b fun br => { br with retryPause := x }).TagsUnique := h.keepTags fun _ => rfl
    exact byteField_tagsUnique hs
  | branchStretch b =>
    refine byteField_tagsUnique fun _ => State.TagsUnique.judgeClock ?_ b
    exact h.keepTags fun _ => rfl
  | branchBusy b =>
    refine byteField_tagsUnique fun _ => State.TagsUnique.judgeBusy ?_ b
    exact h.keepTags fun _ => rfl
  | attnControl b => exact h.writeAttnWord b w
  | attnPlace b => exact h.writeAttnFields b _
  | attnSize b =>
    simp only [State.writeWord, State.writeAttnSize]
    split
    · trivial
    · exact h.writeAttnFields b _
  | groupCommand g => exact h.writeGroupCommand g _
  | groupAction g =>
    simp only [State.writeWord, State.writeGroupAction]
    split
    · exact h
    · trivial
  | groupWidth g =>
    simp only [State.writeWord, State.writeGroupWidth]
    split
    · trivial
    · exact h
  | _ => exact h

theorem State.TagsUnique.writeWords (h : s.TagsUnique) (address k : Nat) (words : List Word) :
    (s.writeWords address k words).state.TagsUnique := by
  induction words generalizing s k with
  | nil => exact h
  | cons w rest ih =>
    unfold State.writeWords
    split
    · exact h
    · rename_i r _
      split
      · exact h
      · rename_i u hu
        have hw := h.writeWord r w
        rw [hu] at hw
        refine ih ?_ (k + 1)
        unfold State.betweenWords
        split
        · exact hw
        · exact State.TagsUnique.settle hw

theorem State.TagsUnique.mgmtWrite (h : s.TagsUnique) (rt : ReqTag) (bridgeNumber : BitVec 3) (address : Nat)
    (words : List Word) : (s.mgmtWrite rt bridgeNumber address words).TagsUnique := by
  have h0 : (State.pushRecord { s with bridgeNumber := bridgeNumber, intake := [] } (mgmtCompletion rt .ok 0 [])).TagsUnique := h
  exact h0.writeWords address 0 words

theorem State.TagsUnique.mgmtRead (h : s.TagsUnique) (rt : ReqTag) (address words : Nat) :
    (s.mgmtRead rt address words).TagsUnique := by
  unfold State.mgmtRead
  split
  · exact h
  · rename_i rs _
    exact State.TagsUnique.foldl (f := State.readEffect) (fun u r hu => by
      unfold State.readEffect
      split
      · exact hu.keepTags fun _ => rfl
      · exact hu) rs h

/-! ## Reception and decisions -/

theorem State.TagsUnique.scan (h : s.TagsUnique) (bytes : List Byte) (fuel : Nat) : (s.scan bytes fuel).TagsUnique := by
  have hp (u : State) (hu : u.TagsUnique) (f : Frame) : (u.placeFrame f).TagsUnique := by
    have hi : ({ u with intake := u.intake ++ [f] } : State).TagsUnique := hu
    unfold State.placeFrame
    split
    · exact hi.wakeUp
    · exact hu.setFlag _
  induction fuel generalizing s bytes with
  | zero => exact h
  | succ n ih =>
    unfold State.scan
    split
    · exact h
    · split
      · exact ih h _
      · split
        · dsimp only
          split
          · exact h
          · split
            · exact ih (hp s h _) _
            · exact ih (h.setFlag _) _
        · exact h

theorem State.TagsUnique.receive (h : s.TagsUnique) (bytes : List Byte) : (s.receive bytes).TagsUnique := h.scan _ _

theorem State.TagsUnique.decideRead (h : s.TagsUnique) (rt : ReqTag) (ldn : Byte) (offset length : Nat) :
    (s.decideRead rt ldn offset length).TagsUnique := by
  unfold State.decideRead
  split
  · trivial
  · rename_i hl
    split
    · trivial
    · split
      · trivial
      · refine h.createEntry _ _ _ _ fun x hx => ?_
        obtain rfl : rt = x := SplitOwner.trunk.inj hx
        exact Bool.eq_false_iff.2 hl

theorem State.TagsUnique.addMember (h : s.TagsUnique) (member : Option (Fin 7 × Byte)) : (s.addMember member).TagsUnique := by
  unfold State.addMember
  split
  · exact h
  · exact h

theorem addMember_live (s : State) (member : Option (Fin 7 × Byte)) (rt : ReqTag) :
    (s.addMember member).live rt = s.live rt := by
  unfold State.addMember
  split <;> rfl

theorem State.TagsUnique.decideTimedWrite (h : s.TagsUnique) (rt : ReqTag) (stamp : Stamp) (group ldn : Byte)
    (offset : Nat) (data : List Byte) : (s.decideTimedWrite rt stamp group ldn offset data).TagsUnique := by
  unfold State.decideTimedWrite
  split
  · trivial
  · rename_i hl
    split
    · trivial
    · split
      · trivial
      · split
        · trivial
        · split
          · trivial
          · exact (h.addMember _).insertEntry ((addMember_live s _ rt).trans (Bool.eq_false_iff.2 hl))

theorem State.TagsUnique.decideTimedLatch (h : s.TagsUnique) (rt : ReqTag) (stamp : Stamp) (lines : BitVec 4)
    (action : LatchAction) (width : BitVec 16) : (s.decideTimedLatch rt stamp lines action width).TagsUnique := by
  unfold State.decideTimedLatch
  split
  · trivial
  · rename_i hl
    split
    · trivial
    · split
      · trivial
      · exact h.insertEntry (Bool.eq_false_iff.2 hl)

theorem State.TagsUnique.cancelTarget (h : s.TagsUnique) (target : ReqTag) : (s.cancelTarget target).2.TagsUnique := by
  unfold State.cancelTarget
  split
  · split
    · exact h.abandon _ _
    · exact h
  · split
    · rename_i e _
      refine State.TagsUnique.cancelMember (h.of_count fun rt => ?_) _
      have h1 := tagCount_releaseQueue s (s.releaseQueue.filter fun x => !(x.rt == e.rt)) rt
      have h2 : ((s.releaseQueue.filter fun x => !(x.rt == e.rt)).map ReleaseEntry.rt).count rt ≤ s.releaseTagCount rt :=
        ((List.filter_sublist).map ReleaseEntry.rt).count_le rt
      omega
    · split
      · exact h
      · exact h

theorem State.TagsUnique.decideRequest (h : s.TagsUnique) (rt : ReqTag) (request : Request) :
    (s.decideRequest rt request).TagsUnique := by
  have hp (r : Record) : (s.pushRecord r).TagsUnique := h
  cases request with
  | read ldn offset length => exact h.decideRead rt ldn offset length
  | write ldn offset data => exact h.decidePosted rt ldn offset data _
  | writeConfirmed ldn offset data => exact h.decideConfirmed rt ldn offset data
  | timedWrite stamp group ldn offset data => exact h.decideTimedWrite rt stamp group ldn offset data
  | timedLatch stamp lines action width => exact h.decideTimedLatch rt stamp lines action width
  | cancel target => exact (hp _).cancelTarget _
  | mgmtRead address words => exact h.mgmtRead rt address words
  | mgmtWrite bridgeNumber address words => exact h.mgmtWrite rt bridgeNumber address words
  | table command operand => exact h

theorem State.TagsUnique.decideFrame (h : s.TagsUnique) (f : Frame) : (s.decideFrame f).TagsUnique := by
  unfold State.decideFrame
  split
  · trivial
  · split
    · trivial
    · exact h.decideRequest _ _

theorem State.TagsUnique.takeHead (h : s.TagsUnique) {f : Frame} {rest : List Frame} (ht : s.takeHead f rest = some t) :
    t.TagsUnique := by
  have hs : ({ s with intake := rest } : State).TagsUnique := h
  have hd := hs.decideFrame f
  unfold State.takeHead at ht
  dsimp only at ht
  split at ht
  · rename_i u hu
    cases ht
    rw [hu] at hd
    exact hd
  · rename_i u hu
    split at ht
    · cases ht
      rw [hu] at hd
      exact hd
    · cases ht
  · split at ht
    · cases ht; exact h
    · cases ht

theorem State.TagsUnique.takeRow (h : s.TagsUnique) (row : Instr) : (s.takeRow row).TagsUnique := by
  unfold State.takeRow
  split
  · exact h
  · split
    · split
      · exact h
      · rename_i ht; exact (h.takeHead ht).endEvent
    · exact h

/-! ## The end of a send -/

theorem State.TagsUnique.splitSent (h : s.TagsUnique) (i : Fin 16) (n : Nat) (final : Bool) :
    (s.splitSent i n final).TagsUnique := by
  unfold State.splitSent
  split
  · exact h
  · rename_i e he
    have h1 := h.replaceEntry he (e' := SplitEntry.releaseSent
      { e with sent := e.sent + n, held := e.held.drop n, finalSent := e.finalSent || final }) rfl
    dsimp only
    refine State.TagsUnique.freeIfDone (State.TagsUnique.roomFreed ?_) i
    split
    · exact h1
    · exact h1.grantPass

theorem State.TagsUnique.endSend (h : s.TagsUnique) (f : InFlight) : (s.endSend f).TagsUnique := by
  have hs : ({ s with sending := none } : State).TagsUnique := h
  unfold State.endSend
  dsimp only
  split
  · exact resetTo_tagsUnique _ _ _ _ _ _
  · exact h
  · exact h
  · exact hs.splitSent _ _ _

/-! ## Every command -/

/-- The next state of an outcome, when it gives one, has unique pairs. -/
def TagsUniqueOutcome : Host.Outcome State Fault Refusal → Prop
  | .next t => t.TagsUnique
  | .fault _ => True
  | .refused _ => True

/-- A step that is taken under a condition, and changes nothing without it (log 1). -/
theorem State.TagsUnique.nextIf (h : s.TagsUnique) {p : Prop} [Decidable p] (ht : p → t.TagsUnique) :
    TagsUniqueOutcome (.next (if p then t else s)) := by
  split
  · rename_i hp; exact ht hp
  · exact h

theorem State.TagsUnique.gapElapsed (h : s.TagsUnique) (b : Fin 4) : TagsUniqueOutcome (execGapElapsed b s) := by
  unfold execGapElapsed
  split
  · exact h
  · exact h.nextIf fun _ => h.keepTags fun _ => rfl

theorem State.TagsUnique.pauseElapsed (h : s.TagsUnique) (b : Fin 4) : TagsUniqueOutcome (execPauseElapsed b s) := by
  unfold execPauseElapsed
  split
  · exact h
  · exact h.nextIf fun _ => h.keepTags fun br => beginAttempt_tags br.endPause _

theorem State.TagsUnique.busStartSeen (h : s.TagsUnique) (b : Fin 4) (party : Party) :
    TagsUniqueOutcome (execBusStartSeen b party s) := by
  cases party with
  | self => exact h.ownStart b
  | other => exact (h.otherStart b).endEvent

theorem State.TagsUnique.busStopSeen (h : s.TagsUnique) (b : Fin 4) (party : Party) :
    TagsUniqueOutcome (execBusStopSeen b party s) := by
  cases party with
  | self => exact (h.ownStop b).endEvent
  | other => exact (h.otherStop b).endEvent

theorem State.TagsUnique.byteAck (h : s.TagsUnique) (b : Fin 4) : TagsUniqueOutcome (execByteAck b s) := by
  have ha (o : Operation) : (s.modBranch b fun br => br.ackSubaddress o).TagsUnique := h.keepTags fun br => ackSubaddress_tags br o
  have hd (o : Operation) : (s.modBranch b fun br => br.ackData o).TagsUnique := h.keepTags fun br => ackData_tags br o
  unfold execByteAck
  split
  · exact h
  · split
    · exact (h.ackAddress b _).endEvent
    · exact (h.ackAddress b _).endEvent
    · exact (h.ackAddress b _).endEvent
    · exact (ha _).endEvent
    · exact (hd _).endEvent
    · exact h

theorem State.TagsUnique.readByteReceived (h : s.TagsUnique) (b : Fin 4) (byte : Byte) :
    TagsUniqueOutcome (execReadByteReceived b byte s) := by
  unfold execReadByteReceived
  split
  · exact h
  · split
    · exact h.nextIf fun _ => (h.receiveData b _ _ _ byte).endEvent
    · exact h

theorem State.TagsUnique.sendEnd (h : s.TagsUnique) : TagsUniqueOutcome (execSendEnd s) := by
  unfold execSendEnd
  split
  · exact h
  · exact (h.endSend _).endEvent

theorem State.TagsUnique.stampAdvance (h : s.TagsUnique) : TagsUniqueOutcome (execStampAdvance s) := by
  have hw : ({ s with releaseQueue := s.releaseQueue.map (ReleaseEntry.wait s.stamp) } : State).TagsUnique :=
    h.keepReleases (by rw [List.map_map]; rfl)
  have hs : ({ s with
      stamp := s.stamp + 1, tickTimer := 0, tickLength := s.tickMicros
      releaseQueue := s.releaseQueue.map (ReleaseEntry.wait s.stamp) } : State).TagsUnique := hw
  exact hs.markDue.endEvent

theorem State.TagsUnique.attentionTrigger (h : s.TagsUnique) (b : Fin 4) : TagsUniqueOutcome (execAttentionTrigger b s) := by
  have hm : (s.modAttn b fun a => { a with line := false }).TagsUnique := h
  have ht := hm.trigger b
  unfold execAttentionTrigger
  dsimp only [TagsUniqueOutcome]
  split
  · exact ht
  · split
    · exact ht.wakeUp.endEvent
    · exact ht.endEvent

/-- Every command keeps the pairs unique: the rows of Intake by what a frame can do, every other by its own meaning. -/
theorem State.TagsUnique.exec (h : s.TagsUnique) (c : Instr) : TagsUniqueOutcome (exec c s) := by
  have hh : ({ s with holdIn := false } : State).TagsUnique := h
  have hw : ({ s with opState := .active, wakeTimer := 0 } : State).TagsUnique := h
  cases c with
  | frameArrival bytes => exact (h.receive bytes).endEvent
  | syncReceived => exact (h.receive _).endEvent
  | engineTakeOperation b => exact h.nextIf fun _ => (h.takeNext b).endEvent
  | gapElapsed b => exact h.gapElapsed b
  | busStartSeen b party => exact h.busStartSeen b party
  | busStopSeen b party => exact h.busStopSeen b party
  | arbitrationLoss b => exact (h.loseArbitration b).endEvent
  | addressNack b => exact h.nextIf fun _ => h.keepTags fun _ => rfl
  | dataNack b => exact h.nextIf fun _ => h.keepTags fun _ => rfl
  | byteAck b => exact h.byteAck b
  | readByteReceived b byte => exact h.readByteReceived b byte
  | pauseElapsed b => exact h.pauseElapsed b
  | clockStuck b held =>
    have hs : (s.modBranch b fun br => { br with stretchCounter := held }).TagsUnique := h.keepTags fun _ => rfl
    exact h.nextIf fun _ => (hs.judgeClock b).endEvent
  | busClearEnd b stopMade =>
    have hs : (s.modBranch b fun br => br.endClear stopMade).TagsUnique := h.keepTags fun br => endClear_tags br stopMade
    exact h.nextIf fun _ => hs.endEvent
  | busyLimitExceeded b =>
    have hs : (s.modBranch b fun x => { x with
      busyTimer := max x.busyTimer (x.busyLimit.toNat * 1000 + 1) }).TagsUnique := h.keepTags fun _ => rfl
    exact h.nextIf fun _ => (hs.judgeBusy b).endEvent
  | runEnd b => exact h.nextIf fun _ => (h.ownStop b).endEvent
  | answerPosted b => exact h.nextIf fun _ => (h.postNext b).endEvent
  | deadlineExpiry place => exact h.nextIf fun _ => (h.expire place).endEvent
  | frameSendBegin => exact h.nextIf fun _ => h.beginFrame.endEvent
  | sendEnd => exact h.sendEnd
  | holdInAssert => exact h
  | holdInRelease => exact hh.endEvent
  | stampAdvance => exact h.stampAdvance
  | releaseTimedWrite => exact h.releaseRow _
  | releaseBranchOff => exact h.releaseRow _
  | releaseTimedLatch => exact h.releaseRow _
  | offlineAbortAnswer => exact h.releaseRow _
  | pulseEnd line => exact h
  | attentionTrigger b => exact h.attentionTrigger b
  | attentionLineRise b => exact h
  | holdoffEnd b => exact h.nextIf fun _ => (h.endHoldoff b).endEvent
  | wakeTimeEnd => exact h.nextIf fun _ => hw.claims.endEvent
  | coldReset straps => exact resetTo_tagsUnique _ _ _ _ _ _
  | _ => exact h.takeRow _

/-! ## Every step -/

theorem State.TagsUnique.tick (h : s.TagsUnique) : s.tick.TagsUnique :=
  h.of_count fun rt => by
    have hb (b : Fin 4) : (s.tick.branch b).tagCount rt = (s.branch b).tagCount rt := by
      have ht : s.tick.branch b = (s.branch b).tick := getElem_mapAll _ _ _ b.isLt
      rw [ht]
      rfl
    unfold State.tagCount
    simp only [hb]
    exact Nat.le_refl _

theorem State.TagsUnique.step (h : s.TagsUnique) : TagsUniqueOutcome (step s) := by
  have hs (q : List Instr) : ({ s with pending := q } : State).TagsUnique := h
  unfold Machine.step
  split
  · unfold Machine.idle
    split
    · rename_i hp; exact (h.pick hp).exec _
    · exact h.tick
  · exact (hs _).exec _

/-- Settles O55: no operation of the part makes a second holder of a pair. What a holder carries is handed on whole (from the Release
Queue to an Issue Queue, from there to the engine, from the engine to the answer list), and a new holder is made only for a pair
that is not live. -/
theorem tagsStayUnique : Obligations.TagsStayUnique := by
  intro s t h ht
  have hs := h.step
  rw [ht] at hs
  exact hs

end Sys2Proof.Machine
end

section
/-! SUPPORT. The receiver examines bytes: the turns of its examination, the fuel, and the cuts of the stream. -/

namespace Sys2Proof.Machine

/-! ## The receiver examines bytes -/

/-- The bytes behind a SYNC do not complete a frame (R19). -/
def Incomplete (received : List Byte) : Prop :=
  received.length < 3 ∨
    ∃ kind reqtag bodylen more, received = kind :: reqtag :: bodylen :: more ∧ more.length < bodylen.toNat + 2

/-- The bytes that follow KIND, REQTAG and BODYLEN end, after the body, with the frame's CHECK (R18). -/
def CheckPasses (kind reqtag bodylen : Byte) (more : List Byte) : Prop :=
  (more.drop bodylen.toNat).take 2 = bytes16 (crc (kind :: reqtag :: bodylen :: more.take bodylen.toNat))

theorem scan_nil (s : State) (fuel : Nat) : s.scan [] (fuel + 1) = { s with rx := .hunting } := rfl

/-- A byte other than SYNC is dropped (R19). -/
theorem scan_other (s : State) {b : Byte} (hb : b ≠ 0xA5) (rest : List Byte) (fuel : Nat) :
    s.scan (b :: rest) (fuel + 1) = s.scan rest fuel := if_pos hb

theorem scan_incomplete (s : State) {rest : List Byte} (h : Incomplete rest) (fuel : Nat) :
    s.scan (0xA5 :: rest) (fuel + 1) = { s with rx := .gathering rest } := by
  rcases h with h | ⟨kind, reqtag, bodylen, more, rfl, h⟩
  · match rest, h with
    | [], _ => rfl
    | [_], _ => rfl
    | [_, _], _ => rfl
    | _ :: _ :: _ :: _, h => simp only [List.length_cons] at h; omega
  · exact if_pos h

/-- A frame that passes CHECK is placed, and hunting goes on behind it (R21). -/
theorem scan_good (s : State) {kind reqtag bodylen : Byte} {more : List Byte} (hl : bodylen.toNat + 2 ≤ more.length)
    (hc : CheckPasses kind reqtag bodylen more) (fuel : Nat) :
    s.scan (0xA5 :: kind :: reqtag :: bodylen :: more) (fuel + 1) =
      (s.placeFrame { kind := kind, reqtag := reqtag, body := more.take bodylen.toNat }).scan
        (more.drop (bodylen.toNat + 2)) fuel :=
  (if_neg (Nat.not_lt.2 hl)).trans (if_pos hc)

/-- A frame that fails CHECK: hunting goes on behind its SYNC (R20). -/
theorem scan_failed (s : State) {kind reqtag bodylen : Byte} {more : List Byte} (hl : bodylen.toNat + 2 ≤ more.length)
    (hc : ¬ CheckPasses kind reqtag bodylen more) (fuel : Nat) :
    s.scan (0xA5 :: kind :: reqtag :: bodylen :: more) (fuel + 1) =
      (s.setFlag .frameError).scan (kind :: reqtag :: bodylen :: more) fuel :=
  (if_neg (Nat.not_lt.2 hl)).trans (if_neg hc)

/-- Induction along the receiver's examination: what stands at the front of the bytes, and the bytes it goes on with. -/
theorem scan_induction {P : List Byte → Prop} (nil : P []) (other : ∀ b rest, b ≠ 0xA5 → P rest → P (b :: rest))
    (incomplete : ∀ rest, Incomplete rest → P (0xA5 :: rest))
    (good : ∀ kind reqtag bodylen more, bodylen.toNat + 2 ≤ more.length → CheckPasses kind reqtag bodylen more →
      P (more.drop (bodylen.toNat + 2)) → P (0xA5 :: kind :: reqtag :: bodylen :: more))
    (failed : ∀ kind reqtag bodylen more, bodylen.toNat + 2 ≤ more.length → ¬ CheckPasses kind reqtag bodylen more →
      P (kind :: reqtag :: bodylen :: more) → P (0xA5 :: kind :: reqtag :: bodylen :: more)) (bytes : List Byte) : P bytes := by
  induction hn : bytes.length using Nat.strong_induction_on generalizing bytes with
  | _ n ih =>
    subst hn
    match bytes with
    | [] => exact nil
    | b :: rest =>
      by_cases hb : b = 0xA5
      · subst hb
        by_cases hi : Incomplete rest
        · exact incomplete rest hi
        · match rest, hi with
          | [], hi => exact absurd (.inl (by decide)) hi
          | [_], hi => exact absurd (.inl (by simp)) hi
          | [_, _], hi => exact absurd (.inl (by simp)) hi
          | kind :: reqtag :: bodylen :: more, hi =>
            have hl : bodylen.toNat + 2 ≤ more.length :=
              Nat.not_lt.1 fun hl => hi (.inr ⟨kind, reqtag, bodylen, more, rfl, hl⟩)
            by_cases hc : CheckPasses kind reqtag bodylen more
            · refine good _ _ _ _ hl hc (ih _ ?_ _ rfl)
              simp only [List.length_drop, List.length_cons]
              omega
            · exact failed _ _ _ _ hl hc (ih _ (Nat.lt_succ_self _) _ rfl)
      · exact other b rest hb (ih _ (Nat.lt_succ_self _) _ rfl)

/-! ## Where the receiver stood, and the fuel, play no part -/

theorem raiseNotice_rx (s : State) (x : Receiver) :
    ({ s with rx := x } : State).raiseNotice = { s.raiseNotice with rx := x } := by
  unfold State.raiseNotice
  dsimp only
  split <;> rfl

theorem setFlag_rx (s : State) (f : EventFlag) (x : Receiver) :
    ({ s with rx := x } : State).setFlag f = { s.setFlag f with rx := x } := by
  unfold State.setFlag State.flag
  dsimp only
  split
  · rfl
  · split
    · exact raiseNotice_rx { s with flags := s.flags ||| f.mask } x
    · rfl

theorem placeFrame_rx (s : State) (f : Frame) (x : Receiver) :
    ({ s with rx := x } : State).placeFrame f = { s.placeFrame f with rx := x } := by
  unfold State.placeFrame State.wakeUp
  dsimp only
  split
  · split
    · exact setFlag_rx { s with intake := s.intake ++ [f], opState := .waking, wakeTimer := 0 } .woke x
    · rfl
  · exact setFlag_rx s _ x

/-- With more fuel than bytes the fuel plays no part, and neither does what the receiver did before. -/
theorem scan_restart (bytes : List Byte) (s : State) (x : Receiver) (m n : Nat) (hm : bytes.length < m) (hn : bytes.length < n) :
    ({ s with rx := x } : State).scan bytes m = s.scan bytes n := by
  induction bytes using scan_induction generalizing s m n with
  | nil =>
    obtain ⟨m, rfl⟩ := Nat.exists_eq_succ_of_ne_zero (Nat.ne_zero_of_lt hm)
    obtain ⟨n, rfl⟩ := Nat.exists_eq_succ_of_ne_zero (Nat.ne_zero_of_lt hn)
    rfl
  | other b rest hb ih =>
    obtain ⟨m, rfl⟩ := Nat.exists_eq_succ_of_ne_zero (Nat.ne_zero_of_lt hm)
    obtain ⟨n, rfl⟩ := Nat.exists_eq_succ_of_ne_zero (Nat.ne_zero_of_lt hn)
    rw [scan_other _ hb, scan_other _ hb]
    exact ih s m n (Nat.lt_of_succ_lt_succ hm) (Nat.lt_of_succ_lt_succ hn)
  | incomplete rest hi =>
    obtain ⟨m, rfl⟩ := Nat.exists_eq_succ_of_ne_zero (Nat.ne_zero_of_lt hm)
    obtain ⟨n, rfl⟩ := Nat.exists_eq_succ_of_ne_zero (Nat.ne_zero_of_lt hn)
    rw [scan_incomplete _ hi, scan_incomplete _ hi]
  | good kind reqtag bodylen more hl hc ih =>
    obtain ⟨m, rfl⟩ := Nat.exists_eq_succ_of_ne_zero (Nat.ne_zero_of_lt hm)
    obtain ⟨n, rfl⟩ := Nat.exists_eq_succ_of_ne_zero (Nat.ne_zero_of_lt hn)
    rw [scan_good _ hl hc, scan_good _ hl hc, placeFrame_rx]
    simp only [List.length_cons] at hm hn
    exact ih _ m n (by rw [List.length_drop]; omega) (by rw [List.length_drop]; omega)
  | failed kind reqtag bodylen more hl hc ih =>
    obtain ⟨m, rfl⟩ := Nat.exists_eq_succ_of_ne_zero (Nat.ne_zero_of_lt hm)
    obtain ⟨n, rfl⟩ := Nat.exists_eq_succ_of_ne_zero (Nat.ne_zero_of_lt hn)
    rw [scan_failed _ hl hc, scan_failed _ hl hc, setFlag_rx]
    exact ih _ m n (Nat.lt_of_succ_lt_succ hm) (Nat.lt_of_succ_lt_succ hn)

/-! ## What the receiver makes of a stream -/

theorem receive_eq_scan (s : State) (bytes : List Byte) (n : Nat) (hn : (s.rx.stream bytes).length < n) :
    s.receive bytes = s.scan (s.rx.stream bytes) n :=
  scan_restart _ s s.rx _ n (Nat.lt_succ_self _) hn

theorem exec_frameArrival_of_receive {s t : State} {bytes : List Byte} (h : s.receive bytes = t) :
    exec (.frameArrival bytes) s = .next t.endEvent := by
  rw [← h]
  rfl

theorem placeFrame_awake (s : State) (f : Frame) (hplace : s.intake.length < 2) (hawake : s.opState ≠ .quiet) :
    s.placeFrame f = { s with intake := s.intake ++ [f] } :=
  (if_pos hplace).trans (wakeUp_awake _ hawake)

/-- A frame placed in QUIET is a wake (R177). -/
theorem placeFrame_quiet (s : State) (f : Frame) (hplace : s.intake.length < 2) (hquiet : s.opState = .quiet) :
    s.placeFrame f =
      ({ s with intake := s.intake ++ [f], opState := .waking, wakeTimer := 0 } : State).setFlag .woke :=
  (if_pos hplace).trans (if_pos hquiet)

theorem placeFrame_full (s : State) (f : Frame) (hfull : 2 ≤ s.intake.length) : s.placeFrame f = s.setFlag .intakeOverrun :=
  if_neg (Nat.not_lt.2 hfull)

/-- A whole good frame that nothing follows: it is placed, and the receiver hunts (R21). -/
theorem scan_wire (s : State) (kind reqtag : Byte) {body : List Byte} (hb : body.length ≤ 255) (fuel : Nat) :
    s.scan (wire kind reqtag body) (fuel + 2) =
      { s.placeFrame { kind := kind, reqtag := reqtag, body := body } with rx := .hunting } := by
  have hn := toNat_ofNat_length body hb
  set bodylen : Byte := BitVec.ofNat 8 body.length
  set check : List Byte := bytes16 (crc (kind :: reqtag :: bodylen :: body))
  have htake : (body ++ check).take bodylen.toNat = body := by rw [hn]; exact List.take_left
  have hdrop : (body ++ check).drop bodylen.toNat = check := by rw [hn]; exact List.drop_left
  have hlen : (body ++ check).length = bodylen.toNat + 2 := by rw [hn]; exact List.length_append
  have hc : CheckPasses kind reqtag bodylen (body ++ check) := by
    unfold CheckPasses
    rw [htake, hdrop]
    rfl
  have hrest : (body ++ check).drop (bodylen.toNat + 2) = [] := List.drop_eq_nil_of_le hlen.le
  have h := scan_good s hlen.ge hc (fuel + 1)
  rw [htake, hrest, scan_nil] at h
  exact h

/-- Settles O5: the bytes gathered and those that come are one whole frame, and behind it nothing is left to hunt in. -/
theorem goodFrameArrives : Obligations.GoodFrameArrives := by
  intro s received bytes body kind reqtag hrx hb hw
  have hstream : s.rx.stream bytes = wire kind reqtag body := by rw [hrx]; exact hw
  have harrive : exec (.frameArrival bytes) s =
      .next (State.endEvent { s.placeFrame { kind := kind, reqtag := reqtag, body := body } with rx := .hunting }) := by
    have hr : s.receive bytes = { s.placeFrame { kind := kind, reqtag := reqtag, body := body } with rx := .hunting } := by
      rw [receive_eq_scan s bytes ((s.rx.stream bytes).length + 2) (by omega), hstream, scan_wire s kind reqtag hb]
    exact exec_frameArrival_of_receive hr
  rw [← placeFrame_rx] at harrive
  refine ⟨fun hplace hawake => ?_, fun hplace hquiet => ?_, fun hfull => ?_⟩
  · rw [harrive, placeFrame_awake { s with rx := .hunting } _ hplace hawake]
  · rw [harrive, placeFrame_quiet { s with rx := .hunting } _ hplace hquiet]
  · rw [harrive, placeFrame_full { s with rx := .hunting } _ hfull]

/-- Where the stream is cut into pieces plays no part. -/
theorem scan_append (x b : List Byte) (s : State) (m n : Nat) (hm : (x ++ b).length < m) (hn : x.length < n) :
    s.scan (x ++ b) m = (s.scan x n).receive b := by
  induction x using scan_induction generalizing s m n with
  | nil =>
    obtain ⟨n, rfl⟩ := Nat.exists_eq_succ_of_ne_zero (Nat.ne_zero_of_lt hn)
    exact (scan_restart b s .hunting _ m (Nat.lt_succ_self _) hm).symm
  | other c rest hc ih =>
    obtain ⟨m, rfl⟩ := Nat.exists_eq_succ_of_ne_zero (Nat.ne_zero_of_lt hm)
    obtain ⟨n, rfl⟩ := Nat.exists_eq_succ_of_ne_zero (Nat.ne_zero_of_lt hn)
    rw [List.cons_append, scan_other _ hc, scan_other _ hc]
    exact ih s m n (Nat.lt_of_succ_lt_succ hm) (Nat.lt_of_succ_lt_succ hn)
  | incomplete rest hi =>
    obtain ⟨n, rfl⟩ := Nat.exists_eq_succ_of_ne_zero (Nat.ne_zero_of_lt hn)
    rw [scan_incomplete _ hi]
    exact (scan_restart _ s (.gathering rest) _ m (Nat.lt_succ_self _) hm).symm
  | good kind reqtag bodylen more hl hc ih =>
    obtain ⟨m, rfl⟩ := Nat.exists_eq_succ_of_ne_zero (Nat.ne_zero_of_lt hm)
    obtain ⟨n, rfl⟩ := Nat.exists_eq_succ_of_ne_zero (Nat.ne_zero_of_lt hn)
    simp only [List.length_append, List.length_cons] at hm hn
    have hl' : bodylen.toNat + 2 ≤ (more ++ b).length := by rw [List.length_append]; omega
    have htake : (more ++ b).take bodylen.toNat = more.take bodylen.toNat := List.take_append_of_le_length (by omega)
    have hc' : CheckPasses kind reqtag bodylen (more ++ b) := by
      unfold CheckPasses at hc ⊢
      rw [htake, List.drop_append_of_le_length (by omega),
        List.take_append_of_le_length (by rw [List.length_drop]; omega), hc]
    simp only [List.cons_append]
    rw [scan_good _ hl hc, scan_good _ hl' hc', htake, List.drop_append_of_le_length hl]
    exact ih _ m n (by rw [List.length_append, List.length_drop]; omega) (by rw [List.length_drop]; omega)
  | failed kind reqtag bodylen more hl hc ih =>
    obtain ⟨m, rfl⟩ := Nat.exists_eq_succ_of_ne_zero (Nat.ne_zero_of_lt hm)
    obtain ⟨n, rfl⟩ := Nat.exists_eq_succ_of_ne_zero (Nat.ne_zero_of_lt hn)
    have hl' : bodylen.toNat + 2 ≤ (more ++ b).length := by rw [List.length_append]; omega
    have hc' : ¬ CheckPasses kind reqtag bodylen (more ++ b) := by
      unfold CheckPasses at hc ⊢
      rwa [List.take_append_of_le_length (by omega), List.drop_append_of_le_length (by omega),
        List.take_append_of_le_length (by rw [List.length_drop]; omega)]
    simp only [List.cons_append]
    rw [scan_failed _ hl hc, scan_failed _ hl' hc']
    exact ih _ m n (Nat.lt_of_succ_lt_succ hm) (Nat.lt_of_succ_lt_succ hn)

theorem Receiver.stream_append (rx : Receiver) (a b : List Byte) : rx.stream (a ++ b) = rx.stream a ++ b := by
  cases rx with
  | hunting => rfl
  | gathering received => exact congrArg _ (List.append_assoc _ _ _).symm

theorem receive_append (s : State) (a b : List Byte) : s.receive (a ++ b) = (s.receive a).receive b := by
  unfold State.receive
  rw [Receiver.stream_append]
  exact scan_append _ b s _ _ (Nat.lt_succ_self _) (Nat.lt_succ_self _)

/-- A byte that leaves the frame incomplete is gathered, whatever it is (R19). -/
theorem receive_incomplete (s : State) {received bytes : List Byte} (hrx : s.rx = .gathering received)
    (hi : Incomplete (received ++ bytes)) : s.receive bytes = { s with rx := .gathering (received ++ bytes) } := by
  have hstream : s.rx.stream bytes = 0xA5 :: (received ++ bytes) := by rw [hrx]; rfl
  unfold State.receive
  rw [hstream]
  exact scan_incomplete s hi _

/-- A whole frame that fails CHECK sets FRAME_ERROR, and the bytes behind its SYNC are received again from hunting on (R20). -/
theorem receive_failed (s : State) {received bytes more : List Byte} {kind reqtag bodylen : Byte}
    (hrx : s.rx = .gathering received) (hbytes : received ++ bytes = kind :: reqtag :: bodylen :: more)
    (hl : bodylen.toNat + 2 ≤ more.length) (hc : ¬ CheckPasses kind reqtag bodylen more) :
    s.receive bytes = (({ s with rx := .hunting } : State).setFlag .frameError).receive (received ++ bytes) := by
  have hstream : s.rx.stream bytes = 0xA5 :: (received ++ bytes) := by rw [hrx]; rfl
  unfold State.receive
  rw [hstream, setFlag_rx, hbytes, scan_failed s hl hc]
  exact (scan_restart _ (s.setFlag .frameError) .hunting _ _ (Nat.lt_succ_self _) (Nat.lt_succ_self _)).symm

theorem receive_other (s : State) (hrx : s.rx = .hunting) {byte : Byte} (hb : byte ≠ 0xA5) (bytes : List Byte) :
    s.receive (byte :: bytes) = s.receive bytes := by
  have hstream : ∀ l, s.rx.stream l = l := fun l => by rw [hrx]; rfl
  unfold State.receive
  rw [hstream, hstream]
  exact scan_other s hb bytes _

theorem receive_nil (s : State) (hrx : s.rx = .hunting) : s.receive [] = s := by
  unfold State.receive
  rw [hrx]
  exact (scan_nil s _).trans (congrArg (fun x => { s with rx := x }) hrx.symm)

/-- A SYNC byte begins a frame while the receiver hunts (R19). -/
theorem receive_sync (s : State) (hrx : s.rx = .hunting) : s.receive [0xA5] = { s with rx := .gathering [] } := by
  unfold State.receive
  rw [hrx]
  exact scan_incomplete s (.inl (by decide)) _

/-- Settles O6: the cases of one turn of the examination, and `receive_append` for where the stream is cut. -/
theorem receiverHuntsAndGathers : Obligations.ReceiverHuntsAndGathers := by
  refine ⟨fun s byte bytes hrx hb => ⟨?_, ?_⟩, fun s => ⟨fun hrx => ?_, fun received hrx hl => ?_, ?_⟩, ?_,
    fun s a b => ⟨rfl, receive_append s a b⟩⟩
  · exact exec_frameArrival_of_receive ((receive_other s hrx hb []).trans (receive_nil s hrx))
  · exact exec_frameArrival_of_receive (receive_other s hrx hb bytes)
  · exact exec_frameArrival_of_receive (receive_sync s hrx)
  · have hi : Incomplete (received ++ [0xA5]) := .inl (by rw [List.length_append, List.length_singleton]; omega)
    exact exec_frameArrival_of_receive (receive_incomplete s hrx hi)
  · intro received kind reqtag bodylen more hrx hbytes hl
    have hi : Incomplete (received ++ [0xA5]) := .inr ⟨kind, reqtag, bodylen, more, hbytes, hl⟩
    exact exec_frameArrival_of_receive (receive_incomplete s hrx hi)
  · intro s received bytes more kind reqtag bodylen hrx hbytes hl hc
    have hwhole : (more.drop bodylen.toNat).take 2 = more.drop bodylen.toNat :=
      List.take_of_length_le (by rw [List.length_drop]; omega)
    have hfails : ¬ CheckPasses kind reqtag bodylen more := by
      unfold CheckPasses
      rwa [hwhole]
    exact exec_frameArrival_of_receive (receive_failed s hrx hbytes hl.ge hfails)

end Sys2Proof.Machine
end

section
/-! SUPPORT. Request frames: the size fields and the TIMED LATCH fields, parser by parser, and steps 2 and 3 of Intake's checks. -/

namespace Sys2Proof.Machine

/-! ## The size fields and the fields of a TIMED LATCH (R24, R25) -/

theorem be16_toNat (hi lo : Byte) : (be16 hi lo).toNat = 256 * hi.toNat + lo.toNat := by
  unfold be16
  rw [BitVec.toNat_append, ← Nat.shiftLeft_add_eq_or_of_lt lo.isLt, Nat.shiftLeft_eq]
  omega

theorem be16_eq_zero_iff (hi lo : Byte) : be16 hi lo = 0 ↔ hi.toNat = 0 ∧ lo.toNat = 0 := by
  have h := be16_toNat hi lo
  constructor
  · intro h0
    rw [h0] at h
    have : (0 : BitVec 16).toNat = 0 := rfl
    omega
  · rintro ⟨hh, hl⟩
    apply BitVec.eq_of_toNat_eq
    rw [h, hh, hl]
    rfl

theorem ofCode_eq_none_iff (n : Nat) : LatchAction.ofCode n = none ↔ n ∉ ([1, 2, 3, 4] : List Nat) := by
  unfold LatchAction.ofCode
  split <;> simp_all

theorem ofCode_eq_pulse_iff (n : Nat) : LatchAction.ofCode n = some .pulse ↔ n = 4 := by
  unfold LatchAction.ofCode
  split <;> simp_all

theorem parseRead_eq (f : Frame) : parseRead f.body =
    if f.body.length ≠ 5 ∨ 256 * f.byte 3 + f.byte 4 = 0 ∨ 512 < 256 * f.byte 3 + f.byte 4 then .error .badLength
    else .ok (.read (f.body.getD 0 0) (256 * f.byte 1 + f.byte 2) (256 * f.byte 3 + f.byte 4)) := by
  obtain ⟨kind, reqtag, body⟩ := f
  match body with
  | [] | [_] | [_, _] | [_, _, _] | [_, _, _, _] => rfl
  | [_, _, _, _, _] => simp [parseRead, Frame.byte, be16_toNat]
  | _ :: _ :: _ :: _ :: _ :: _ :: _ => exact (if_pos (.inl (by simp))).symm

theorem parseWriteBody_eq (make : Byte → Nat → List Byte → Request) (f : Frame) : parseWriteBody make f.body =
    if f.body.length < 4 ∨ 64 < f.byte 3 ∨ f.body.length ≠ 4 + f.byte 3 then .error .badLength
    else .ok (make (f.body.getD 0 0) (256 * f.byte 1 + f.byte 2) (f.body.drop 4)) := by
  obtain ⟨kind, reqtag, body⟩ := f
  match body with
  | [] | [_] | [_, _] | [_, _, _] => rfl
  | ldn :: oh :: ol :: count :: data =>
    have h : (64 < count.toNat ∨ data.length ≠ count.toNat) ↔
        (data.length + 4 < 4 ∨ 64 < count.toNat ∨ data.length + 4 ≠ 4 + count.toNat) := by omega
    simp only [parseWriteBody, be16_toNat, if_congr h rfl rfl]
    rfl

theorem parseTimedWrite_eq (f : Frame) : parseTimedWrite f.body =
    if f.body.length < 9 ∨ 64 < f.byte 8 ∨ f.body.length ≠ 9 + f.byte 8 then .error .badLength
    else .ok (.timedWrite (be32 (f.body.getD 0 0) (f.body.getD 1 0) (f.body.getD 2 0) (f.body.getD 3 0)) (f.body.getD 4 0)
      (f.body.getD 5 0) (256 * f.byte 6 + f.byte 7) (f.body.drop 9)) := by
  obtain ⟨kind, reqtag, body⟩ := f
  match body with
  | [] | [_] | [_, _] | [_, _, _] | [_, _, _, _] => rfl
  | s3 :: s2 :: s1 :: s0 :: group :: rest =>
    have h : (rest.length < 4 ∨ 64 < (rest.getD 3 0).toNat ∨ rest.length ≠ 4 + (rest.getD 3 0).toNat) ↔
        (rest.length + 5 < 9 ∨ 64 < (rest.getD 3 0).toNat ∨ rest.length + 5 ≠ 9 + (rest.getD 3 0).toNat) := by omega
    exact (parseWriteBody_eq _ ⟨kind, reqtag, rest⟩).trans (if_congr h rfl rfl)

/-- A TIMED LATCH whose ACTION names none, or PULSE with PULSE WIDTH 0 (R25). -/
def Frame.LatchFaulty (f : Frame) : Prop :=
  f.byte 5 ∉ ([1, 2, 3, 4] : List Nat) ∨ (f.byte 5 = 4 ∧ f.byte 6 = 0 ∧ f.byte 7 = 0)

theorem parseTimedLatch_length (f : Frame) (h : f.body.length ≠ 8) : parseTimedLatch f.body = .error .badLength := by
  obtain ⟨kind, reqtag, body⟩ := f
  match body with
  | [] | [_] | [_, _] | [_, _, _] | [_, _, _, _] | [_, _, _, _, _] | [_, _, _, _, _, _] | [_, _, _, _, _, _, _] => rfl
  | [_, _, _, _, _, _, _, _] => exact absurd rfl h
  | _ :: _ :: _ :: _ :: _ :: _ :: _ :: _ :: _ :: _ => rfl

theorem parseTimedLatch_faulty (f : Frame) (h : f.body.length = 8) (hf : f.LatchFaulty) :
    parseTimedLatch f.body = .error .badField := by
  obtain ⟨kind, reqtag, body⟩ := f
  match body, h with
  | [s3, s2, s1, s0, lines, action, wh, wl], _ =>
    unfold parseTimedLatch
    dsimp only
    rcases hf with hnone | ⟨haction, hwh, hwl⟩
    · rw [(ofCode_eq_none_iff action.toNat).2 hnone]
    · rw [(ofCode_eq_pulse_iff action.toNat).2 haction]
      exact if_pos ⟨rfl, (be16_eq_zero_iff wh wl).2 ⟨hwh, hwl⟩⟩

theorem parseTimedLatch_ok (f : Frame) (h : f.body.length = 8) (hf : ¬ f.LatchFaulty) :
    ∃ r, parseTimedLatch f.body = .ok r := by
  obtain ⟨kind, reqtag, body⟩ := f
  match body, h with
  | [s3, s2, s1, s0, lines, action, wh, wl], _ =>
    unfold parseTimedLatch
    dsimp only
    cases ha : LatchAction.ofCode action.toNat with
    | none => exact absurd (.inl ((ofCode_eq_none_iff action.toNat).1 ha)) hf
    | some a =>
      refine ⟨_, if_neg ?_⟩
      rintro ⟨rfl, hw⟩
      obtain ⟨hwh, hwl⟩ := (be16_eq_zero_iff wh wl).1 hw
      exact hf (.inr ⟨(ofCode_eq_pulse_iff action.toNat).1 ha, hwh, hwl⟩)

theorem parseCancel_eq (f : Frame) : parseCancel f.body =
    if f.body.length ≠ 1 then .error .badLength else .ok (.cancel ((f.body.getD 0 0).extractLsb' 0 5)) := by
  obtain ⟨kind, reqtag, body⟩ := f
  match body with
  | [] | [_] => rfl
  | _ :: _ :: _ => exact (if_pos (by simp)).symm

theorem parseMgmtRead_eq (f : Frame) : parseMgmtRead f.body =
    if f.body.length ≠ 3 ∨ f.byte 2 = 0 ∨ 8 < f.byte 2 then .error .badLength
    else .ok (.mgmtRead (256 * f.byte 0 + f.byte 1) (f.byte 2)) := by
  obtain ⟨kind, reqtag, body⟩ := f
  match body with
  | [] | [_] | [_, _] => rfl
  | [_, _, _] => simp [parseMgmtRead, Frame.byte, be16_toNat]
  | _ :: _ :: _ :: _ :: _ => exact (if_pos (.inl (by simp))).symm

theorem parseMgmtWrite_eq (f : Frame) : parseMgmtWrite f.body =
    if f.body.length < 4 ∨ f.byte 3 = 0 ∨ 8 < f.byte 3 ∨ f.body.length ≠ 4 + 4 * f.byte 3 then .error .badLength
    else .ok (.mgmtWrite ((f.body.getD 0 0).extractLsb' 0 3) (256 * f.byte 1 + f.byte 2) (wordsOf (f.body.drop 4))) := by
  obtain ⟨kind, reqtag, body⟩ := f
  match body with
  | [] | [_] | [_, _] | [_, _, _] => rfl
  | bn :: ah :: al :: words :: data =>
    have h : (words.toNat = 0 ∨ 8 < words.toNat ∨ data.length ≠ 4 * words.toNat) ↔
        (data.length + 4 < 4 ∨ words.toNat = 0 ∨ 8 < words.toNat ∨ data.length + 4 ≠ 4 + 4 * words.toNat) := by omega
    simp only [parseMgmtWrite, be16_toNat, if_congr h rfl rfl]
    rfl

/-- A TABLE COMMAND without a COMMAND byte, or of another length than its command asks for (R24). -/
def Frame.TableSizesFail (f : Frame) : Prop :=
  f.body = [] ∨ ((f.byte 0 = 1 ∨ f.byte 0 = 2) ∧ f.body.length ≠ 9) ∨
    ((f.byte 0 = 3 ∨ f.byte 0 = 4 ∨ f.byte 0 = 5) ∧ f.body.length ≠ 2) ∨ (f.byte 0 = 6 ∧ f.body.length ≠ 1)

theorem tableBodyLength_cases (n : Nat) :
    ((n = 1 ∨ n = 2) ∧ tableBodyLength n = some 9) ∨ ((n = 3 ∨ n = 4 ∨ n = 5) ∧ tableBodyLength n = some 2) ∨
      (n = 6 ∧ tableBodyLength n = some 1) ∨ (n ∉ ([1, 2, 3, 4, 5, 6] : List Nat) ∧ tableBodyLength n = none) := by
  unfold tableBodyLength
  split <;> simp_all

theorem parseTable_cases (f : Frame) :
    (f.TableSizesFail ∧ parseTable f.body = .error .badLength) ∨
      (¬ f.TableSizesFail ∧ parseTable f.body = .ok (.table (f.body.getD 0 0) (f.body.drop 1))) := by
  obtain ⟨kind, reqtag, body⟩ := f
  match body with
  | [] => exact .inl ⟨.inl rfl, rfl⟩
  | command :: operand =>
    have hbyte : Frame.byte ⟨kind, reqtag, command :: operand⟩ 0 = command.toNat := rfl
    unfold Frame.TableSizesFail parseTable
    rw [hbyte]
    rcases tableBodyLength_cases command.toNat with ⟨hc, hl⟩ | ⟨hc, hl⟩ | ⟨hc, hl⟩ | ⟨hc, hl⟩
    all_goals simp only [hl, List.length_cons]
    · by_cases hlen : operand.length + 1 = 9
      · exact .inr ⟨by simp only [reduceCtorEq, false_or]; omega, if_pos hlen⟩
      · exact .inl ⟨.inr (.inl ⟨hc, hlen⟩), if_neg hlen⟩
    · by_cases hlen : operand.length + 1 = 2
      · exact .inr ⟨by simp only [reduceCtorEq, false_or]; omega, if_pos hlen⟩
      · exact .inl ⟨.inr (.inr (.inl ⟨hc, hlen⟩)), if_neg hlen⟩
    · by_cases hlen : operand.length + 1 = 1
      · exact .inr ⟨by simp only [reduceCtorEq, false_or]; omega, if_pos hlen⟩
      · exact .inl ⟨.inr (.inr (.inr ⟨hc, hlen⟩)), if_neg hlen⟩
    · simp only [List.mem_cons, List.not_mem_nil, or_false, not_or] at hc
      exact .inr ⟨by simp only [reduceCtorEq, false_or]; omega, rfl⟩

/-! ## Steps 2 and 3 of Intake's checks, kind by kind (R28) -/

section
variable {f : Frame}

theorem parseRequest_read (hk : f.kind = 0x11) : parseRequest f = parseRead f.body := by unfold parseRequest; rw [hk]; rfl

theorem parseRequest_write (hk : f.kind = 0x12) : parseRequest f = parseWriteBody .write f.body := by
  unfold parseRequest; rw [hk]; rfl

theorem parseRequest_confirmed (hk : f.kind = 0x13) : parseRequest f = parseWriteBody .writeConfirmed f.body := by
  unfold parseRequest; rw [hk]; rfl

theorem parseRequest_timedWrite (hk : f.kind = 0x14) : parseRequest f = parseTimedWrite f.body := by
  unfold parseRequest; rw [hk]; rfl

theorem parseRequest_timedLatch (hk : f.kind = 0x15) : parseRequest f = parseTimedLatch f.body := by
  unfold parseRequest; rw [hk]; rfl

theorem parseRequest_cancel (hk : f.kind = 0x16) : parseRequest f = parseCancel f.body := by
  unfold parseRequest; rw [hk]; rfl

theorem parseRequest_mgmtRead (hk : f.kind = 0x21) : parseRequest f = parseMgmtRead f.body := by
  unfold parseRequest; rw [hk]; rfl

theorem parseRequest_mgmtWrite (hk : f.kind = 0x22) : parseRequest f = parseMgmtWrite f.body := by
  unfold parseRequest; rw [hk]; rfl

theorem parseRequest_table (hk : f.kind = 0x23) : parseRequest f = parseTable f.body := by
  unfold parseRequest; rw [hk]; rfl

/-- The kinds of chapter 2, section 2.1. -/
def knownKinds : List Byte := [0x11, 0x12, 0x13, 0x14, 0x15, 0x16, 0x21, 0x22, 0x23]

theorem toNat_not_mem {k : Byte} {kinds : List Byte} (h : k ∉ kinds) : k.toNat ∉ kinds.map BitVec.toNat := by
  rintro hm
  obtain ⟨x, hx, he⟩ := List.mem_map.1 hm
  exact h (BitVec.eq_of_toNat_eq he ▸ hx)

theorem parseRequest_unknown (hk : f.kind ∉ knownKinds) : parseRequest f = .error .badKind := by
  have hn := toNat_not_mem hk
  unfold parseRequest
  generalize f.kind.toNat = n at hn
  split
  case h_10 => rfl
  all_goals exact absurd (by decide) hn

theorem rowOf_unknown (hk : f.kind ∉ knownKinds) : rowOf f = .badKind := by
  have hn := toNat_not_mem hk
  unfold rowOf
  generalize f.kind.toNat = n at hn
  split
  case h_10 => rfl
  all_goals exact absurd (by decide) hn

/-- The requests that Intake answers at once, never accepting them into a queue or a split entry (R33). -/
def Request.Immediate : Request → Prop
  | .cancel _ | .mgmtRead _ _ | .mgmtWrite _ _ _ | .table _ _ => True
  | _ => False

theorem parseRequest_immediate {r : Request} (hk : f.kind ∉ ([0x11, 0x12, 0x13, 0x14, 0x15] : List Byte))
    (hp : parseRequest f = .ok r) : r.Immediate := by
  by_cases hknown : f.kind ∈ knownKinds
  · simp only [knownKinds, List.mem_cons, List.not_mem_nil, or_false, not_or] at hk hknown
    obtain ⟨h11, h12, h13, h14, h15⟩ := hk
    rcases hknown with h | h | h | h | h | hk | hk | hk | hk
    · exact absurd h h11
    · exact absurd h h12
    · exact absurd h h13
    · exact absurd h h14
    · exact absurd h h15
    · rw [parseRequest_cancel hk, parseCancel_eq] at hp
      split at hp <;> cases hp
      trivial
    · rw [parseRequest_mgmtRead hk, parseMgmtRead_eq] at hp
      split at hp <;> cases hp
      trivial
    · rw [parseRequest_mgmtWrite hk, parseMgmtWrite_eq] at hp
      split at hp <;> cases hp
      trivial
    · rw [parseRequest_table hk] at hp
      rcases parseTable_cases f with ⟨_, he⟩ | ⟨_, he⟩ <;> cases he.symm.trans hp
      trivial
  · cases (parseRequest_unknown hknown).symm.trans hp

theorem parseRequest_sizesFail (h : f.SizesFail) : parseRequest f = .error .badLength := by
  rcases h with ⟨hk, h⟩ | ⟨hk | hk, h⟩ | ⟨hk, h⟩ | ⟨hk, h⟩ | ⟨hk, h⟩ | ⟨hk, h⟩ | ⟨hk, h⟩ | ⟨hk, h⟩
  · rw [parseRequest_read hk, parseRead_eq, if_pos h]
  · rw [parseRequest_write hk, parseWriteBody_eq, if_pos h]
  · rw [parseRequest_confirmed hk, parseWriteBody_eq, if_pos h]
  · rw [parseRequest_timedWrite hk, parseTimedWrite_eq, if_pos h]
  · rw [parseRequest_timedLatch hk, parseTimedLatch_length f h]
  · rw [parseRequest_cancel hk, parseCancel_eq, if_pos h]
  · rw [parseRequest_mgmtRead hk, parseMgmtRead_eq, if_pos h]
  · rw [parseRequest_mgmtWrite hk, parseMgmtWrite_eq, if_pos h]
  · rw [parseRequest_table hk]
    rcases parseTable_cases f with ⟨_, hp⟩ | ⟨hn, _⟩
    · exact hp
    · exact absurd h hn

theorem latch_length (hs : ¬ f.SizesFail) (hk : f.kind = 0x15) : f.body.length = 8 :=
  Decidable.byContradiction fun h => hs (.inr (.inr (.inr (.inl ⟨hk, h⟩))))

theorem parseRequest_faulty (hs : ¬ f.SizesFail) (hk : f.kind = 0x15) (hf : f.LatchFaulty) :
    parseRequest f = .error .badField :=
  (parseRequest_timedLatch hk).trans (parseTimedLatch_faulty f (latch_length hs hk) hf)

/-- A frame of known kind that passes the checks of form is a request. -/
theorem parseRequest_ok (hk : f.kind ∈ knownKinds) (hs : ¬ f.SizesFail) (hf : ¬ (f.kind = 0x15 ∧ f.LatchFaulty)) :
    ∃ r, parseRequest f = .ok r := by
  unfold Frame.SizesFail at hs
  simp only [not_or] at hs
  obtain ⟨hread, hwrite, htimed, hlatch, hcancel, hmread, hmwrite, htable⟩ := hs
  simp only [knownKinds, List.mem_cons, List.not_mem_nil, or_false] at hk
  rcases hk with hk | hk | hk | hk | hk | hk | hk | hk | hk
  · exact ⟨_, by rw [parseRequest_read hk, parseRead_eq, if_neg fun h => hread ⟨hk, h⟩]⟩
  · exact ⟨_, by rw [parseRequest_write hk, parseWriteBody_eq, if_neg fun h => hwrite ⟨.inl hk, h⟩]⟩
  · exact ⟨_, by rw [parseRequest_confirmed hk, parseWriteBody_eq, if_neg fun h => hwrite ⟨.inr hk, h⟩]⟩
  · exact ⟨_, by rw [parseRequest_timedWrite hk, parseTimedWrite_eq, if_neg fun h => htimed ⟨hk, h⟩]⟩
  · rw [parseRequest_timedLatch hk]
    have hlen : f.body.length = 8 := Decidable.byContradiction fun h => hlatch ⟨hk, h⟩
    exact parseTimedLatch_ok f hlen fun h => hf ⟨hk, h⟩
  · exact ⟨_, by rw [parseRequest_cancel hk, parseCancel_eq, if_neg fun h => hcancel ⟨hk, h⟩]⟩
  · exact ⟨_, by rw [parseRequest_mgmtRead hk, parseMgmtRead_eq, if_neg fun h => hmread ⟨hk, h⟩]⟩
  · exact ⟨_, by rw [parseRequest_mgmtWrite hk, parseMgmtWrite_eq, if_neg fun h => hmwrite ⟨hk, h⟩]⟩
  · rw [parseRequest_table hk]
    rcases parseTable_cases f with ⟨hsize, _⟩ | ⟨_, hp⟩
    · exact absurd ⟨hk, hsize⟩ htable
    · exact ⟨_, hp⟩

end

end Sys2Proof.Machine
end

section
/-! SUPPORT. What Intake decides of its head frame: a row and its head frame, the checks from step 5 on, groups and free places. -/

namespace Sys2Proof.Machine

/-! ## A row and its head frame, by what Intake decides -/

section
variable {s t : State} {f : Frame} {rest : List Frame} {row : Instr} {st : Status} {r : Request}

theorem exec_accepted (h : s.AtHead f rest) (hr : rowOf f = row)
    (hd : ({ s with intake := rest } : State).decideFrame f = .accept t) : exec row s = .next t.endEvent := by
  rw [← hr, exec_rowOf, takeRow_atHead h rfl, takeHead_accept hd]
  rfl

theorem exec_answered (h : s.Ready f rest) (hr : rowOf f = row)
    (hd : ({ s with intake := rest } : State).decideFrame f = .answer t) : exec row s = .next t.endEvent := by
  rw [← hr, exec_rowOf, takeRow_atHead h.1 rfl, takeHead_answer h.2 hd]
  rfl

theorem exec_refused (h : s.Ready f rest) (hr : rowOf f = row)
    (hd : ({ s with intake := rest } : State).decideFrame f = .refuse st) :
    exec row s = .next (s.answeredWith rest (f.refusal st)).endEvent := by
  rw [← hr, exec_rowOf, takeRow_atHead h.1 rfl, takeHead_refuse h.2 hd]
  rfl

/-- Out of OFFLINE a request is accepted when its own checks accept it. -/
theorem exec_request_accepted (h : s.AtHead f rest) (hr : rowOf f = row) (ho : s.opState ≠ .offline)
    (hp : parseRequest f = .ok r) (hd : ({ s with intake := rest } : State).decideRequest f.rt r = .accept t) :
    exec row s = .next t.endEvent :=
  exec_accepted h hr ((decideFrame_passed { s with intake := rest } f r hp (.inl ho)).trans hd)

theorem exec_request_answered (h : s.Ready f rest) (hr : rowOf f = row) (ho : s.opState ≠ .offline)
    (hp : parseRequest f = .ok r) (hd : ({ s with intake := rest } : State).decideRequest f.rt r = .answer t) :
    exec row s = .next t.endEvent :=
  exec_answered h hr ((decideFrame_passed { s with intake := rest } f r hp (.inl ho)).trans hd)

/-- Out of OFFLINE a request is refused when its own checks refuse it. -/
theorem exec_request_refused (h : s.Ready f rest) (hr : rowOf f = row) (ho : s.opState ≠ .offline)
    (hp : parseRequest f = .ok r) (hd : ({ s with intake := rest } : State).decideRequest f.rt r = .refuse st) :
    exec row s = .next (s.answeredWith rest (f.refusal st)).endEvent :=
  exec_refused h hr ((decideFrame_passed { s with intake := rest } f r hp (.inl ho)).trans hd)

theorem exec_untaken (h : s.takesFrames = false) (f : Frame) : exec (rowOf f) s = .next s := by
  rw [exec_rowOf, State.takeRow]
  split
  · rfl
  · rw [h]
    rfl

/-- With 12 records in the Response Queue, only an accepted frame is taken (R33). -/
theorem exec_waits (hi : s.intake = f :: rest) (hfull : 12 ≤ s.responseQueue.length)
    (hd : ∀ t, ({ s with intake := rest } : State).decideFrame f ≠ .accept t) : exec (rowOf f) s = .next s := by
  have hroom : s.intakeRoom = false := by
    rw [← Bool.not_eq_true, intakeRoom_iff]
    omega
  have hnone : s.takeHead f rest = none := by
    unfold State.takeHead
    dsimp only
    split
    · exact absurd ‹_› (hd _)
    · exact if_neg (by rw [hroom]; exact Bool.false_ne_true)
    · exact if_neg (by rw [hroom]; exact Bool.false_ne_true)
  rw [exec_rowOf, State.takeRow, hi]
  dsimp only
  rw [hnone]
  split <;> rfl

theorem refusal_eq (f : Frame) (st : Status) :
    f.refusal st =
      { rt := f.rt, status := st,
        body := if f.kind ∈ ([0x21, 0x22, 0x23] : List Byte) then .mgmt 0 [] false else .completion 0 } := by
  have h : f.isMgmtKind = true ↔ f.kind ∈ ([0x21, 0x22, 0x23] : List Byte) := by
    simp [Frame.isMgmtKind, or_assoc]
  unfold Frame.refusal
  by_cases hk : f.kind ∈ ([0x21, 0x22, 0x23] : List Byte)
  · rw [if_pos (h.2 hk), if_pos hk]
    rfl
  · rw [if_neg (mt h.1 hk), if_neg hk]
    rfl

/-- The refusal of a kind that a COMPLETION answers (R32). -/
theorem refusal_completion (hk : f.isMgmtKind = false) (st : Status) :
    f.refusal st = { rt := f.rt, status := st, body := .completion 0 } :=
  if_neg (by rw [hk]; exact Bool.false_ne_true)

/-- Out of OFFLINE a request of a kind that a COMPLETION answers is refused when its own checks refuse it. -/
theorem exec_request_completed {rt : ReqTag} (h : s.Ready f rest) (hr : rowOf f = row) (ho : s.opState ≠ .offline)
    (hp : parseRequest f = .ok r) (hk : f.isMgmtKind = false) (hrt : f.rt = rt)
    (hd : ({ s with intake := rest } : State).decideRequest rt r = .refuse st) :
    exec row s = .next (s.answeredWith rest { rt := rt, status := st, body := .completion 0 }).endEvent := by
  subst hrt
  rw [exec_request_refused h hr ho hp hd, refusal_completion hk]

theorem decideFrame_offline (s : State) (hp : parseRequest f = .ok r) (ho : s.opState = .offline)
    (hf : f.offlineRefused = true) : s.decideFrame f = .refuse .offline := by
  unfold State.decideFrame
  rw [hp]
  exact if_pos ⟨ho, hf⟩

end

/-! ## The checks from step 5 on (R28) -/

section
variable {s : State} {rt : ReqTag} {ldn : Byte} {offset : Nat} {st : Status} {r : Route}

theorem decideRead_inUse (hl : s.live rt = true) (length : Nat) :
    s.decideRead rt ldn offset length = .refuse .tagInUse := if_pos hl

theorem decideRead_noRoute {length : Nat} (hl : s.live rt = false)
    (hr : s.routeFor ldn .forRead (some rt.requester) offset length = .error st) :
    s.decideRead rt ldn offset length = .refuse st := by
  unfold State.decideRead
  rw [hl, hr]
  rfl

theorem decideRead_busy {length : Nat} (hl : s.live rt = false)
    (hr : s.routeFor ldn .forRead (some rt.requester) offset length = .ok r) (hf : s.freePlace = none) :
    s.decideRead rt ldn offset length = .refuse .busy := by
  unfold State.decideRead
  rw [hl, hr, hf]
  rfl

theorem decideRead_accept {length : Nat} {i : Fin 16} (hl : s.live rt = false)
    (hr : s.routeFor ldn .forRead (some rt.requester) offset length = .ok r) (hf : s.freePlace = some i) :
    s.decideRead rt ldn offset length = .accept (s.createEntry i (.trunk rt) r offset length) := by
  unfold State.decideRead
  rw [hl, hr, hf]
  rfl

theorem decideWrite_noRoute {count : Nat} (hr : s.routeFor ldn .forWrite (some rt.requester) offset count = .error st)
    (body : OpBody) : s.decideWrite rt body ldn offset count = .refuse st := by
  unfold State.decideWrite
  rw [hr]

theorem decideWrite_busy {count : Nat} (hr : s.routeFor ldn .forWrite (some rt.requester) offset count = .ok r)
    (hq : 16 ≤ (s.branch r.branch).queue.length) (body : OpBody) :
    s.decideWrite rt body ldn offset count = .refuse .busy := by
  unfold State.decideWrite
  rw [hr]
  exact if_pos hq

theorem decideWrite_accept {count : Nat} (hr : s.routeFor ldn .forWrite (some rt.requester) offset count = .ok r)
    (hq : (s.branch r.branch).queue.length < 16) (body : OpBody) :
    s.decideWrite rt body ldn offset count =
      .accept (s.modBranch r.branch fun br => { br with queue := br.queue ++ [writeOperation body r offset] }) := by
  unfold State.decideWrite
  rw [hr]
  exact if_neg (Nat.not_le.2 hq)

theorem decideConfirmed_inUse (hl : s.live rt = true) (data : List Byte) :
    s.decideConfirmed rt ldn offset data = .refuse .tagInUse := if_pos hl

theorem decideConfirmed_free (hl : s.live rt = false) (data : List Byte) :
    s.decideConfirmed rt ldn offset data = s.decideWrite rt (.confirmed rt data) ldn offset data.length :=
  if_neg (by rw [hl]; exact Bool.false_ne_true)

section
variable {stamp : Stamp} {group : Byte} {data : List Byte} {member : Option (Fin 7 × Byte)}

theorem decideTimedWrite_inUse (hl : s.live rt = true) :
    s.decideTimedWrite rt stamp group ldn offset data = .refuse .tagInUse := if_pos hl

theorem decideTimedWrite_noRoute (hl : s.live rt = false)
    (hr : s.routeFor ldn .forWrite (some rt.requester) offset data.length = .error st) :
    s.decideTimedWrite rt stamp group ldn offset data = .refuse st := by
  unfold State.decideTimedWrite
  rw [hl, hr]
  rfl

theorem decideTimedWrite_badStamp (hl : s.live rt = false)
    (hr : s.routeFor ldn .forWrite (some rt.requester) offset data.length = .ok r)
    (hw : inWindow s.stamp s.lateWindow stamp = false) :
    s.decideTimedWrite rt stamp group ldn offset data = .refuse .badStamp := by
  unfold State.decideTimedWrite
  rw [hl, hr, hw]
  rfl

theorem decideTimedWrite_badGroup (hl : s.live rt = false)
    (hr : s.routeFor ldn .forWrite (some rt.requester) offset data.length = .ok r)
    (hw : inWindow s.stamp s.lateWindow stamp = true) (hj : s.joinGroup group = none) :
    s.decideTimedWrite rt stamp group ldn offset data = .refuse .badGroup := by
  unfold State.decideTimedWrite
  rw [hl, hr, hw, hj]
  rfl

theorem decideTimedWrite_busy (hl : s.live rt = false)
    (hr : s.routeFor ldn .forWrite (some rt.requester) offset data.length = .ok r)
    (hw : inWindow s.stamp s.lateWindow stamp = true) (hj : s.joinGroup group = some member)
    (hq : 32 ≤ s.releaseQueue.length) : s.decideTimedWrite rt stamp group ldn offset data = .refuse .busy := by
  unfold State.decideTimedWrite
  rw [hl, hr, hw, hj]
  exact if_pos (decide_eq_true hq)

theorem decideTimedWrite_accept (hl : s.live rt = false)
    (hr : s.routeFor ldn .forWrite (some rt.requester) offset data.length = .ok r)
    (hw : inWindow s.stamp s.lateWindow stamp = true) (hj : s.joinGroup group = some member)
    (hq : s.releaseQueue.length < 32) :
    s.decideTimedWrite rt stamp group ldn offset data =
      .accept ((s.addMember member).insertEntry (newEntry rt stamp (.timedWrite member r offset data))) := by
  unfold State.decideTimedWrite
  rw [hl, hr, hw, hj]
  exact if_neg (mt of_decide_eq_true (Nat.not_le.2 hq))

end

section
variable {stamp : Stamp} {lines : BitVec 4} {action : LatchAction} {width : BitVec 16}

theorem decideTimedLatch_inUse (hl : s.live rt = true) :
    s.decideTimedLatch rt stamp lines action width = .refuse .tagInUse := if_pos hl

theorem decideTimedLatch_badStamp (hl : s.live rt = false) (hw : inWindow s.stamp s.lateWindow stamp = false) :
    s.decideTimedLatch rt stamp lines action width = .refuse .badStamp := by
  unfold State.decideTimedLatch
  rw [hl, hw]
  rfl

theorem decideTimedLatch_busy (hl : s.live rt = false) (hw : inWindow s.stamp s.lateWindow stamp = true)
    (hq : 32 ≤ s.releaseQueue.length) : s.decideTimedLatch rt stamp lines action width = .refuse .busy := by
  unfold State.decideTimedLatch
  rw [hl, hw]
  exact if_pos (decide_eq_true hq)

theorem decideTimedLatch_accept (hl : s.live rt = false) (hw : inWindow s.stamp s.lateWindow stamp = true)
    (hq : s.releaseQueue.length < 32) :
    s.decideTimedLatch rt stamp lines action width =
      .accept (s.insertEntry (newEntry rt stamp (.timedLatch lines action width))) := by
  unfold State.decideTimedLatch
  rw [hl, hw]
  exact if_neg (mt of_decide_eq_true (Nat.not_le.2 hq))

end

theorem inWindow_eq_false {counter : Stamp} {lateWindow : BitVec 16} {stamp : Stamp}
    (h : ¬ (-(lateWindow.toNat : Int) ≤ (stamp - counter).toInt ∧ (stamp - counter).toInt ≤ 2 ^ 30)) :
    inWindow counter lateWindow stamp = false := decide_eq_false h

theorem inWindow_eq_true {counter : Stamp} {lateWindow : BitVec 16} {stamp : Stamp}
    (h : -(lateWindow.toNat : Int) ≤ (stamp - counter).toInt ∧ (stamp - counter).toInt ≤ 2 ^ 30) :
    inWindow counter lateWindow stamp = true := decide_eq_true h

end

/-! ## Groups and free places -/

section
variable (s : State) {group : Byte} {g : Fin 7}

theorem joinGroup_zero : s.joinGroup 0 = some none := rfl

theorem joinGroup_named (h : group.toNat = g.val + 1) : s.joinGroup group =
    if (s.group g).state = .collecting ∧ (s.group g).members < 32 then some (some (g, (s.group g).generation)) else none := by
  have h0 : group ≠ 0 := by
    rintro rfl
    exact absurd h (Nat.succ_ne_zero _).symm
  have hg : group.toNat - 1 = g.val := by omega
  unfold State.joinGroup
  rw [if_neg h0, hg, finOf_val]
  rfl

/-- A GROUP above 7, a group that does not collect and one with 32 members take no member in (R149). -/
theorem joinGroup_refused (h0 : group ≠ 0) (h : ∀ g : Fin 7, group.toNat = g.val + 1 →
    ¬ ((s.group g).state = .collecting ∧ (s.group g).members < 32)) : s.joinGroup group = none := by
  by_cases hg : group.toNat ≤ 7
  · have hpos : group.toNat ≠ 0 := fun hz => h0 (BitVec.eq_of_toNat_eq hz)
    have hnum : group.toNat = (⟨group.toNat - 1, by omega⟩ : Fin 7).val + 1 := by dsimp only; omega
    rw [joinGroup_named s hnum, if_neg (h _ hnum)]
  · unfold State.joinGroup
    rw [if_neg h0, finOf_eq_none_iff.2 (by omega)]

theorem joinGroup_admits (h : group = 0 ∨
    ∃ g : Fin 7, group.toNat = g.val + 1 ∧ (s.group g).state = .collecting ∧ (s.group g).members < 32) :
    ∃ member, s.joinGroup group = some member := by
  rcases h with rfl | ⟨g, hg, hopen⟩
  · exact ⟨_, joinGroup_zero s⟩
  · exact ⟨_, (joinGroup_named s hg).trans (if_pos hopen)⟩

theorem freePlace_none (h : ∀ i, s.entry i ≠ none) : s.freePlace = none :=
  List.find?_eq_none.2 fun i _ => by simpa using h i

theorem sixteen_getElem (j : Nat) (hj : j < sixteen.length) : sixteen[j] = ⟨j, hj⟩ := by
  have h : ∀ k : Fin 16, sixteen[k.val]'k.isLt = k := by decide
  exact h ⟨j, hj⟩

/-- The lowest free place (R42). -/
theorem freePlace_some {i : Fin 16} (hi : s.entry i = none) (hlow : ∀ j, j < i → s.entry j ≠ none) :
    s.freePlace = some i := by
  refine List.find?_eq_some_iff_getElem.2 ⟨by rw [hi]; rfl, i.val, i.isLt, sixteen_getElem i.val i.isLt, fun j hj => ?_⟩
  rw [sixteen_getElem j (hj.trans i.isLt)]
  simpa [Option.isSome_iff_ne_none] using hlow ⟨j, hj.trans i.isLt⟩ hj

end

end Sys2Proof.Machine
end

section
/-! SUPPORT. Unknown codes, and the requests that Intake accepts. -/

namespace Sys2Proof.Machine

/-! ## Unknown codes (R28, R39) -/

/-- The kind of table command that no code names answers BAD_FIELD and leaves the table (R9). -/
theorem tableCommand_unknown (x : List RouteEntry) {command : Byte} (h : command ∉ ([1, 2, 3, 4, 5, 6] : List Byte))
    (operand : List Byte) : tableCommand x command operand = ⟨x, .badField, []⟩ := by
  have hn := toNat_not_mem h
  unfold tableCommand
  generalize command.toNat = n at hn
  split
  case h_7 => rfl
  all_goals exact absurd (by decide) hn

theorem tableRow_unknown {command : Byte} (h : command ∉ ([1, 2, 3, 4, 5, 6] : List Byte)) :
    tableRow command.toNat = .tableUnknownCommand := by
  have hn := toNat_not_mem h
  unfold tableRow
  generalize command.toNat = n at hn
  split
  case h_7 => rfl
  all_goals exact absurd (by decide) hn

theorem tableBodyLength_unknown {command : Byte} (h : command ∉ ([1, 2, 3, 4, 5, 6] : List Byte)) :
    tableBodyLength command.toNat = none := by
  have hn := toNat_not_mem h
  unfold tableBodyLength
  generalize command.toNat = n at hn
  split
  case h_7 => rfl
  all_goals exact absurd (by decide) hn

/-- Settles O8: an unknown KIND fails step 2, and an unknown COMMAND changes no table. -/
theorem unknownCodesAnswered : Obligations.UnknownCodesAnswered := by
  constructor
  · intro s f rest h hk
    have hrec : f.refusal .badKind = { rt := f.rt, status := .badKind, body := .completion 0 } := by
      have hm : f.kind ∉ ([0x21, 0x22, 0x23] : List Byte) := fun hm => hk (List.mem_of_mem_drop (i := 6) hm)
      rw [refusal_eq, if_neg hm]
    rw [exec_refused h (rowOf_unknown hk) (decideFrame_error _ f _ (parseRequest_unknown hk)), hrec]
  · intro s rest reqtag command operand h ho hc
    refine exec_request_answered h (tableRow_unknown hc) ho
      (parse_tableFrame_unknown reqtag command operand (tableBodyLength_unknown hc)) ?_
    unfold State.decideRequest State.decideTable
    dsimp only
    rw [tableCommand_unknown _ hc]
    rfl

/-! ## Accepted requests -/

/-- Settles O11: the READ passes its checks, and its split entry is created in the lowest free place. -/
theorem readAccepted : Obligations.ReadAccepted := by
  intro s rest reqtag ldn offset length r i h ho h1 h512 hl hr hi hlow
  exact exec_request_accepted h rfl ho (parse_readFrame reqtag ldn offset length h1 h512)
    (decideRead_accept (s := { s with intake := rest }) hl hr (freePlace_some { s with intake := rest } hi hlow))

/-- Settles O12: a WRITE and a WRITE-CONFIRMED that pass their checks enter the Issue Queue of their branch. -/
theorem writesAccepted : Obligations.WritesAccepted := by
  intro s rest reqtag ldn offset data r hd ho hr hq
  refine ⟨fun h => ?_, fun h hl => ?_⟩
  · exact exec_request_accepted h rfl ho (parse_writeBody .write ldn offset data hd)
      (decideWrite_accept (s := { s with intake := rest }) hr hq _)
  · exact exec_request_accepted h rfl ho (parse_writeBody .writeConfirmed ldn offset data hd)
      ((decideConfirmed_free (s := { s with intake := rest }) hl data).trans
        (decideWrite_accept (s := { s with intake := rest }) hr hq _))

theorem State.AtHead.awake {s : State} {f : Frame} {rest : List Frame} (h : s.AtHead f rest) : s.opState ≠ .quiet := by
  rcases h.2.1 with ho | ho | ho <;> rw [ho] <;> decide

theorem insertEntry_awake (s : State) (h : s.opState ≠ .quiet) (e : ReleaseEntry) :
    s.insertEntry e = { s with releaseQueue := s.inserted e } :=
  markDue_awake _ h

/-- A new member is counted, and its entry goes to its place (R36). -/
theorem insertEntry_member (s : State) (h : s.opState ≠ .quiet) (g : Fin 7) (generation : Byte) (e : ReleaseEntry) :
    (s.addMember (some (g, generation))).insertEntry e =
      ({ s with releaseQueue := s.inserted e } : State).modGroup g fun x => { x with members := x.members + 1 } :=
  insertEntry_awake (s.modGroup g fun x => { x with members := x.members + 1 }) h e

theorem parse_timedWriteFrame (reqtag : Byte) (stamp : Stamp) (group ldn : Byte) (offset : BitVec 16) (data : List Byte)
    (h : data.length ≤ 64) :
    parseRequest { kind := 0x14, reqtag := reqtag, body := bytes32 stamp ++ group :: writeBody ldn offset data } =
      .ok (.timedWrite stamp group ldn offset.toNat data) := by
  have hp := parse_writeBody (.timedWrite stamp group) ldn offset data h
  rw [parseRequest_timedWrite rfl]
  simp only [bytes32, List.cons_append, List.nil_append, parseTimedWrite, be32_bytes32, hp]

section
variable {s : State} {rest : List Frame} {reqtag group ldn : Byte} {stamp : Stamp} {offset : BitVec 16} {data : List Byte}

theorem exec_timedWrite_refused {st : Status}
    (h : s.Ready { kind := 0x14, reqtag := reqtag, body := bytes32 stamp ++ group :: writeBody ldn offset data } rest)
    (ho : s.opState ≠ .offline) (hd : data.length ≤ 64)
    (hdec : ({ s with intake := rest } : State).decideTimedWrite (ReqTag.ofByte reqtag) stamp group ldn offset.toNat data =
      .refuse st) :
    exec .timedWrite s =
      .next (s.answeredWith rest { rt := ReqTag.ofByte reqtag, status := st, body := .completion 0 }).endEvent :=
  exec_request_completed h rfl ho (parse_timedWriteFrame reqtag stamp group ldn offset data hd) rfl rfl hdec

theorem exec_timedWrite_accepted {t : State}
    (h : s.AtHead { kind := 0x14, reqtag := reqtag, body := bytes32 stamp ++ group :: writeBody ldn offset data } rest)
    (ho : s.opState ≠ .offline) (hd : data.length ≤ 64)
    (hdec : ({ s with intake := rest } : State).decideTimedWrite (ReqTag.ofByte reqtag) stamp group ldn offset.toNat data =
      .accept t) :
    exec .timedWrite s = .next t.endEvent :=
  exec_request_accepted h rfl ho (parse_timedWriteFrame reqtag stamp group ldn offset data hd) hdec

end

/-- Settles O13: the checks of a TIMED WRITE in their order, and the entry that an accepted one becomes. -/
theorem timedWriteAccepted : Obligations.TimedWriteAccepted := by
  intro s rest reqtag group ldn stamp offset data r hd ho hl hr h inside refused
  have hawake := h.awake
  refine ⟨fun hout hroom => ?_, fun hin hq h0 => ?_, fun hin hg hroom => ?_, fun hin h0 hq hroom => ?_,
    fun g hin hg => ⟨fun hc hm hq => ?_, fun hc hm hq hroom => ?_, fun hclosed hroom => ?_⟩⟩
  · exact exec_timedWrite_refused ⟨h, hroom⟩ ho hd
      (decideTimedWrite_badStamp (s := { s with intake := rest }) hl hr (inWindow_eq_false hout))
  · subst h0
    rw [exec_timedWrite_accepted h ho hd
      (decideTimedWrite_accept (s := { s with intake := rest }) hl hr (inWindow_eq_true hin) (joinGroup_zero s) hq)]
    rw [State.addMember, insertEntry_awake { s with intake := rest } hawake]
    rfl
  · have hj : s.joinGroup group = none := by
      refine joinGroup_refused s ?_ fun g hg' => ?_
      · rintro rfl
        exact absurd hg (by decide)
      · omega
    exact exec_timedWrite_refused ⟨h, hroom⟩ ho hd
      (decideTimedWrite_badGroup (s := { s with intake := rest }) hl hr (inWindow_eq_true hin) hj)
  · subst h0
    exact exec_timedWrite_refused ⟨h, hroom⟩ ho hd
      (decideTimedWrite_busy (s := { s with intake := rest }) hl hr (inWindow_eq_true hin) (joinGroup_zero s) hq)
  · have hj := (joinGroup_named s hg).trans (if_pos ⟨hc, hm⟩)
    rw [exec_timedWrite_accepted h ho hd
      (decideTimedWrite_accept (s := { s with intake := rest }) hl hr (inWindow_eq_true hin) hj hq)]
    rw [insertEntry_member { s with intake := rest } hawake]
    rfl
  · have hj := (joinGroup_named s hg).trans (if_pos ⟨hc, hm⟩)
    exact exec_timedWrite_refused ⟨h, hroom⟩ ho hd
      (decideTimedWrite_busy (s := { s with intake := rest }) hl hr (inWindow_eq_true hin) hj hq)
  · have hj : s.joinGroup group = none := by
      refine (joinGroup_named s hg).trans (if_neg ?_)
      rintro ⟨hc, hm⟩
      rcases hclosed with hclosed | hclosed
      · exact hclosed hc
      · omega
    exact exec_timedWrite_refused ⟨h, hroom⟩ ho hd
      (decideTimedWrite_badGroup (s := { s with intake := rest }) hl hr (inWindow_eq_true hin) hj)

end Sys2Proof.Machine
end

section
/-! SUPPORT. The refusals in the order of the checks, and the TIMED LATCH. -/

namespace Sys2Proof.Machine

/-! ## Refused requests -/

section
variable {s : State} {rest : List Frame} {reqtag ldn : Byte} {offset : BitVec 16} {st : Status}

theorem exec_read_refused {length : BitVec 16} (h : s.Ready (readFrame reqtag ldn offset length) rest)
    (ho : s.opState ≠ .offline) (h1 : 1 ≤ length.toNat) (h512 : length.toNat ≤ 512)
    (hdec : ({ s with intake := rest } : State).decideRead (ReqTag.ofByte reqtag) ldn offset.toNat length.toNat = .refuse st) :
    exec .read s = .next (s.answeredWith rest { rt := ReqTag.ofByte reqtag, status := st, body := .completion 0 }).endEvent :=
  exec_request_completed h rfl ho (parse_readFrame reqtag ldn offset length h1 h512) rfl rfl hdec

theorem exec_write_refused {data : List Byte}
    (h : s.Ready { kind := 0x12, reqtag := reqtag, body := writeBody ldn offset data } rest) (ho : s.opState ≠ .offline)
    (hd : data.length ≤ 64)
    (hdec : ({ s with intake := rest } : State).decideWrite (ReqTag.ofByte reqtag) (.posted data) ldn offset.toNat
      data.length = .refuse st) :
    exec .write s = .next (s.answeredWith rest { rt := ReqTag.ofByte reqtag, status := st, body := .completion 0 }).endEvent :=
  exec_request_completed h rfl ho (parse_writeBody .write ldn offset data hd) rfl rfl hdec

theorem exec_confirmed_refused {data : List Byte}
    (h : s.Ready { kind := 0x13, reqtag := reqtag, body := writeBody ldn offset data } rest) (ho : s.opState ≠ .offline)
    (hd : data.length ≤ 64)
    (hdec : ({ s with intake := rest } : State).decideConfirmed (ReqTag.ofByte reqtag) ldn offset.toNat data = .refuse st) :
    exec .writeConfirmed s =
      .next (s.answeredWith rest { rt := ReqTag.ofByte reqtag, status := st, body := .completion 0 }).endEvent :=
  exec_request_completed h rfl ho (parse_writeBody .writeConfirmed ldn offset data hd) rfl rfl hdec

section
variable {lines action : Byte} {stamp : Stamp} {pulseWidth : BitVec 16} {a : LatchAction}

theorem exec_latch_refused (h : s.Ready (latchFrame reqtag stamp lines action pulseWidth) rest) (ho : s.opState ≠ .offline)
    (ha : LatchAction.ofCode action.toNat = some a) (hp : a = .pulse → pulseWidth ≠ 0)
    (hdec : ({ s with intake := rest } : State).decideTimedLatch (ReqTag.ofByte reqtag) stamp (lines.extractLsb' 0 4) a
      pulseWidth = .refuse st) :
    exec .timedLatch s =
      .next (s.answeredWith rest { rt := ReqTag.ofByte reqtag, status := st, body := .completion 0 }).endEvent :=
  exec_request_completed h rfl ho (parse_latchFrame reqtag stamp lines action pulseWidth a ha hp) rfl rfl hdec

theorem exec_latch_accepted {t : State} (h : s.AtHead (latchFrame reqtag stamp lines action pulseWidth) rest)
    (ho : s.opState ≠ .offline) (ha : LatchAction.ofCode action.toNat = some a) (hp : a = .pulse → pulseWidth ≠ 0)
    (hdec : ({ s with intake := rest } : State).decideTimedLatch (ReqTag.ofByte reqtag) stamp (lines.extractLsb' 0 4) a
      pulseWidth = .accept t) : exec .timedLatch s = .next t.endEvent :=
  exec_request_accepted h rfl ho (parse_latchFrame reqtag stamp lines action pulseWidth a ha hp) hdec

/-- A TIMED LATCH with a legal ACTION names an action of its own, PULSE only by code 4 (R25). -/
theorem ofCode_action (ha : action ∈ ([1, 2, 3, 4] : List Byte)) (hp : action = 4 → pulseWidth ≠ 0) :
    ∃ a, LatchAction.ofCode action.toNat = some a ∧ (a = .pulse → pulseWidth ≠ 0) := by
  simp only [List.mem_cons, List.not_mem_nil, or_false] at ha
  rcases ha with rfl | rfl | rfl | rfl
  · exact ⟨.set, rfl, nofun⟩
  · exact ⟨.clear, rfl, nofun⟩
  · exact ⟨.toggle, rfl, nofun⟩
  · exact ⟨.pulse, rfl, fun _ => hp rfl⟩

end

end

/-- The checks of form: sizes, then the fields of a TIMED LATCH, then OFFLINE. -/
theorem form_refused (s : State) (f : Frame) (rest : List Frame) (h : s.Ready f rest) {st : Status}
    (hd : ({ s with intake := rest } : State).decideFrame f = .refuse st) :
    exec (rowOf f) s = .next (s.answeredWith rest
      { rt := f.rt, status := st,
        body := if f.kind ∈ ([0x21, 0x22, 0x23] : List Byte) then .mgmt 0 [] false else .completion 0 }).endEvent := by
  rw [← refusal_eq]
  exact exec_refused h rfl hd

theorem offlineRefused_of_mem {f : Frame} (hk : f.kind ∈ ([0x11, 0x12, 0x13, 0x14, 0x15, 0x16, 0x23] : List Byte)) :
    f.offlineRefused = true := by
  unfold Frame.offlineRefused
  generalize f.kind = k at hk
  revert k
  decide

/-- Settles O10: each refusal is the first of Intake's checks that fails. -/
theorem refusalsInOrder : Obligations.RefusalsInOrder := by
  refine ⟨?_, ?_, ?_, ?_⟩
  · intro s f rest h refused faulty
    refine ⟨fun hs => ?_, fun hs hf => ?_, fun hs hf ho hk => ?_⟩
    · exact form_refused s f rest h (decideFrame_error _ f _ (parseRequest_sizesFail hs))
    · exact form_refused s f rest h (decideFrame_error _ f _ (parseRequest_faulty hs hf.1 hf.2))
    · have hsub : ([0x11, 0x12, 0x13, 0x14, 0x15, 0x16, 0x23] : List Byte) ⊆ knownKinds := by decide
      obtain ⟨r, hp⟩ := parseRequest_ok (hsub hk) hs hf
      exact form_refused s f rest h (decideFrame_offline { s with intake := rest } hp ho (offlineRefused_of_mem hk))
  · intro s rest reqtag ldn offset length h ho h1 h512 rt refused
    refine ⟨fun hl => ?_, fun st hl hr => ?_, fun r hl hr he => ?_⟩
    · exact exec_read_refused h ho h1 h512 (decideRead_inUse (s := { s with intake := rest }) hl _)
    · exact exec_read_refused h ho h1 h512 (decideRead_noRoute (s := { s with intake := rest }) hl hr)
    · exact exec_read_refused h ho h1 h512
        (decideRead_busy (s := { s with intake := rest }) hl hr (freePlace_none { s with intake := rest } he))
  · intro s rest reqtag ldn offset data hd ho rt refused route full
    refine ⟨fun h => ⟨fun st hr => ?_, ?_⟩, fun h => ⟨fun hl => ?_, fun st hl hr => ?_, ?_⟩, ?_⟩
    · exact exec_write_refused h ho hd (decideWrite_noRoute (s := { s with intake := rest }) hr _)
    · rintro ⟨r, hr, hq⟩
      exact exec_write_refused h ho hd (decideWrite_busy (s := { s with intake := rest }) hr hq _)
    · exact exec_confirmed_refused h ho hd (decideConfirmed_inUse (s := { s with intake := rest }) hl data)
    · exact exec_confirmed_refused h ho hd ((decideConfirmed_free (s := { s with intake := rest }) hl data).trans
        (decideWrite_noRoute (s := { s with intake := rest }) hr _))
    · rintro hl ⟨r, hr, hq⟩
      exact exec_confirmed_refused h ho hd ((decideConfirmed_free (s := { s with intake := rest }) hl data).trans
        (decideWrite_busy (s := { s with intake := rest }) hr hq _))
    · intro stamp group h inside joins
      refine ⟨fun hl => ?_, fun st hl hr => ?_, fun r hl hr => ⟨fun hw => ?_, fun hw hj => ?_, fun hw hj hq => ?_⟩⟩
      · exact exec_timedWrite_refused h ho hd (decideTimedWrite_inUse (s := { s with intake := rest }) hl)
      · exact exec_timedWrite_refused h ho hd (decideTimedWrite_noRoute (s := { s with intake := rest }) hl hr)
      · exact exec_timedWrite_refused h ho hd
          (decideTimedWrite_badStamp (s := { s with intake := rest }) hl hr (inWindow_eq_false hw))
      · have hnone : s.joinGroup group = none :=
          joinGroup_refused s (fun h0 => hj (.inl h0)) fun g hg hopen => hj (.inr ⟨g, hg, hopen⟩)
        exact exec_timedWrite_refused h ho hd
          (decideTimedWrite_badGroup (s := { s with intake := rest }) hl hr (inWindow_eq_true hw) hnone)
      · obtain ⟨member, hsome⟩ := joinGroup_admits s hj
        exact exec_timedWrite_refused h ho hd
          (decideTimedWrite_busy (s := { s with intake := rest }) hl hr (inWindow_eq_true hw) hsome hq)
  · intro s rest reqtag lines action stamp pulseWidth h ho hact hpulse rt refused inside
    obtain ⟨a, ha, hp⟩ := ofCode_action hact hpulse
    refine ⟨fun hl => ?_, fun hl hw => ?_, fun hl hw hq => ?_⟩
    · exact exec_latch_refused h ho ha hp (decideTimedLatch_inUse (s := { s with intake := rest }) hl)
    · exact exec_latch_refused h ho ha hp (decideTimedLatch_badStamp (s := { s with intake := rest }) hl (inWindow_eq_false hw))
    · exact exec_latch_refused h ho ha hp (decideTimedLatch_busy (s := { s with intake := rest }) hl (inWindow_eq_true hw) hq)

/-! ## TIMED LATCH -/

/-- A latch that selects no line changes none (R155). -/
theorem latch_none (s : State) (action : LatchAction) (width : Nat) : s.latch 0 action width = s := by
  have h : (Vector.ofFn fun i : Fin 4 =>
      if (0 : BitVec 4).getLsbD i.val then (s.line i).act action width else s.line i) = s.lines := by
    ext i hi
    simp [State.line]
  exact congrArg (fun x => { s with lines := x }) h

theorem judgeHead_latch {s : State} {e : ReleaseEntry} {rest : List ReleaseEntry} {lines : BitVec 4} {a : LatchAction}
    {pulseWidth : BitVec 16} (hq : s.releaseQueue = e :: rest) (hb : e.body = .timedLatch lines a pulseWidth)
    (hdue : e.due = true) (ho : s.opState ≠ .offline) (hroom : s.responseQueue.length < 16) :
    s.judgeHead = some ((({ s with releaseQueue := rest } : State).pushRecord (completion e.rt .ok 0)).latch lines a
      pulseWidth.toNat) := by
  unfold State.judgeHead
  rw [hq]
  dsimp only
  rw [if_neg ho, if_pos hdue, hb]
  exact if_pos ((recordRoom_iff s).2 hroom)

theorem headRow_latch {s : State} {e : ReleaseEntry} {rest : List ReleaseEntry} {lines : BitVec 4} {a : LatchAction}
    {pulseWidth : BitVec 16} (hq : s.releaseQueue = e :: rest) (hb : e.body = .timedLatch lines a pulseWidth)
    (hdue : e.due = true) (ho : s.opState ≠ .offline) : s.headRow = some .releaseTimedLatch := by
  unfold State.headRow
  rw [hq]
  dsimp only
  rw [if_neg ho, if_pos hdue, hb]

theorem ofCode_faulty {action : Byte} {pulseWidth : BitVec 16}
    (h : action ∉ ([1, 2, 3, 4] : List Byte) ∨ (action = 4 ∧ pulseWidth = 0)) :
    LatchAction.ofCode action.toNat = none ∨ (LatchAction.ofCode action.toNat = some .pulse ∧ pulseWidth = 0) := by
  rcases h with h | ⟨rfl, h⟩
  · exact .inl ((ofCode_eq_none_iff _).2 (toNat_not_mem h))
  · exact .inr ⟨rfl, h⟩

/-- Settles O14: the checks of a TIMED LATCH, its entry, and the release of one that selects no line. -/
theorem timedLatchAccepted : Obligations.TimedLatchAccepted := by
  refine ⟨?_, fun s rest reqtag lines action stamp pulseWidth h hf => ?_, fun s e rest a pulseWidth hq hb hdue ho hroom => ?_⟩
  · intro s rest reqtag lines action stamp pulseWidth a h ho ha hp hl inside refused
    refine ⟨fun hw hq => ?_, fun hw hroom => ?_, fun hw hq hroom => ?_⟩
    · rw [exec_latch_accepted h ho ha hp (decideTimedLatch_accept (s := { s with intake := rest }) hl (inWindow_eq_true hw) hq)]
      rw [insertEntry_awake { s with intake := rest } h.awake]
      rfl
    · exact exec_latch_refused ⟨h, hroom⟩ ho ha hp
        (decideTimedLatch_badStamp (s := { s with intake := rest }) hl (inWindow_eq_false hw))
    · exact exec_latch_refused ⟨h, hroom⟩ ho ha hp
        (decideTimedLatch_busy (s := { s with intake := rest }) hl (inWindow_eq_true hw) hq)
  · have hp := parse_latchFrame_bad reqtag stamp lines action pulseWidth (ofCode_faulty hf)
    have hx := exec_refused h (row := .timedLatch) rfl (decideFrame_error _ _ _ hp)
    rwa [refusal_completion rfl] at hx
  · have hj := judgeHead_latch hq hb hdue ho hroom
    rw [latch_none] at hj
    have hr : s.releaseRow .releaseTimedLatch = (State.judge { s with
        releaseQueue := rest
        responseQueue := s.responseQueue ++ [{ rt := e.rt, status := .ok, body := .completion 0 }] }).endEvent := by
      unfold State.releaseRow
      rw [if_pos (headRow_latch hq hb hdue ho), hj]
      rfl
    exact congrArg Host.Outcome.next hr

end Sys2Proof.Machine
end

section
/-! SUPPORT. The frames whose outcome needs a record, and the head frame that waits. -/

namespace Sys2Proof.Machine

/-! ## Frames whose outcome needs a record (R33) -/

/-- The outcome of a frame needs a record: the frame is answered or refused. -/
def Decision.NeedsRecord (d : Decision) : Prop := ∀ t, d ≠ .accept t

theorem needsRecord_refuse (st : Status) : (Decision.refuse st).NeedsRecord := fun _ => nofun

theorem needsRecord_answer (t : State) : (Decision.answer t).NeedsRecord := fun _ => nofun

section
variable {s : State} {rt : ReqTag} {ldn : Byte} {offset : Nat}

theorem decideRead_needsRecord {length : Nat}
    (h : s.live rt = true ∨ (∃ st, s.routeFor ldn .forRead (some rt.requester) offset length = .error st) ∨
      s.freePlace = none) : (s.decideRead rt ldn offset length).NeedsRecord := by
  unfold State.decideRead
  split
  · exact needsRecord_refuse _
  · split
    · exact needsRecord_refuse _
    · split
      · exact needsRecord_refuse _
      · simp_all

theorem decideWrite_needsRecord {count : Nat} {body : OpBody}
    (h : (∃ st, s.routeFor ldn .forWrite (some rt.requester) offset count = .error st) ∨
      ∃ r, s.routeFor ldn .forWrite (some rt.requester) offset count = .ok r ∧ 16 ≤ (s.branch r.branch).queue.length) :
    (s.decideWrite rt body ldn offset count).NeedsRecord := by
  rcases h with ⟨st, hr⟩ | ⟨r, hr, hq⟩
  · rw [decideWrite_noRoute hr]
    exact needsRecord_refuse _
  · rw [decideWrite_busy hr hq]
    exact needsRecord_refuse _

theorem decideConfirmed_needsRecord {data : List Byte}
    (h : s.live rt = true ∨ (∃ st, s.routeFor ldn .forWrite (some rt.requester) offset data.length = .error st) ∨
      ∃ r, s.routeFor ldn .forWrite (some rt.requester) offset data.length = .ok r ∧
        16 ≤ (s.branch r.branch).queue.length) :
    (s.decideConfirmed rt ldn offset data).NeedsRecord := by
  cases hl : s.live rt with
  | true =>
    rw [decideConfirmed_inUse hl]
    exact needsRecord_refuse _
  | false =>
    rw [decideConfirmed_free hl]
    exact decideWrite_needsRecord (h.resolve_left (by rw [hl]; exact Bool.false_ne_true))

theorem decideTimedWrite_needsRecord {stamp : Stamp} {group : Byte} {data : List Byte}
    (h : s.live rt = true ∨ (∃ st, s.routeFor ldn .forWrite (some rt.requester) offset data.length = .error st) ∨
      inWindow s.stamp s.lateWindow stamp = false ∨ s.joinGroup group = none ∨ 32 ≤ s.releaseQueue.length) :
    (s.decideTimedWrite rt stamp group ldn offset data).NeedsRecord := by
  cases hl : s.live rt with
  | true =>
    rw [decideTimedWrite_inUse hl]
    exact needsRecord_refuse _
  | false =>
    have h := h.resolve_left (by rw [hl]; exact Bool.false_ne_true)
    cases hr : s.routeFor ldn .forWrite (some rt.requester) offset data.length with
    | error st =>
      rw [decideTimedWrite_noRoute hl hr]
      exact needsRecord_refuse _
    | ok r =>
      cases hw : inWindow s.stamp s.lateWindow stamp with
      | false =>
        rw [decideTimedWrite_badStamp hl hr hw]
        exact needsRecord_refuse _
      | true =>
        cases hj : s.joinGroup group with
        | none =>
          rw [decideTimedWrite_badGroup hl hr hw hj]
          exact needsRecord_refuse _
        | some member =>
          have hq : 32 ≤ s.releaseQueue.length := by simpa [hr, hw, hj] using h
          rw [decideTimedWrite_busy hl hr hw hj hq]
          exact needsRecord_refuse _

theorem decideTimedLatch_needsRecord {stamp : Stamp} {lines : BitVec 4} {action : LatchAction} {width : BitVec 16}
    (h : s.live rt = true ∨ inWindow s.stamp s.lateWindow stamp = false ∨ 32 ≤ s.releaseQueue.length) :
    (s.decideTimedLatch rt stamp lines action width).NeedsRecord := by
  cases hl : s.live rt with
  | true =>
    rw [decideTimedLatch_inUse hl]
    exact needsRecord_refuse _
  | false =>
    cases hw : inWindow s.stamp s.lateWindow stamp with
    | false =>
      rw [decideTimedLatch_badStamp hl hw]
      exact needsRecord_refuse _
    | true =>
      have hq : 32 ≤ s.releaseQueue.length := by simpa [hl, hw] using h
      rw [decideTimedLatch_busy hl hw hq]
      exact needsRecord_refuse _

theorem decideRequest_immediate (s : State) {r : Request} (h : r.Immediate) : (s.decideRequest rt r).NeedsRecord := by
  cases r with
  | cancel | mgmtRead | mgmtWrite | table => exact needsRecord_answer _
  | read | write | writeConfirmed | timedWrite | timedLatch => exact h.elim

/-- A frame refused OFFLINE, or one whose request needs a record. -/
theorem decideFrame_needsRecord {f : Frame} {r : Request} (hp : parseRequest f = .ok r)
    (h : (s.decideRequest f.rt r).NeedsRecord) : (s.decideFrame f).NeedsRecord := by
  unfold State.decideFrame
  rw [hp]
  dsimp only
  split
  · exact needsRecord_refuse _
  · exact h

end

theorem inWindow_outside {counter : Stamp} {lateWindow : BitVec 16} {stamp : Stamp}
    (h : (stamp - counter).toInt < -(lateWindow.toNat : Int) ∨ 2 ^ 30 < (stamp - counter).toInt) :
    inWindow counter lateWindow stamp = false :=
  inWindow_eq_false (by omega)

theorem offlineRefused_of_accepting {f : Frame} (hk : f.kind ∈ ([0x11, 0x12, 0x13, 0x14, 0x15] : List Byte)) :
    f.offlineRefused = true := by
  have hsub : ([0x11, 0x12, 0x13, 0x14, 0x15] : List Byte) ⊆ [0x11, 0x12, 0x13, 0x14, 0x15, 0x16, 0x23] := by decide
  exact offlineRefused_of_mem (hsub hk)

theorem form_needsRecord (s : State) {f : Frame} (h : f.kind ∉ ([0x11, 0x12, 0x13, 0x14, 0x15] : List Byte) ∨
    (∃ st, parseRequest f = .error st) ∨ s.opState = .offline) : (s.decideFrame f).NeedsRecord := by
  cases hp : parseRequest f with
  | error st =>
    rw [decideFrame_error s f st hp]
    exact needsRecord_refuse st
  | ok r =>
    by_cases hk : f.kind ∈ ([0x11, 0x12, 0x13, 0x14, 0x15] : List Byte)
    · have hparses : ¬ ∃ st, parseRequest f = .error st := by
        rintro ⟨st, he⟩
        cases he.symm.trans hp
      have ho : s.opState = .offline := (h.resolve_left (not_not_intro hk)).resolve_left hparses
      rw [decideFrame_offline s hp ho (offlineRefused_of_accepting hk)]
      exact needsRecord_refuse _
    · exact decideFrame_needsRecord hp (decideRequest_immediate s (parseRequest_immediate hk hp))

theorem takesFrames_eq_false {s : State} (h : s.opState = .quiet ∨ s.opState = .waking ∨ s.intakeStopped = true) :
    s.takesFrames = false := by
  unfold State.takesFrames
  rcases h with h | h | h <;> simp [h]

/-- Settles O9: a frame that needs a record waits for room, and no frame is taken while Intake takes none. -/
theorem framesWaitUntaken : Obligations.FramesWaitUntaken := by
  intro s f rest hi live noWrite queueFull outside
  have waits : 12 ≤ s.responseQueue.length → (({ s with intake := rest } : State).decideFrame f).NeedsRecord →
      exec (rowOf f) s = .next s := fun hfull hd => exec_waits hi hfull hd
  refine ⟨fun h => exec_untaken (takesFrames_eq_false h) f, fun hfull => ⟨fun h => ?_, fun ldn offset length hp h => ?_,
    fun ldn offset data hp h => ?_, fun ldn offset data hp h => ?_, fun stamp group ldn offset data hp h => ?_,
    fun stamp lines action width hp h => ?_⟩⟩ <;> apply waits hfull
  · exact form_needsRecord { s with intake := rest } h
  · exact decideFrame_needsRecord hp (decideRead_needsRecord (s := { s with intake := rest }) h)
  · exact decideFrame_needsRecord hp (decideWrite_needsRecord (s := { s with intake := rest }) h)
  · exact decideFrame_needsRecord hp (decideConfirmed_needsRecord (s := { s with intake := rest }) h)
  · refine decideFrame_needsRecord hp (decideTimedWrite_needsRecord (s := { s with intake := rest }) ?_)
    rcases h with h | h | h | ⟨h0, hg⟩ | h
    · exact .inl h
    · exact .inr (.inl h)
    · exact .inr (.inr (.inl (inWindow_outside h)))
    · refine .inr (.inr (.inr (.inl (joinGroup_refused s h0 fun g hn => ?_))))
      rintro ⟨hc, hm⟩
      rcases hg g hn with h | h
      · exact h hc
      · omega
    · exact .inr (.inr (.inr (.inr h)))
  · refine decideFrame_needsRecord hp (decideTimedLatch_needsRecord (s := { s with intake := rest }) ?_)
    exact h.imp_right (Or.imp_left inWindow_outside)

end Sys2Proof.Machine
end

section
/-! SUPPORT. What a CANCEL finds of its target, and its answer. -/

namespace Sys2Proof.Machine

/-! ## What a CANCEL finds (R38) -/

section
variable {s : State} {pair : ReqTag} {i : Fin 16} {e : SplitEntry}

theorem live_false_iff : s.live pair = false ↔ pair ∉ s.tagHolders := by
  unfold State.live
  rw [← Bool.not_eq_true, List.contains_iff_mem]

/-- A pair that no tag holder carries has no place. -/
theorem placeOf_none_of_dead (h : s.live pair = false) : s.placeOf pair = none := by
  refine List.find?_eq_none.2 fun i _ hi => live_false_iff.1 h ?_
  have htag : placeTag? (s.entry i) = some pair := eq_of_beq hi
  have hmem : s.entry i ∈ s.split.toList := Vector.mem_toList_iff.2 (Vector.getElem_mem i.isLt)
  unfold State.tagHolders
  exact List.mem_append_left _ (List.mem_append_left _ (List.mem_filterMap.2 ⟨_, hmem, htag⟩))

theorem find_none_of_dead (h : s.live pair = false) : (s.releaseQueue.find? fun e => e.rt == pair) = none := by
  refine List.find?_eq_none.2 fun x hx he => live_false_iff.1 h ?_
  have hrt : x.rt = pair := eq_of_beq he
  unfold State.tagHolders
  exact List.mem_append_left _ (List.mem_append_right _ (hrt ▸ List.mem_map_of_mem hx))

theorem isGathering_eq (he : s.entry i = some e) : s.isGathering i = decide (e.state = .gathering) := by
  unfold State.isGathering
  rw [he]

theorem cancelTarget_gathering (hp : s.placeOf pair = some i) (he : s.entry i = some e) (hg : e.state = .gathering) :
    s.cancelTarget pair = (.ok, s.abandon i .cancelled) := by
  unfold State.cancelTarget
  rw [hp]
  exact if_pos ((isGathering_eq he).trans (decide_eq_true hg))

theorem cancelTarget_late (hp : s.placeOf pair = some i) (he : s.entry i = some e) (hg : e.state ≠ .gathering) :
    s.cancelTarget pair = (.tooLate, s) := by
  unfold State.cancelTarget
  rw [hp]
  exact if_neg (by rw [isGathering_eq he, decide_eq_false hg]; exact Bool.false_ne_true)

theorem cancelTarget_queued {x : ReleaseEntry} (hp : s.placeOf pair = none)
    (hq : (s.releaseQueue.find? fun e => e.rt == pair) = some x) : s.cancelTarget pair = (.ok, s.cancelEntry x) := by
  unfold State.cancelTarget
  rw [hp]
  dsimp only
  rw [hq]

theorem cancelTarget_elsewhere (hp : s.placeOf pair = none) (hq : (s.releaseQueue.find? fun e => e.rt == pair) = none) :
    s.cancelTarget pair = if s.live pair then (.tooLate, s) else (.notFound, s) := by
  unfold State.cancelTarget
  rw [hp]
  dsimp only
  rw [hq]

end

/-- Among entries of which one alone carries a pair, that one is found, and the others stay. -/
theorem find_of_unique {before after : List ReleaseEntry} {e : ReleaseEntry} {pair : ReqTag} (he : e.rt = pair)
    (hu : ∀ x ∈ before ++ after, x.rt ≠ pair) :
    ((before ++ e :: after).find? fun x => x.rt == pair) = some e ∧
      ((before ++ e :: after).filter fun x => !(x.rt == e.rt)) = before ++ after := by
  constructor
  · refine List.find?_eq_some_iff_append.2 ⟨by simpa using he, before, after, rfl, fun x hx => ?_⟩
    simpa using hu x (List.mem_append_left _ hx)
  · have hkeep : ∀ l : List ReleaseEntry, (∀ x ∈ l, x.rt ≠ pair) → l.filter (fun x => !(x.rt == e.rt)) = l :=
      fun l hl => List.filter_eq_self.2 fun x hx => by simpa [he] using hl x hx
    rw [List.filter_append, List.filter_cons_of_neg (by simp), ← List.filter_append, hkeep _ hu]

/-- A member taken off a group that still collects, and is not complete, fires nothing (R151, R152). -/
theorem cancelMember_collecting (s : State) (g : Fin 7) (hc : (s.group g).state = .collecting)
    (hopen : (s.group g).done + (s.group g).failed < (s.group g).members) :
    s.cancelMember (some (g, (s.group g).generation)) = s.modGroup g fun x => { x with members := x.members - 1 } := by
  have hcounts : (s.group g).counts (s.group g).generation = true := by
    simp [Group.counts, hc, hopen]
  have hstate : ((s.modGroup g fun x => { x with members := x.members - 1 }).group g).state = .collecting := by
    simp [hc]
  unfold State.cancelMember
  dsimp only
  rw [if_pos hcounts]
  unfold State.fireIfComplete
  exact if_neg fun h => absurd (hstate.symm.trans h.1) (by decide)

/-- A CANCEL is answered with what its target's owner decides. -/
theorem exec_cancel_answered {s : State} {rest : List Frame} {reqtag target : Byte} (h : s.Ready (cancelFrame reqtag target) rest)
    (ho : s.opState ≠ .offline) {status status' : Status} {t u : State}
    (h1 : ({ s with intake := rest } : State).cancelTarget (cancelTargetOf reqtag target) = (status, u))
    (h2 : (s.answeredWith rest { rt := ReqTag.ofByte reqtag, status := status, body := .completion 0 }).cancelTarget
      (cancelTargetOf reqtag target) = (status', t)) : exec .cancel s = .next t.endEvent := by
  obtain rfl : (({ s with intake := rest } : State).cancelTarget (cancelTargetOf reqtag target)).1 = status := by rw [h1]
  refine exec_request_answered h rfl ho (parse_cancelFrame reqtag target) (congrArg Decision.answer ?_)
  exact congrArg Prod.snd h2

/-- Settles O18: what a CANCEL finds of its target, place by place. -/
theorem cancelOfWaitingWork : Obligations.CancelOfWaitingWork := by
  intro s rest reqtag target h ho rt pair
  refine ⟨fun hl => ?_, fun i e hp he hg => ?_, fun hl hp hq => ?_, fun before e after hp hq he hu => ?_⟩
  · have hc : ∀ t : State, t.live pair = false → t.cancelTarget pair = (.notFound, t) := fun t ht => by
      rw [cancelTarget_elsewhere (placeOf_none_of_dead ht) (find_none_of_dead ht), ht]
      rfl
    exact exec_cancel_answered h ho (hc { s with intake := rest } hl) (hc (s.answeredWith rest _) hl)
  · exact exec_cancel_answered h ho (cancelTarget_late (s := { s with intake := rest }) hp he hg)
      (cancelTarget_late (s := s.answeredWith rest _) hp he hg)
  · have hfind : (s.releaseQueue.find? fun e => e.rt == pair) = none :=
      List.find?_eq_none.2 fun x hx => by simpa using hq x hx
    exact exec_cancel_answered h ho
      ((cancelTarget_elsewhere (s := { s with intake := rest }) hp hfind).trans (if_pos hl))
      ((cancelTarget_elsewhere (s := s.answeredWith rest _) hp hfind).trans (if_pos hl))
  · intro taken
    obtain ⟨hfind, hfilter⟩ := find_of_unique he hu
    rw [← hq] at hfind hfilter
    have htaken : (s.answeredWith rest { rt := rt, status := .ok, body := .completion 0 }).cancelEntry e =
        taken.cancelMember e.member :=
      congrArg (fun q => State.cancelMember { s.answeredWith rest { rt := rt, status := .ok, body := .completion 0 } with
        releaseQueue := q } e.member) hfilter
    have hexec : exec .cancel s = .next (taken.cancelMember e.member).endEvent := by
      rw [← htaken]
      exact exec_cancel_answered h ho (cancelTarget_queued (s := { s with intake := rest }) hp hfind)
        (cancelTarget_queued (s := s.answeredWith rest _) hp hfind)
    refine ⟨hexec, fun hm => ?_, fun g hm hc hopen => ?_⟩
    · rw [hexec, hm]
      rfl
    · rw [hexec, hm]
      exact congrArg (fun t => Host.Outcome.next (State.endEvent t)) (cancelMember_collecting taken g hc hopen)

end Sys2Proof.Machine
end

section
/-! SUPPORT. A MGMT WRITE of several words: its frame, the words in their order, read-only and unmapped words. -/

namespace Sys2Proof.Machine

/-! ## A MGMT WRITE of several words (R167) -/

theorem wordsOf_flatten (words : List Word) : wordsOf (words.map bytes32).flatten = words := by
  induction words with
  | nil => rfl
  | cons w rest ih =>
    have h : wordsOf (bytes32 w ++ (rest.map bytes32).flatten) = w :: wordsOf (rest.map bytes32).flatten := by
      simp only [bytes32, List.cons_append, List.nil_append, wordsOf, be32_bytes32]
    rw [List.map_cons, List.flatten_cons, h, ih]

theorem flatten_length (words : List Word) : (words.map bytes32).flatten.length = 4 * words.length := by
  induction words with
  | nil => rfl
  | cons w rest ih => rw [List.map_cons, List.flatten_cons, List.length_append, ih, bytes32_length, List.length_cons]; omega

theorem parse_mgmtWritesFrame (reqtag bridge : Byte) (address : BitVec 16) (words : List Word) (h1 : 1 ≤ words.length)
    (h8 : words.length ≤ 8) : parseMgmtWrite (mgmtWritesFrame reqtag bridge address words).body =
      .ok (.mgmtWrite (bridge.extractLsb' 0 3) address.toNat words) := by
  have hn : (BitVec.ofNat 8 words.length).toNat = words.length := by
    rw [BitVec.toNat_ofNat]
    omega
  have hl := flatten_length words
  have hsize : ¬ ((BitVec.ofNat 8 words.length).toNat = 0 ∨ 8 < (BitVec.ofNat 8 words.length).toNat ∨
      (words.map bytes32).flatten.length ≠ 4 * (BitVec.ofNat 8 words.length).toNat) := by
    rw [hn, hl]
    omega
  simp only [mgmtWritesFrame, bytes16, List.cons_append, List.nil_append, parseMgmtWrite, if_neg hsize, be16_bytes16,
    wordsOf_flatten]

theorem row_mgmtWritesFrame (reqtag bridge : Byte) (address : BitVec 16) (first : Word) (others : List Word)
    (h : others.length ≤ 7) :
    rowOf (mgmtWritesFrame reqtag bridge address (first :: others)) = mgmtWriteRow address.toNat first := by
  have hp := parse_mgmtWritesFrame reqtag bridge address (first :: others) (Nat.succ_pos _) (Nat.succ_le_succ h)
  have hk : (mgmtWritesFrame reqtag bridge address (first :: others)).kind.toNat = 0x22 := rfl
  unfold rowOf
  rw [hk]
  simp only [hp]

/-- The answer that a MGMT WRITE leaves in its place, once its words have been applied (R39, R167). -/
def State.writeEnds (s t : State) (rest : List Frame) (reqtag : Byte) (status : Status) (failWord : Nat) : State :=
  { t with
    intake := rest
    responseQueue := t.responseQueue.set s.responseQueue.length
      { rt := ReqTag.ofByte reqtag, status := status, body := .mgmt failWord [] t.intakeStopped } }

/-- What the words of the write came to, and the frame's outcome (R39, R167). -/
theorem exec_writesFrame_result {s : State} {rest : List Frame} {reqtag bridge : Byte} {address : BitVec 16} {first : Word}
    {others : List Word} {t : State} {status : Status} {failWord : Nat} (hl : others.length ≤ 7)
    (h : s.Ready (mgmtWritesFrame reqtag bridge address (first :: others)) rest)
    (hx : (s.writeTaken [] reqtag bridge .ok).writeWords address.toNat 0 (first :: others) = ⟨t, status, failWord⟩) :
    exec (mgmtWriteRow address.toNat first) s = .next (s.writeEnds t rest reqtag status failWord).endEvent := by
  have hp : parseRequest (mgmtWritesFrame reqtag bridge address (first :: others)) =
      .ok (.mgmtWrite (bridge.extractLsb' 0 3) address.toNat (first :: others)) :=
    (parseRequest_mgmtWrite rfl).trans
      (parse_mgmtWritesFrame reqtag bridge address (first :: others) (Nat.succ_pos _) (Nat.succ_le_succ hl))
  have hd := decideFrame_passed { s with intake := rest } _ _ hp (.inr rfl)
  rw [exec_answered h (row_mgmtWritesFrame reqtag bridge address first others hl) hd]
  have hs : State.pushRecord { ({ s with intake := rest } : State) with
      bridgeNumber := bridge.extractLsb' 0 3, intake := [] } (mgmtCompletion (ReqTag.ofByte reqtag) .ok 0 []) =
      s.writeTaken [] reqtag bridge .ok := rfl
  have hm : State.mgmtWrite { s with intake := rest } (ReqTag.ofByte reqtag) (bridge.extractLsb' 0 3) address.toNat
      (first :: others) = s.writeEnds t rest reqtag status failWord := by
    unfold State.mgmtWrite
    dsimp only
    rw [hs, hx]
    rfl
  exact congrArg (fun u : State => Host.Outcome.next u.endEvent) hm

/-! ## The words in order -/

section
variable {s t u : State} {address : Nat} {w : Word} {r : Register}

theorem writeWords_unmapped (hr : registerAt (address + k) = none) (after : List Word) :
    s.writeWords address k (w :: after) = ⟨s, .badAddress, k⟩ := by
  unfold State.writeWords
  rw [hr]

theorem writeWords_stops {st : Status} (hr : registerAt (address + k) = some r) (hw : s.writeWord r w = .stops st)
    (after : List Word) : s.writeWords address k (w :: after) = ⟨s, st, k⟩ := by
  unfold State.writeWords
  rw [hr]
  dsimp only
  rw [hw]

theorem writeWords_applied (hr : registerAt (address + k) = some r) (hw : s.writeWord r w = .applied u) (after : List Word) :
    s.writeWords address k (w :: after) = (u.betweenWords after).writeWords address (k + 1) after := by
  conv_lhs => unfold State.writeWords
  rw [hr]
  dsimp only
  rw [hw]

/-- The words that were applied lead to the word behind them. -/
theorem writeWords_of_applied {before : List Word} (w : Word) (after : List Word) {k : Nat}
    (h : s.Applied (address + k) before t) :
    s.writeWords address k (before ++ w :: after) = t.writeWords address (k + before.length) (w :: after) := by
  induction before generalizing s k with
  | nil => exact congrArg (fun x : State => x.writeWords address k (w :: after)) (Eq.symm h)
  | cons v before ih =>
    obtain ⟨r, s', hr, hv, hrest⟩ := h
    have hbetween : s'.betweenWords (before ++ w :: after) = s'.settle :=
      if_neg (by simp)
    rw [List.cons_append, writeWords_applied hr hv, hbetween, ih hrest, List.length_cons]
    exact congrArg (fun n => t.writeWords address n (w :: after)) (by omega)

/-- Every write reaches a word that ends it: one that is unmapped, one that its register refuses, or the last. -/
theorem applied_ends (w : Word) (others : List Word) (s : State) (address : Nat) :
    ∃ before v after t, w :: others = before ++ v :: after ∧ s.Applied address before t ∧
      (registerAt (address + before.length) = none ∨
        (∃ r st, registerAt (address + before.length) = some r ∧ t.writeWord r v = .stops st) ∨
        (after = [] ∧ ∃ r u, registerAt (address + before.length) = some r ∧ t.writeWord r v = .applied u)) := by
  induction others generalizing w s address with
  | nil =>
    refine ⟨[], w, [], s, rfl, rfl, ?_⟩
    cases hr : registerAt (address + [].length) with
    | none => exact .inl rfl
    | some r =>
      cases hw : s.writeWord r w with
      | stops st => exact .inr (.inl ⟨r, st, rfl, hw⟩)
      | applied u => exact .inr (.inr ⟨rfl, r, u, rfl, hw⟩)
  | cons v others ih =>
    cases hr : registerAt address with
    | none => exact ⟨[], w, v :: others, s, rfl, rfl, .inl hr⟩
    | some r =>
      cases hw : s.writeWord r w with
      | stops st => exact ⟨[], w, v :: others, s, rfl, rfl, .inr (.inl ⟨r, st, hr, hw⟩)⟩
      | applied u =>
        obtain ⟨before, x, after, t, hsplit, happlied, hend⟩ := ih v u.settle (address + 1)
        have hplace : address + 1 + before.length = address + (w :: before).length := by
          rw [List.length_cons]
          omega
        rw [hplace] at hend
        exact ⟨w :: before, x, after, t, by rw [hsplit, List.cons_append], ⟨r, u, hr, hw, happlied⟩, hend⟩

end

/-! ## Read-only and unmapped words -/

/-- The registers that a write passes over (chapter 10, section 10.2; R167). -/
def Register.ReadOnly (r : Register) : Prop :=
  r ∈ ([.ident, .revision, .firstCapability, .bridgeNumber, .straps, .committed, .occupancy, .entriesInUse,
    .releaseDepth, .fault 1, .fault 2, .latchLevels] : List Register) ∨ (∃ k, r = .capability k) ∨
    (∃ b, r = .branchStatus b ∨ r = .branchDepth b ∨ r = .attnStatus b) ∨ (∃ g, r = .groupStatus g) ∨
    (∃ i, r = .splitSummary i ∨ r = .splitPlace i ∨ r = .splitCounters i)

theorem writeWord_readOnly (s : State) {r : Register} (w : Word) (h : r.ReadOnly) : s.writeWord r w = .applied s := by
  rcases h with h | ⟨k, rfl⟩ | ⟨b, rfl | rfl | rfl⟩ | ⟨g, rfl⟩ | ⟨i, rfl | rfl | rfl⟩
  · simp only [List.mem_cons, List.not_mem_nil, or_false] at h
    rcases h with rfl | rfl | rfl | rfl | rfl | rfl | rfl | rfl | rfl | rfl | rfl | rfl <;> rfl
  all_goals rfl

/-- A write that begins at an unmapped word is a MGMT_REGISTER_WRITE (R167). -/
theorem mgmtWriteRow_unmapped {a : Nat} (h : registerAt a = none) (w : Word) : mgmtWriteRow a w = .mgmtRegisterWrite := by
  have hne : ∀ x, registerAt x ≠ none → a ≠ x := fun x hx he => hx (he ▸ h)
  have hattn : ∀ k < 16, registerAt (0x060 + k) ≠ none := by decide
  have hgroup : ∀ k < 28, registerAt (0x074 + k) ≠ none := by decide
  have hbranch : ¬ (a = 0x040 ∨ a = 0x048 ∨ a = 0x050 ∨ a = 0x058) := by
    rintro (he | he | he | he)
    all_goals exact hne _ (by decide) he
  have hattn' : ¬ (0x060 ≤ a ∧ a ≤ 0x06F ∧ a % 4 ≠ 3) := fun ⟨hlo, hhi, _⟩ =>
    hne (0x060 + (a - 0x060)) (hattn _ (by omega)) (by omega)
  have hgroup' : ¬ (0x074 ≤ a ∧ a ≤ 0x08F ∧ a % 4 = 0) := fun ⟨hlo, hhi, _⟩ =>
    hne (0x074 + (a - 0x074)) (hgroup _ (by omega)) (by omega)
  unfold mgmtWriteRow
  dsimp only
  rw [if_neg (hne 0x008 (by decide)), if_neg (hne 0x009 (by decide)), if_neg (hne 0x020 (by decide)),
    if_neg (hne 0x028 (by decide)), if_neg (hne 0x029 (by decide)), if_neg (hne 0x030 (by decide)),
    if_neg (hne 0x031 (by decide)), if_neg (hne 0x032 (by decide)), if_neg (hne 0x034 (by decide)), if_neg hbranch,
    if_neg hattn', if_neg hgroup']

/-- A write of a read-only word alone answers OK and changes nothing else. -/
theorem exec_writeFrame_readOnly {s : State} {rest : List Frame} {reqtag bridge : Byte} {address : BitVec 16} {w : Word}
    {r : Register} (h : s.Ready (mgmtWriteFrame reqtag bridge address w) rest) (hr : registerAt address.toNat = some r)
    (ho : r.ReadOnly) : exec (mgmtWriteRow address.toNat w) s = .next (s.writeTaken rest reqtag bridge .ok).endEvent := by
  have hx := exec_writeFrame_applied h hr (writeWord_readOnly (s.writeTaken [] reqtag bridge .ok) w ho) h.1.2.2
    (more := []) rfl
  exact hx

end Sys2Proof.Machine
end

section
/-! SUPPORT. What ends a MGMT WRITE, and two writes of three words. -/

namespace Sys2Proof.Machine

section
variable {s t u : State} {rest : List Frame} {reqtag bridge : Byte} {address : BitVec 16} {first w : Word}
  {others before after : List Word} {r : Register}

/-- The words before word w were applied, and w ends the write in `result`. -/
theorem exec_writesFrame_of_applied {status : Status} {failWord : Nat} (hl : others.length ≤ 7)
    (h : s.Ready (mgmtWritesFrame reqtag bridge address (first :: others)) rest) (hsplit : first :: others = before ++ w :: after)
    (happlied : (s.writeTaken [] reqtag bridge .ok).Applied address.toNat before t)
    (hend : t.writeWords address.toNat before.length (w :: after) = ⟨u, status, failWord⟩) :
    exec (mgmtWriteRow address.toNat first) s = .next (s.writeEnds u rest reqtag status failWord).endEvent := by
  refine exec_writesFrame_result hl h ?_
  have hw := writeWords_of_applied w after (address := address.toNat) (k := 0) happlied
  rw [hsplit, hw, Nat.zero_add, hend]

theorem exec_writesFrame_unmapped (hl : others.length ≤ 7)
    (h : s.Ready (mgmtWritesFrame reqtag bridge address (first :: others)) rest) (hsplit : first :: others = before ++ w :: after)
    (happlied : (s.writeTaken [] reqtag bridge .ok).Applied address.toNat before t)
    (hr : registerAt (address.toNat + before.length) = none) :
    exec (mgmtWriteRow address.toNat first) s = .next (s.writeEnds t rest reqtag .badAddress before.length).endEvent :=
  exec_writesFrame_of_applied hl h hsplit happlied (writeWords_unmapped hr after)

theorem exec_writesFrame_stops {st : Status} (hl : others.length ≤ 7)
    (h : s.Ready (mgmtWritesFrame reqtag bridge address (first :: others)) rest) (hsplit : first :: others = before ++ w :: after)
    (happlied : (s.writeTaken [] reqtag bridge .ok).Applied address.toNat before t)
    (hr : registerAt (address.toNat + before.length) = some r) (hw : t.writeWord r w = .stops st) :
    exec (mgmtWriteRow address.toNat first) s = .next (s.writeEnds t rest reqtag st before.length).endEvent :=
  exec_writesFrame_of_applied hl h hsplit happlied (writeWords_stops hr hw after)

theorem exec_writesFrame_applied (hl : others.length ≤ 7)
    (h : s.Ready (mgmtWritesFrame reqtag bridge address (first :: others)) rest) (hsplit : first :: others = before ++ [w])
    (happlied : (s.writeTaken [] reqtag bridge .ok).Applied address.toNat before t)
    (hr : registerAt (address.toNat + before.length) = some r) (hw : t.writeWord r w = .applied u) :
    exec (mgmtWriteRow address.toNat first) s = .next (s.writeEnds u rest reqtag .ok 0).endEvent :=
  exec_writesFrame_of_applied hl h hsplit happlied (writeWords_applied hr hw [])

end

/-! ## Two writes of three words -/

theorem setWidth_of_toNat_eq {n : Nat} {w : Word} {x : BitVec n} (h : w.toNat = x.toNat) : w.setWidth n = x := by
  apply BitVec.eq_of_toNat_eq
  rw [BitVec.toNat_setWidth, h]
  exact Nat.mod_eq_of_lt x.isLt

theorem writeWord_lateWindow (s : State) {w : Word} {x : BitVec 16} (h : w.toNat = x.toNat) :
    s.writeWord .lateWindow w = .applied { s with lateWindow := x } := by
  have hx := x.isLt
  unfold State.writeWord
  dsimp only
  rw [if_neg (by omega), setWidth_of_toNat_eq h]

theorem writeWord_timeoutClass (s : State) (c : Fin 4) {w : Word} {x : BitVec 24} (h : w.toNat = x.toNat) (h0 : x ≠ 0) :
    s.writeWord (.timeoutClass c) w = .applied { s with timeoutClasses := s.timeoutClasses.set c.val x c.isLt } := by
  have hx := x.isLt
  have hpos : x.toNat ≠ 0 := fun hz => h0 (BitVec.eq_of_toNat_eq hz)
  unfold State.writeWord
  dsimp only
  rw [if_neg (by omega), setWidth_of_toNat_eq h]

theorem writeWord_tickShift_stops (s : State) {w : Word} (h : 7 < w.toNat) : s.writeWord .tickShift w = .stops .badField := by
  unfold State.writeWord
  dsimp only
  rw [finOf_eq_none_iff.2 (by omega)]

theorem settle_lateWindow (s : State) : s.settle.lateWindow = s.lateWindow :=
  (congrArg State.lateWindow (settle_only s) :)

theorem settle_timeoutClasses (s : State) : s.settle.timeoutClasses = s.timeoutClasses :=
  (congrArg State.timeoutClasses (settle_only s) :)

/-- A write that makes no bridge reset follow: RESET FOLLOWS is 0 in its answer. -/
theorem writeEnds_running (s : State) {t : State} (ht : t.intakeStopped = false) (rest : List Frame) (reqtag : Byte)
    (status : Status) (failWord : Nat) : s.writeEnds t rest reqtag status failWord = { t with
      intake := rest
      responseQueue := t.responseQueue.set s.responseQueue.length
        { rt := ReqTag.ofByte reqtag, status := status, body := .mgmt failWord [] false } } := by
  unfold State.writeEnds
  rw [ht]

/-- LATE WINDOW is written and RELEASE DEPTH passed over; the third word is unmapped. -/
theorem exec_write_lateWindow {s : State} {rest : List Frame} {reqtag bridge : Byte} {a b c : Word} {x : BitVec 16}
    (h : s.Ready (mgmtWritesFrame reqtag bridge 0x02A [a, b, c]) rest) (ha : a.toNat = x.toNat) :
    exec .mgmtRegisterWrite s = .next (s.writeEnds
      (State.settle { s.writeTaken [] reqtag bridge .ok with lateWindow := x }) rest reqtag .badAddress 2).endEvent := by
  have hdepth : ∀ t : State, t.writeWord .releaseDepth b = .applied t := fun t => rfl
  have happlied : (s.writeTaken [] reqtag bridge .ok).Applied 0x02A [a, b]
      (State.settle { s.writeTaken [] reqtag bridge .ok with lateWindow := x }) :=
    ⟨.lateWindow, _, rfl, writeWord_lateWindow _ ha, .releaseDepth, _, rfl, hdepth _, (settle_settle _).symm⟩
  exact exec_writesFrame_unmapped (before := [a, b]) (after := []) (by simp) h rfl happlied rfl

/-- The last timeout class is written; TICK SHIFT refuses the second word. -/
theorem exec_write_timeoutClass {s : State} {rest : List Frame} {reqtag bridge : Byte} {a b c : Word} {x : BitVec 24}
    (h : s.Ready (mgmtWritesFrame reqtag bridge 0x027 [a, b, c]) rest) (ha : a.toNat = x.toNat) (hx : x ≠ 0)
    (hb : 7 < b.toNat) :
    exec .mgmtRegisterWrite s = .next (s.writeEnds
      (State.settle { s.writeTaken [] reqtag bridge .ok with timeoutClasses := s.timeoutClasses.set 3 x })
      rest reqtag .badField 1).endEvent := by
  have happlied : (s.writeTaken [] reqtag bridge .ok).Applied 0x027 [a]
      (State.settle { s.writeTaken [] reqtag bridge .ok with timeoutClasses := s.timeoutClasses.set 3 x }) :=
    ⟨.timeoutClass 3, _, rfl, writeWord_timeoutClass _ 3 ha hx, rfl⟩
  exact exec_writesFrame_stops (before := [a]) (after := [c]) (r := .tickShift) (by simp) h rfl happlied rfl
    (writeWord_tickShift_stops _ hb)

theorem readOnly_addresses (address : BitVec 16) (h : address ∈
    ([0x000, 0x001, 0x002, 0x004, 0x005, 0x021, 0x022, 0x023, 0x02B, 0x035, 0x036, 0x0B0] : List (BitVec 16))) (w : Word) :
    (∃ r, registerAt address.toNat = some r ∧ r.ReadOnly) ∧ mgmtWriteRow address.toNat w = .mgmtRegisterWrite := by
  simp only [List.mem_cons, List.not_mem_nil, or_false] at h
  rcases h with rfl | rfl | rfl | rfl | rfl | rfl | rfl | rfl | rfl | rfl | rfl | rfl
  all_goals exact ⟨⟨_, rfl, .inl (by decide)⟩, rfl⟩

/-- Settles O27, by the words in their order: `applied_ends` finds the word that ends the write. -/
theorem longWriteStops : Obligations.LongWriteStops := by
  refine ⟨?_, fun s r w h => writeWord_readOnly s w h, ?_, fun s rest reqtag bridge address w h hr => ?_,
    fun s rest reqtag bridge address w h ha => ?_⟩
  · intro s rest reqtag bridge address first others hl h row words started answered
    refine ⟨fun before w after t hsplit happlied => ⟨fun hr => ?_, fun r st hr hw => ?_, fun r u hlast hr hw => ?_⟩, ?_⟩
    · exact exec_writesFrame_unmapped hl h hsplit happlied hr
    · exact exec_writesFrame_stops hl h hsplit happlied hr hw
    · subst hlast
      exact exec_writesFrame_applied hl h hsplit happlied hr hw
    · exact applied_ends first others started address.toNat
  · intro s rest reqtag bridge a b c ended
    refine ⟨?_, ?_⟩
    · intro x h ha t
      have ht : t.intakeStopped = false := (intakeStopped_of_settle (settle_only _)).trans h.1.2.2
      refine ⟨settle_lateWindow _, ?_⟩
      rw [exec_write_lateWindow h ha, writeEnds_running s ht]
    · intro x h ha hx hb t
      have ht : t.intakeStopped = false := (intakeStopped_of_settle (settle_only _)).trans h.1.2.2
      refine ⟨settle_timeoutClasses _, ?_⟩
      rw [exec_write_timeoutClass h ha hx hb, writeEnds_running s ht]
  · rw [← mgmtWriteRow_unmapped hr w]
    exact exec_writeFrame_unmapped h hr
  · obtain ⟨⟨r, hr, ho⟩, hrow⟩ := readOnly_addresses address ha w
    rw [← hrow]
    exact exec_writeFrame_readOnly h hr ho

end Sys2Proof.Machine
end

section
/-! SUPPORT. What a freed slot and a fall of the occupancy leave: an entry that no longer gathers, the engines, and all else while no head waits. -/

namespace Sys2Proof.Machine

/-! ## An entry that no longer gathers stands still -/

section
variable {s t : State} {i : Fin 16} {e : SplitEntry}

theorem grantEntry_still (he : s.entry i = some e) (hg : e.state ≠ .gathering) (j : Fin 16) (fuel : Nat) :
    (s.grantEntry j fuel).1.entry i = some e := by
  induction fuel generalizing s with
  | zero => exact he
  | succ n ih =>
    unfold State.grantEntry
    split
    · exact he
    · rename_i x hx
      split
      · exact he
      · rename_i hgather
        have hne : i ≠ j := by
          rintro rfl
          cases he.symm.trans hx
          exact hgather (.inl hg)
        split
        · exact he
        · dsimp only
          split
          · exact he
          · refine ih ?_
            unfold State.createPiece
            rw [entry_modBranch, entry_setEntry_ne _ _ _ _ hne]
            exact he

theorem grantOver_still (he : s.entry i = some e) (hg : e.state ≠ .gathering) (places : List (Fin 16)) :
    (s.grantOver places).entry i = some e := by
  induction places generalizing s with
  | nil => exact he
  | cons j rest ih =>
    have h := grantEntry_still he hg j (uncreatedOf (s.entry j))
    unfold State.grantOver
    split
    · rename_i s' heq
      rw [heq] at h
      exact ih h
    · rename_i s' heq
      rw [heq] at h
      exact h

/-- A grant pass creates pieces for entries that gather alone (R48). -/
theorem grantPass_still (he : s.entry i = some e) (hg : e.state ≠ .gathering) : s.grantPass.entry i = some e :=
  grantOver_still he hg _

theorem headWaits_split {x : ReleaseEntry} {rest : List ReleaseEntry} (h : s.headWaits x rest = some t) :
    t.split = s.split := by
  unfold State.headWaits at h
  split at h
  · cases h
  · cases h
    exact (congrArg State.split (setFlag_only _ .releaseSlip) :)

/-- The judgement of the Release Queue's head leaves the Split Table. -/
theorem judgeHead_split (h : s.judgeHead = some t) : t.split = s.split := by
  unfold State.judgeHead at h
  split at h
  · cases h
  · split at h
    · unfold State.abortHead at h
      split at h <;> cases h
      rfl
    · split at h
      · split at h
        · unfold State.judgeWrite at h
          split at h
          · split at h
            · cases h
              rfl
            · exact headWaits_split h
          · split at h
            · cases h
              exact (congrArg State.split (reportMember_only _ _ false) :)
            · exact headWaits_split h
        · unfold State.judgeLatch at h
          split at h
          · cases h
            rfl
          · exact headWaits_split h
      · cases h

theorem judgeRun_split (fuel : Nat) (s : State) : (s.judgeRun fuel).split = s.split := by
  induction fuel generalizing s with
  | zero => rfl
  | succ n ih =>
    unfold State.judgeRun
    split
    · rfl
    · rename_i u hu
      exact (ih u).trans (judgeHead_split hu)

theorem headTakesSlot_split (h : s.headTakesSlot = some t) : t.split = s.split := by
  unfold State.headTakesSlot at h
  split at h
  · exact judgeHead_split h
  · cases h

theorem intakeTakesSlot_split {b : Fin 4} (h : s.intakeTakesSlot b = some t) : t.split = s.split := by
  obtain ⟨_, _, _, _, _, _, rfl⟩ := intakeTakesSlot_write h
  rfl

theorem pick_split {α : Type} {xs : List α} {x : α} (h : s.pick xs = some (x, t)) : t.split = s.split :=
  (congrArg State.split (pick_only s xs x t h) :)

theorem entry_of_split {u v : State} (h : v.split = u.split) (i : Fin 16) : v.entry i = u.entry i :=
  congrArg (fun x : Vector (Option SplitEntry) 16 => x[i.val]) h

theorem slotFreedIn_still (he : s.entry i = some e) (hg : e.state ≠ .gathering) (b : Fin 4) (fuel : Nat) :
    (s.slotFreedIn b fuel).entry i = some e := by
  induction fuel generalizing s with
  | zero => exact grantPass_still he hg
  | succ n ih =>
    obtain ⟨x, s', hp, h | ⟨u, hu, h⟩ | ⟨_, u, hu, h⟩⟩ := slotFreedIn_turn s b n
    all_goals
      rw [h]
      have he' : s'.entry i = some e := (entry_of_split (pick_split hp) i).trans he
    · exact grantPass_still he' hg
    · exact ih ((entry_of_split ((judgeRun_split _ u).trans (headTakesSlot_split hu)) i).trans he')
    · exact ih ((entry_of_split (intakeTakesSlot_split hu) i).trans he')

/-- The takers of a freed slot leave an entry that does not gather (R48, R72). -/
theorem slotFreed_still (he : s.entry i = some e) (hg : e.state ≠ .gathering) (b : Fin 4) :
    (s.slotFreed b).entry i = some e := slotFreedIn_still he hg b _

/-! ## A freed slot while no head waits -/

/-- State t, but with the fields of s that the takers of a slot reach while no head waits. -/
def State.withSlots (t s : State) : State :=
  { t with intake := s.intake, split := s.split, branches := s.branches, freeCount := s.freeCount }

theorem withSlots_trans {s t u : State} (h : u.withSlots t = t) (h' : t.withSlots s = s) : u.withSlots s = s :=
  (congrArg (fun x : State => x.withSlots s) h).trans h'

theorem withSlots_of_split {s t : State} (h : { t with split := s.split, branches := s.branches } = s) :
    t.withSlots s = s := lift (fun x : State => x.withSlots s) h rfl rfl

theorem withSlots_of_pick {α : Type} {xs : List α} {x : α} (h : s.pick xs = some (x, t)) : t.withSlots s = s :=
  lift (fun x : State => x.withSlots s) (pick_only s xs x t h) rfl rfl

theorem headHasWaited_of_slots (h : t.withSlots s = s) : t.headHasWaited = s.headHasWaited :=
  (congrArg State.headHasWaited h :)

theorem headTakesSlot_unwaited (h : s.headHasWaited = false) : s.headTakesSlot = none :=
  if_neg fun hx => by rw [h] at hx; exact Bool.false_ne_true hx.2

theorem intakeTakesSlot_slots {b : Fin 4} (h : s.intakeTakesSlot b = some t) : t.withSlots s = s := by
  obtain ⟨_, _, _, _, _, _, rfl⟩ := intakeTakesSlot_write h
  rfl

theorem slotFreedIn_slots (h : s.headHasWaited = false) (b : Fin 4) (fuel : Nat) :
    (s.slotFreedIn b fuel).withSlots s = s := by
  induction fuel generalizing s with
  | zero => exact withSlots_of_split (grantPass_only s)
  | succ n ih =>
    obtain ⟨x, s', hp, hx | ⟨u, hu, _⟩ | ⟨_, u, hu, hx⟩⟩ := slotFreedIn_turn s b n
    all_goals
      have hs := withSlots_of_pick hp
      have hw : s'.headHasWaited = false := (headHasWaited_of_slots hs).trans h
    · rw [hx]
      exact withSlots_trans (withSlots_of_split (grantPass_only s')) hs
    · cases (headTakesSlot_unwaited hw).symm.trans hu
    · have hu' := intakeTakesSlot_slots hu
      rw [hx]
      exact withSlots_trans (ih ((headHasWaited_of_slots hu').trans hw)) (withSlots_trans hu' hs)

/-- While no head waits, a freed slot is the grant pass's or Intake's (R72, R137). -/
theorem slotFreed_slots (h : s.headHasWaited = false) (b : Fin 4) : (s.slotFreed b).withSlots s = s :=
  slotFreedIn_slots h b _

end

/-! ## Engines that leave STALL -/

theorem endStalls_branch (fuel : Nat) (s : State) (b : Fin 4) :
    ∃ phase progress, (s.endStalls fuel).branch b = { s.branch b with phase := phase, progress := progress } := by
  induction fuel generalizing s with
  | zero => exact ⟨_, _, rfl⟩
  | succ n ih =>
    unfold State.endStalls
    split
    · split
      · exact ⟨_, _, rfl⟩
      · rename_i c s' heq
        obtain ⟨phase, progress, h⟩ := ih (s'.endStallOf c)
        have hs : s'.branch b = s.branch b := (congrArg (fun x : State => x.branch b) (pick_only s _ _ _ heq) :)
        refine ⟨phase, progress, ?_⟩
        rw [h, ← hs]
        unfold State.endStallOf
        by_cases hc : b = c
        · subst hc
          rw [branch_modBranch_same]
        · rw [branch_modBranch_ne _ _ _ _ hc]
    · exact ⟨_, _, rfl⟩

/-- A stall's end moves the PHASE and the progress of its engine alone (R94). -/
theorem roomFreed_branch (s : State) (b : Fin 4) :
    ∃ phase progress, s.roomFreed.branch b = { s.branch b with phase := phase, progress := progress } :=
  endStalls_branch 4 s b

theorem roomFreed_entry (s : State) (i : Fin 16) : s.roomFreed.entry i = s.entry i :=
  (congrArg (fun x : State => x.entry i) (roomFreed_only s) :)

end Sys2Proof.Machine
end

section
/-! SUPPORT. What follows the abandon of a read: the end of its run, the word to its engine, and the freed slots. -/

namespace Sys2Proof.Machine

/-! ## What follows an abandon (R63) -/

/-- State t follows state s, in which place i holds the abandoned entry e: pieces of e may have been released, the takers of
freed slots have had their turns, and nothing else of what an abandon must keep has changed. -/
structure FollowsAbandon (i : Fin 16) (e : SplitEntry) (s t : State) : Prop where
  only : t.withSettle s = s
  others : ∀ j, j ≠ i → (t.entry j).map SplitEntry.ungranted = (s.entry j).map SplitEntry.ungranted
  mine : ∃ ps, t.entry i = some { e with pieces := ps } ∧ ∀ p ∈ ps, p ∈ e.pieces
  queues : ∀ b, (∀ o ∈ (s.branch b).queue, o.isPieceOf i = false) → ∀ o ∈ (t.branch b).queue, o.isPieceOf i = false
  records : s.responseQueue <+: t.responseQueue
  frames : t.intake <:+ s.intake
  unwaited : s.headHasWaited = false → t.withSlots s = s

section
variable {s t u : State} {i : Fin 16} {e : SplitEntry}

theorem FollowsAbandon.refl (he : s.entry i = some e) : FollowsAbandon i e s s where
  only := rfl
  others _ _ := rfl
  mine := ⟨e.pieces, he, fun _ hp => hp⟩
  queues _ h := h
  records := List.prefix_refl _
  frames := List.suffix_refl _
  unwaited _ := rfl

/-- Steps follow one another, each from the entry as the one before it left it. -/
theorem FollowsAbandon.trans (h : FollowsAbandon i e s t)
    (k : ∀ ps, t.entry i = some { e with pieces := ps } → FollowsAbandon i { e with pieces := ps } t u) :
    FollowsAbandon i e s u := by
  obtain ⟨ps, ht, hps⟩ := h.mine
  have k := k ps ht
  obtain ⟨qs, hu, hqs⟩ := k.mine
  exact {
    only := withSettle_trans k.only h.only
    others := fun j hj => (k.others j hj).trans (h.others j hj)
    mine := ⟨qs, hu, fun p hp => hps p (hqs p hp)⟩
    queues := fun b hb => k.queues b (h.queues b hb)
    records := h.records.trans k.records
    frames := k.frames.trans h.frames
    unwaited := fun hw =>
      withSlots_trans (k.unwaited ((headHasWaited_of_slots (h.unwaited hw)).trans hw)) (h.unwaited hw) }

/-- A change of branches that leaves their Issue Queues. -/
theorem followsAbandon_of_branches (he : s.entry i = some e) (h : { t with branches := s.branches, freeCount := s.freeCount } = s)
    (hq : ∀ b, (t.branch b).queue = (s.branch b).queue) : FollowsAbandon i e s t where
  only := lift (fun x : State => x.withSettle s) h rfl rfl
  others j _ := (congrArg (fun x : State => (x.entry j).map SplitEntry.ungranted) h :)
  mine := ⟨e.pieces, (congrArg (fun x : State => x.entry i) h :).trans he, fun _ hp => hp⟩
  queues b hb := by rwa [hq b]
  records := by
    have hr : t.responseQueue = s.responseQueue := (congrArg State.responseQueue h :)
    rw [hr]
  frames := by
    have hf : t.intake = s.intake := (congrArg State.intake h :)
    rw [hf]
  unwaited _ := lift (fun x : State => x.withSlots s) h rfl rfl

theorem roomFreed_followsAbandon (he : s.entry i = some e) : FollowsAbandon i e s s.roomFreed :=
  followsAbandon_of_branches he (roomFreed_only s) fun b => by
    obtain ⟨phase, progress, h⟩ := roomFreed_branch s b
    rw [h]

theorem modBranch_followsAbandon (he : s.entry i = some e) (b : Fin 4) (f : Branch → Branch)
    (hf : ∀ br, (f br).queue = br.queue) : FollowsAbandon i e s (s.modBranch b f) :=
  followsAbandon_of_branches he rfl fun c => by
    by_cases hc : c = b
    · subst hc
      rw [branch_modBranch_same, hf]
    · rw [branch_modBranch_ne _ _ _ _ hc]

theorem isRead_of_isPieceOf {o : Operation} (h : o.isPieceOf i = true) : o.isRead = true := by
  unfold Operation.isPieceOf at h
  unfold Operation.isRead
  revert h
  cases o.body with
  | readPiece _ _ _ => exact fun _ => rfl
  | posted _ | confirmed _ _ | timed _ _ _ => exact fun h => nomatch h

/-- A freed slot: pieces of other entries and writes join the queues, and an abandoned entry gets none (R48, R72). -/
theorem slotFreed_followsAbandon (he : s.entry i = some e) (ha : e.state = .abandoned) (b : Fin 4) :
    FollowsAbandon i e s (s.slotFreed b) := by
  have hg : e.state ≠ .gathering := by
    rw [ha]
    decide
  have hfreed := slotFreed_freed s b
  exact {
    only := hfreed.only
    others := fun j _ => hfreed.entries j
    mine := ⟨e.pieces, slotFreed_still he hg b, fun _ hp => hp⟩
    queues := fun c hc o ho => by
      obtain ⟨more, hmore, hpieces, _⟩ := hfreed.queues c
      rw [hmore] at ho
      rcases List.mem_append.1 ho with ho | ho
      · exact hc o ho
      · refine Bool.eq_false_iff.2 fun hp => ?_
        obtain ⟨j, x, n, first, hbody, hx, hxg⟩ := hpieces o ho (isRead_of_isPieceOf hp)
        have hij : i = j := by
          unfold Operation.isPieceOf at hp
          rw [hbody] at hp
          exact eq_of_beq hp
        subst hij
        cases he.symm.trans hx
        exact hg hxg
    records := by
      obtain ⟨more, hmore, _⟩ := hfreed.records
      exact ⟨more, hmore.symm⟩
    frames := hfreed.frames
    unwaited := fun hw => slotFreed_slots hw b }

/-! ## The run of an abandoned entry's piece -/

theorem setEntry_followsAbandon (s : State) (ps : List Piece) (hps : ∀ p ∈ ps, p ∈ e.pieces) :
    FollowsAbandon i e s (s.setEntry i (some { e with pieces := ps })) where
  only := rfl
  others j hj := by rw [entry_setEntry_ne _ _ _ _ hj]
  mine := ⟨ps, entry_setEntry_same _ _ _, hps⟩
  queues b hb := by rwa [branch_setEntry]
  records := List.prefix_refl _
  frames := List.suffix_refl _
  unwaited _ := rfl

theorem settlePiece_abandoned (ha : e.state = .abandoned) (s : State) (o : Operation) (length : Nat) (first : Bool)
    (status : Status) : s.settlePiece i e o length first status = s.setEntry i (some e.dropActive) :=
  if_neg (by rw [ha]; decide)

theorem freeIfDone_unsent (he : s.entry i = some e) (hf : e.finalSent = false) : s.freeIfDone i = s := by
  unfold State.freeIfDone
  rw [he]
  dsimp only
  rw [hf]
  rfl

/-- The ACTIVE piece of an abandoned entry is released, and its slot is free (R54). -/
theorem pieceEnd_followsAbandon (he : s.entry i = some e) (ha : e.state = .abandoned) (hf : e.finalSent = false)
    (o : Operation) (length : Nat) (first : Bool) (status : Status) :
    FollowsAbandon i e s (s.pieceEnd i o length first status) := by
  have hset : FollowsAbandon i e s (s.setEntry i (some e.dropActive)) :=
    setEntry_followsAbandon s _ fun p hp => List.mem_of_mem_filter hp
  have hfreed : FollowsAbandon i e s ((s.setEntry i (some e.dropActive)).slotFreed e.route.branch) :=
    hset.trans fun ps hps => slotFreed_followsAbandon hps ha _
  unfold State.pieceEnd
  rw [he]
  dsimp only
  rw [settlePiece_abandoned ha]
  obtain ⟨ps, hps, _⟩ := hfreed.mine
  rw [freeIfDone_unsent hps hf]
  exact hfreed

theorem handOn_piece (s : State) (b : Fin 4) {o : Operation} (h : o.isPieceOf i = true) (status : Status) (dataDone : Nat) :
    ∃ length first, s.handOn b o status dataDone = s.pieceEnd i o length first status := by
  unfold Operation.isPieceOf at h
  unfold State.handOn
  split at h
  · rename_i j length first hb
    obtain rfl := eq_of_beq h
    exact ⟨length, first, by rw [hb]⟩
  · cases h

/-- The run of an abandoned entry's piece ends (R54, R104). -/
theorem endRun_followsAbandon (he : s.entry i = some e) (ha : e.state = .abandoned) (hf : e.finalSent = false)
    {b : Fin 4} {o : Operation} (ho : (s.branch b).op = some o) (hp : o.isPieceOf i = true) (status : Status) (stuck : Bool) :
    FollowsAbandon i e s (s.endRun b status stuck) := by
  unfold State.endRun
  rw [ho]
  dsimp only
  obtain ⟨length, first, hhand⟩ :=
    handOn_piece (s.modBranch b Branch.dropOp) b hp status (s.branch b).progress.dataDone
  rw [hhand]
  refine (modBranch_followsAbandon he b Branch.dropOp fun _ => rfl).trans fun ps hps => ?_
  refine (pieceEnd_followsAbandon hps ha hf o length first status).trans fun ps hps => ?_
  refine (modBranch_followsAbandon hps b _ fun br => afterRun_queue br stuck).trans fun ps hps => ?_
  exact roomFreed_followsAbandon hps

/-- The engine as the word to end its run leaves it (R103). -/
def Branch.toldToEnd (cause : EndCause) (br : Branch) : Branch :=
  { br with
    told := some (br.told.getD cause)
    progress := { br.progress with reserved := false }
    phase :=
      if br.phase = .start ∨ br.phase = .restart then .stop
      else if br.phase = .stall then .readData
      else br.phase }

/-- The engine does not hold the bus, so that a run told to end does so at once (R103). -/
def Branch.OffBus (br : Branch) : Prop := br.phase = .gap ∨ br.phase = .busyOther ∨ br.phase = .pause

theorem tellEnd_onBus {b : Fin 4} {o : Operation} (ho : (s.branch b).op = some o) (h : ¬ (s.branch b).OffBus)
    (cause : EndCause) : s.tellEnd b cause = (s.modBranch b (Branch.toldToEnd cause)).roomFreed := by
  unfold State.tellEnd
  dsimp only
  rw [ho]
  exact if_neg h

theorem tellEnd_offBus {b : Fin 4} {o : Operation} (ho : (s.branch b).op = some o) (h : (s.branch b).OffBus)
    (cause : EndCause) : s.tellEnd b cause = s.endRun b (endStatus o (s.branch b).progress cause) false := by
  unfold State.tellEnd
  dsimp only
  rw [ho]
  exact if_pos h

theorem tellUnwanted_piece {b : Fin 4} {o : Operation} (ho : (s.branch b).op = some o) (hp : o.isPieceOf i = true) :
    s.tellUnwanted i b = s.tellEnd b .unwanted := by
  unfold State.tellUnwanted
  rw [ho]
  exact if_pos hp

theorem tellUnwanted_other {b : Fin 4} (h : ∀ o, (s.branch b).op = some o → o.isPieceOf i = false) :
    s.tellUnwanted i b = s := by
  unfold State.tellUnwanted
  split
  · rfl
  · rename_i o ho
    exact if_neg (by rw [h o ho]; exact Bool.false_ne_true)

/-- The engine that runs an abandoned entry's piece is told, or its run ends at once (R63, R103). -/
theorem tellUnwanted_followsAbandon (he : s.entry i = some e) (ha : e.state = .abandoned) (hf : e.finalSent = false)
    (b : Fin 4) : FollowsAbandon i e s (s.tellUnwanted i b) := by
  by_cases hrun : ∃ o, (s.branch b).op = some o ∧ o.isPieceOf i = true
  · obtain ⟨o, ho, hp⟩ := hrun
    rw [tellUnwanted_piece ho hp]
    by_cases hbus : (s.branch b).OffBus
    · rw [tellEnd_offBus ho hbus]
      exact endRun_followsAbandon he ha hf ho hp _ _
    · rw [tellEnd_onBus ho hbus]
      exact (modBranch_followsAbandon he b (Branch.toldToEnd .unwanted) fun _ => rfl).trans
        fun ps hps => roomFreed_followsAbandon hps
  · rw [tellUnwanted_other fun o ho => Bool.eq_false_iff.2 fun hp => hrun ⟨o, ho, hp⟩]
    exact .refl he

/-! ## The engine that is told -/

theorem roomFreed_engine (s : State) (b : Fin 4) :
    (s.roomFreed.branch b).told = (s.branch b).told ∧ (s.roomFreed.branch b).op = (s.branch b).op := by
  obtain ⟨phase, progress, h⟩ := roomFreed_branch s b
  rw [h]
  exact ⟨rfl, rfl⟩

theorem slotFreed_engine (s : State) (b c : Fin 4) :
    ((s.slotFreed c).branch b).told = (s.branch b).told ∧ ((s.slotFreed c).branch b).op = (s.branch b).op := by
  have h := (slotFreed_freed s c).branches b
  exact ⟨(congrArg Branch.told h :), (congrArg Branch.op h :)⟩

/-- An engine on the bus takes the word that its bytes are unwanted, and keeps its operation (R103). -/
theorem tellUnwanted_engine {b : Fin 4} {o : Operation} (ho : (s.branch b).op = some o) (hp : o.isPieceOf i = true)
    (hn : (s.branch b).told = none) (hbus : ¬ (s.branch b).OffBus) :
    ((s.tellUnwanted i b).branch b).told = some .unwanted ∧ ((s.tellUnwanted i b).branch b).op = some o := by
  obtain ⟨htold, hop⟩ := roomFreed_engine (s.modBranch b (Branch.toldToEnd .unwanted)) b
  rw [branch_modBranch_same] at htold hop
  rw [tellUnwanted_piece ho hp, tellEnd_onBus ho hbus]
  refine ⟨htold.trans ?_, hop.trans ho⟩
  unfold Branch.toldToEnd
  rw [hn]
  rfl

end

end Sys2Proof.Machine
end

section
/-! SUPPORT. CANCEL of a read that gathers. -/

namespace Sys2Proof.Machine

/-! ## CANCEL of a read that gathers (R38, R63) -/

/-- The entry as an abandon leaves it: ACTIVE pieces alone, and of its held bytes those of a frame in flight (R59, R63). -/
def SplitEntry.abandoned (e : SplitEntry) (status : Status) (inFlight : Nat) : SplitEntry :=
  { e.onlyActive with state := .abandoned, finalStatus := some status, held := e.held.take inFlight }

section
variable {s : State} {i : Fin 16} {e : SplitEntry}

theorem endEntry_eq (he : s.entry i = some e) (status : Status) : s.endEntry i .abandoned status =
    (s.setEntry i (some (e.abandoned status (s.bytesInFlight i)))).dropQueued i e.route.branch := by
  unfold State.endEntry
  rw [he]
  rfl

theorem endEntry_mine (he : s.entry i = some e) (status : Status) :
    (s.endEntry i .abandoned status).entry i = some (e.abandoned status (s.bytesInFlight i)) := by
  rw [endEntry_eq he]
  unfold State.dropQueued
  rw [entry_modBranch, entry_setEntry_same]

theorem endEntry_others (he : s.entry i = some e) (status : Status) {j : Fin 16} (hj : j ≠ i) :
    (s.endEntry i .abandoned status).entry j = s.entry j := by
  rw [endEntry_eq he]
  unfold State.dropQueued
  rw [entry_modBranch, entry_setEntry_ne _ _ _ _ hj]

/-- The queue of the read's branch keeps its other operations alone, and the engine is as it was (R74). -/
theorem endEntry_branch (he : s.entry i = some e) (status : Status) :
    (s.endEntry i .abandoned status).branch e.route.branch =
      { s.branch e.route.branch with queue := (s.branch e.route.branch).queue.filter fun o => !o.isPieceOf i } := by
  rw [endEntry_eq he]
  unfold State.dropQueued
  rw [branch_modBranch_same, branch_setEntry]

theorem abandon_eq (he : s.entry i = some e) (status : Status) : s.abandon i status =
    (((s.endEntry i .abandoned status).tellUnwanted i e.route.branch).slotFreed e.route.branch).roomFreed := by
  unfold State.abandon
  rw [he]

/-- Behind the state change of its entry, an abandon lets the engine and the takers of slots act (R63, R72). -/
theorem abandon_follows (he : s.entry i = some e) (hf : e.finalSent = false) (status : Status) :
    FollowsAbandon i (e.abandoned status (s.bytesInFlight i)) (s.endEntry i .abandoned status) (s.abandon i status) := by
  rw [abandon_eq he]
  refine (tellUnwanted_followsAbandon (endEntry_mine he status) rfl hf e.route.branch).trans fun ps hps => ?_
  refine (slotFreed_followsAbandon hps rfl e.route.branch).trans fun ps hps => ?_
  exact roomFreed_followsAbandon hps

/-- The engine that runs the ACTIVE piece on the bus is told (R63, R103). -/
theorem abandon_engine (he : s.entry i = some e) (status : Status) {o : Operation}
    (ho : (s.branch e.route.branch).op = some o) (hp : o.isPieceOf i = true)
    (hn : (s.branch e.route.branch).told = none) (hbus : ¬ (s.branch e.route.branch).OffBus) :
    ((s.abandon i status).branch e.route.branch).told = some .unwanted ∧
      ((s.abandon i status).branch e.route.branch).op = some o := by
  have hb := endEntry_branch he status
  have htell := tellUnwanted_engine (s := s.endEntry i .abandoned status) (i := i) (b := e.route.branch) (o := o)
    (by rw [hb]; exact ho) hp (by rw [hb]; exact hn) (by rw [hb]; exact hbus)
  obtain ⟨hslot, hslot'⟩ := slotFreed_engine ((s.endEntry i .abandoned status).tellUnwanted i e.route.branch)
    e.route.branch e.route.branch
  obtain ⟨hroom, hroom'⟩ := roomFreed_engine
    (((s.endEntry i .abandoned status).tellUnwanted i e.route.branch).slotFreed e.route.branch) e.route.branch
  rw [abandon_eq he]
  exact ⟨hroom.trans (hslot.trans htell.1), hroom'.trans (hslot'.trans htell.2)⟩

theorem dropped_no_piece (he : s.entry i = some e) (status : Status) :
    ∀ o ∈ ((s.endEntry i .abandoned status).branch e.route.branch).queue, o.isPieceOf i = false := by
  intro o ho
  rw [endEntry_branch he status] at ho
  simpa using (List.mem_filter.1 ho).2

end

/-- Phases in which an engine is on the bus (R103). -/
theorem not_offBus {br : Branch}
    (h : br.phase ∈ ([.start, .address, .subaddress, .restart, .readData, .stall, .stop] : List Phase)) : ¬ br.OffBus := by
  unfold Branch.OffBus
  generalize br.phase = p at h
  revert p
  decide

/-- Settles O19: the answer takes its place, the entry is abandoned, and what follows is `FollowsAbandon`. -/
theorem cancelOfRead : Obligations.CancelOfRead := by
  intro s rest reqtag target i e h ho hp he hg hf
  set taken : State := s.answeredWith rest { rt := ReqTag.ofByte reqtag, status := .ok, body := .completion 0 }
  have he' : taken.entry i = some e := he
  have hend := endEntry_only taken i .abandoned .cancelled
  have hfollows := abandon_follows he' hf .cancelled
  have hexec : exec .cancel s = .next (taken.abandon i .cancelled).endEvent :=
    exec_cancel_answered h ho (cancelTarget_gathering (s := { s with intake := rest }) hp he hg)
      (cancelTarget_gathering (s := taken) hp he hg)
  obtain ⟨ps, hmine, hps⟩ := hfollows.mine
  refine ⟨taken.abandon i .cancelled, _, hexec, hmine, rfl, rfl, rfl, rfl, rfl, fun p hp => ?_, ?_,
    fun o hop hpiece hn hphase => ?_, ?_, ?_, fun j hj => ?_, ?_, fun hw => ?_⟩
  · obtain ⟨hin, hact⟩ := List.mem_filter.1 (hps p hp)
    exact ⟨of_decide_eq_true hact, hin⟩
  · exact hfollows.queues e.route.branch (dropped_no_piece he' .cancelled)
  · exact abandon_engine he' .cancelled hop hpiece hn (not_offBus hphase)
  · have hi : (taken.endEntry i .abandoned .cancelled).intake = rest := (congrArg State.intake hend :)
    rw [← hi]
    exact hfollows.frames
  · have hr : (taken.endEntry i .abandoned .cancelled).responseQueue = taken.responseQueue :=
      (congrArg State.responseQueue hend :)
    have hrecords := hfollows.records
    rw [hr] at hrecords
    exact hrecords
  · rw [hfollows.others j hj, endEntry_others he' .cancelled hj]
    rfl
  · exact (congrArg (fun x : State => x.withSettle s) (withSettle_trans hfollows.only (withSettle_of_split hend))).trans rfl
  · have hw' : (taken.endEntry i .abandoned .cancelled).headHasWaited = false := (congrArg State.headHasWaited hend :).trans hw
    have hslots := withSlots_trans (hfollows.unwaited hw') (withSlots_of_split hend)
    exact ⟨(congrArg State.responseQueue hslots :), lift (fun x : State => { x with
      intake := s.intake, responseQueue := s.responseQueue }) hslots rfl rfl⟩

end Sys2Proof.Machine
end

section
/-! SUPPORT. The completion buffer and the FINAL frames: what each change of a place, of a branch and of the frame in flight leaves of the
two invariants. -/

namespace Sys2Proof.Machine

/-! ## The occupancy, place by place and branch by branch -/

theorem occupancy_eq (s : State) : s.occupancy =
    (sixteen.map fun i => entryHeld (s.entry i)).sum + (four.map fun b => reservedOf (s.branch b)).sum := by
  unfold State.occupancy
  rw [split_toList, branches_toList, List.map_map, List.map_map]
  rfl

theorem occupancy_le {s t : State} (he : ∀ i, entryHeld (t.entry i) ≤ entryHeld (s.entry i))
    (hb : ∀ b, reservedOf (t.branch b) ≤ reservedOf (s.branch b)) : t.occupancy ≤ s.occupancy := by
  rw [occupancy_eq, occupancy_eq]
  exact Nat.add_le_add (sum_le_of_le _ _ _ fun i _ => he i) (sum_le_of_le _ _ _ fun b _ => hb b)

theorem occupancy_modBranch (s : State) (b : Fin 4) (f : Branch → Branch) :
    (s.modBranch b f).occupancy + reservedOf (s.branch b) = s.occupancy + reservedOf (f (s.branch b)) := by
  have h := sum_change (fun c => reservedOf ((s.modBranch b f).branch c)) (fun c => reservedOf (s.branch c))
    (i := b) (l := four) (by revert b; decide) (by decide) fun c hc => by rw [branch_modBranch_ne _ _ _ _ hc]
  rw [branch_modBranch_same] at h
  rw [occupancy_eq, occupancy_eq]
  simp only [entry_modBranch]
  omega

theorem occupancy_setEntry (s : State) (i : Fin 16) (e : Option SplitEntry) :
    (s.setEntry i e).occupancy + entryHeld (s.entry i) = s.occupancy + entryHeld e := by
  have h := sum_set entryHeld s.split i.val i.isLt e
  unfold State.occupancy State.setEntry State.entry
  dsimp only
  omega

theorem reservedOf_le_one (br : Branch) : reservedOf br ≤ 1 := by
  unfold reservedOf
  split <;> decide

/-! ## Both invariants behind a change -/

/-- State s comes of state r and keeps what r keeps: that FINAL frames come last (R58, R59, R65), and that the completion buffer, the
reserved places included, holds at most 512 bytes (R52, R94). -/
structure FitsAfter (r s : State) : Prop where
  finals : r.FinalsFit → s.FinalsFit
  buffer : r.BufferFits → s.BufferFits

/-- What the entry of a place keeps when it changes: it does not begin to gather, its FINAL frame is neither sent nor unsent, and its
bytes do not grow in number. -/
structure SplitEntry.Keeps (e e' : SplitEntry) : Prop where
  gathering : e'.state = .gathering → e.state = .gathering
  finalSent : e'.finalSent = e.finalSent
  held : e'.held.length ≤ e.held.length

section
variable {r s t : State} {i : Fin 16} {e e' : SplitEntry}

theorem inFlightOf_congr (h : t.sending = s.sending) (i : Fin 16) : t.inFlightOf i = s.inFlightOf i := by
  unfold State.inFlightOf
  rw [h]

theorem finalBegun_eq_false_iff : s.finalBegun i e = false ↔
    e.finalSent = false ∧ ∀ f, s.inFlightOf i = some f → f.final = false := by
  unfold State.finalBegun
  cases s.inFlightOf i <;> simp

theorem FitsAfter.refl (s : State) : FitsAfter s s := ⟨id, id⟩

theorem FitsAfter.foldl {α : Type} {f : State → α → State} (hf : ∀ (u : State) (x : α), FitsAfter r u → FitsAfter r (f u x))
    (xs : List α) (h : FitsAfter r s) : FitsAfter r (xs.foldl f s) := by
  induction xs generalizing s with
  | nil => exact h
  | cons x xs ih => exact ih (hf s x h)

/-- Places taken, or left free, by entries that have begun no more of a FINAL frame than those before them. -/
theorem State.FinalsFit.of_entries (h : s.FinalsFit) (hx : t.sending = s.sending)
    (he : ∀ i e', t.entry i = some e' → ∃ e, s.entry i = some e ∧ (e'.state = .gathering → e.state = .gathering) ∧
      e'.finalSent = e.finalSent)
    (hn : ∀ i, t.entry i = none → s.entry i = none) : t.FinalsFit where
  gathering i e' he' hg := by
    obtain ⟨e, hs, hgs, hf⟩ := he i e' he'
    have hb := finalBegun_eq_false_iff.1 (h.gathering i e hs (hgs hg))
    rw [finalBegun_eq_false_iff, inFlightOf_congr hx, hf]
    exact hb
  once i e' he' hf' := by
    obtain ⟨e, hs, _, hf⟩ := he i e' he'
    rw [inFlightOf_congr hx]
    exact h.once i e hs (hf ▸ hf')
  held i hi := by
    rw [inFlightOf_congr hx]
    exact h.held i (hn i hi)

/-- A change of neither places, branches nor the frame in flight. -/
theorem FitsAfter.same (h : FitsAfter r s) (hs : t.split = s.split) (hb : t.branches = s.branches)
    (hx : t.sending = s.sending) : FitsAfter r t where
  finals hr := (h.finals hr).of_entries hx (fun i e' he' => ⟨e', (entry_of_split hs i).symm.trans he', id, rfl⟩)
    fun i hi => (entry_of_split hs i).symm.trans hi
  buffer hr := by
    have ho : t.occupancy = s.occupancy := by
      unfold State.occupancy
      rw [hs, hb]
    exact ho.trans_le (h.buffer hr)

/-- The branches change, and no engine reserves a place. -/
theorem FitsAfter.ofBranches (h : FitsAfter r s) (hs : t.split = s.split) (hx : t.sending = s.sending)
    (hb : ∀ b, reservedOf (t.branch b) ≤ reservedOf (s.branch b)) : FitsAfter r t where
  finals hr := (h.finals hr).of_entries hx (fun i e' he' => ⟨e', (entry_of_split hs i).symm.trans he', id, rfl⟩)
    fun i hi => (entry_of_split hs i).symm.trans hi
  buffer hr := Nat.le_trans (occupancy_le (fun i => by rw [entry_of_split hs]) hb) (h.buffer hr)

/-- A branch changes, and its engine reserves no place. -/
theorem FitsAfter.modBranch (h : FitsAfter r s) {b : Fin 4} {f : Branch → Branch}
    (hf : ∀ br, reservedOf (f br) ≤ reservedOf br) : FitsAfter r (s.modBranch b f) :=
  h.ofBranches rfl rfl fun c => by
    by_cases hc : c = b
    · subst hc
      rw [branch_modBranch_same]
      exact hf _
    · rw [branch_modBranch_ne _ _ _ _ hc]

/-- The entry of a place changes. -/
theorem FitsAfter.setEntry (h : FitsAfter r s) (he : s.entry i = some e) (hk : e.Keeps e') :
    FitsAfter r (s.setEntry i (some e')) where
  finals hr := by
    refine (h.finals hr).of_entries rfl (fun j x hx => ?_) fun j hj => ?_
    · by_cases hji : j = i
      · subst hji
        rw [entry_setEntry_same] at hx
        cases hx
        exact ⟨e, he, hk.gathering, hk.finalSent⟩
      · rw [entry_setEntry_ne _ _ _ _ hji] at hx
        exact ⟨x, hx, id, rfl⟩
    · by_cases hji : j = i
      · subst hji
        rw [entry_setEntry_same] at hj
        cases hj
      · rwa [entry_setEntry_ne _ _ _ _ hji] at hj
  buffer hr := by
    have ho := occupancy_setEntry s i (some e')
    rw [he] at ho
    simp only [entryHeld] at ho
    have hl := hk.held
    have hs : s.occupancy ≤ 512 := h.buffer hr
    show (s.setEntry i (some e')).occupancy ≤ 512
    omega

theorem FitsAfter.modAttn (h : FitsAfter r s) (b : Fin 4) (f : Attn → Attn) : FitsAfter r (s.modAttn b f) := h.same rfl rfl rfl

theorem FitsAfter.modGroup (h : FitsAfter r s) (g : Fin 7) (f : Group → Group) : FitsAfter r (s.modGroup g f) := h.same rfl rfl rfl

theorem FitsAfter.pushRecord (h : FitsAfter r s) (x : Record) : FitsAfter r (s.pushRecord x) := h.same rfl rfl rfl

/-! ## Flags, free choices, groups, answers -/

theorem FitsAfter.raiseNotice (h : FitsAfter r s) : FitsAfter r s.raiseNotice :=
  have ho := raiseNotice_only s
  h.same (congrArg State.split ho :) (congrArg State.branches ho :) (congrArg State.sending ho :)

theorem FitsAfter.setFlag (h : FitsAfter r s) (f : EventFlag) : FitsAfter r (s.setFlag f) :=
  have ho := setFlag_only s f
  h.same (congrArg State.split ho :) (congrArg State.branches ho :) (congrArg State.sending ho :)

theorem FitsAfter.wakeUp (h : FitsAfter r s) : FitsAfter r s.wakeUp :=
  have ho := wakeUp_only s
  h.same (congrArg State.split ho :) (congrArg State.branches ho :) (congrArg State.sending ho :)

theorem FitsAfter.quiesce (h : FitsAfter r s) : FitsAfter r s.quiesce :=
  have ho := quiesce_only s
  h.same (congrArg State.split ho :) (congrArg State.branches ho :) (congrArg State.sending ho :)

theorem FitsAfter.pick (h : FitsAfter r s) {α : Type} {xs : List α} {x : α} (hp : s.pick xs = some (x, t)) : FitsAfter r t :=
  have ho := pick_only s xs x t hp
  h.same (congrArg State.split ho :) (congrArg State.branches ho :) (congrArg State.sending ho :)

theorem FitsAfter.withGroups (h : FitsAfter r s) (ho : t.withGroups s = s) : FitsAfter r t :=
  h.same (congrArg State.split ho :) (congrArg State.branches ho :) (congrArg State.sending ho :)

theorem FitsAfter.reportMember (h : FitsAfter r s) (member : Option (Fin 7 × Byte)) (ok : Bool) :
    FitsAfter r (s.reportMember member ok) := h.withGroups (reportMember_only s member ok)

theorem FitsAfter.recordFault (h : FitsAfter r s) (b : Fin 4) (o : Operation) (status : Status) :
    FitsAfter r (s.recordFault b o status) :=
  have ho := recordFault_only s b o status
  h.same (congrArg State.split ho :) (congrArg State.branches ho :) (congrArg State.sending ho :)

theorem FitsAfter.addAnswer (h : FitsAfter r s) (b : Fin 4) (x : Record) : FitsAfter r (s.addAnswer b x) := by
  unfold State.addAnswer
  split
  · exact h.pushRecord x
  · exact h.modBranch fun _ => Nat.le_refl _

/-! ## Freed slots and the grant pass -/

/-- The takers of freed slots, the judgement of heads and the grant pass change queues, ISSUED and PIECES alone (R47, R72). -/
theorem FitsAfter.freed (h : FitsAfter r s) (hf : Freed s t) : FitsAfter r t := by
  have hx : t.sending = s.sending := (congrArg State.sending hf.only :)
  have hheld (i : Fin 16) : entryHeld (t.entry i) = entryHeld (s.entry i) := by
    have hi := congrArg entryHeld (hf.entries i)
    have hu (x : Option SplitEntry) : entryHeld (x.map SplitEntry.ungranted) = entryHeld x := by cases x <;> rfl
    rwa [hu, hu] at hi
  have hres (b : Fin 4) : reservedOf (t.branch b) = reservedOf (s.branch b) := (congrArg reservedOf (hf.branches b) :)
  refine ⟨fun hr => (h.finals hr).of_entries hx (fun i e' he' => ?_) fun i hi => ?_,
    fun hr => Nat.le_trans (occupancy_le (fun i => (hheld i).le) fun b => (hres b).le) (h.buffer hr)⟩
  · have hi := hf.entries i
    rw [he'] at hi
    obtain ⟨e, he, hee⟩ := Option.map_eq_some_iff.1 hi.symm
    have hstate : e.state = e'.state := (congrArg SplitEntry.state hee :)
    exact ⟨e, he, fun hg => hstate.trans hg, (congrArg SplitEntry.finalSent hee :).symm⟩
  · have hni := hf.entries i
    rw [hi] at hni
    exact Option.map_eq_none_iff.1 hni.symm

theorem FitsAfter.grantPass (h : FitsAfter r s) : FitsAfter r s.grantPass := h.freed (grantPass_granted s).freed

theorem FitsAfter.judge (h : FitsAfter r s) : FitsAfter r s.judge := h.freed (judge_freed s)

theorem FitsAfter.judgeHead (h : FitsAfter r s) (ht : s.judgeHead = some t) : FitsAfter r t := h.freed (judgeHead_freed ht)

theorem FitsAfter.slotFreed (h : FitsAfter r s) (b : Fin 4) : FitsAfter r (s.slotFreed b) := h.freed (slotFreed_freed s b)

/-- A new entry gathers in a place that was free, so that no frame of the place is in flight (R42, R59). -/
theorem FitsAfter.createEntry (h : FitsAfter r s) (hi : s.entry i = none) (owner : SplitOwner) (route : Route)
    (start length : Nat) : FitsAfter r (s.createEntry i owner route start length) := by
  unfold State.createEntry
  refine FitsAfter.grantPass ⟨fun hr => ?_, fun hr => ?_⟩
  · have hs := h.finals hr
    exact {
      gathering := fun j x hx hg => by
        by_cases hji : j = i
        · subst hji
          have hx' := (entry_setEntry_same s j _).symm.trans hx
          cases hx'
          exact finalBegun_eq_false_iff.2 ⟨rfl, fun f hf => absurd ((hs.held j hi).symm.trans hf) nofun⟩
        · exact hs.gathering j x ((entry_setEntry_ne s i j _ hji).symm.trans hx) hg
      once := fun j x hx hf => by
        by_cases hji : j = i
        · subst hji
          exact hs.held j hi
        · exact hs.once j x ((entry_setEntry_ne s i j _ hji).symm.trans hx) hf
      held := fun j hj => by
        by_cases hji : j = i
        · subst hji
          exact hs.held j hi
        · exact hs.held j ((entry_setEntry_ne s i j _ hji).symm.trans hj) }
  · have ho := occupancy_setEntry s i (some
      { owner := owner, route := route, start := start, length := length, issued := 0, received := 0, sent := 0,
        pieces := [], deadline := s.stamp + s.timeoutClasses[route.timeoutClass.val].setWidth 32, extended := false,
        state := .gathering, finalStatus := none, finalSent := false, held := [] })
    rw [hi] at ho
    exact (show _ = s.occupancy from ho).trans_le (h.buffer hr)

/-! ## Engines that find room -/

/-- An engine reserves a place only where there is room (R94). -/
theorem FitsAfter.reserve (h : FitsAfter r s) (hroom : s.occupancy < 512) (b : Fin 4) (f : Branch → Branch) :
    FitsAfter r (s.modBranch b f) where
  finals hr := (h.finals hr).of_entries rfl (fun i e' he' => ⟨e', he', id, rfl⟩) fun i hi => hi
  buffer _ := by
    have ho := occupancy_modBranch s b f
    have hl := reservedOf_le_one (f (s.branch b))
    show (s.modBranch b f).occupancy ≤ 512
    omega

theorem FitsAfter.endStalls (h : FitsAfter r s) (fuel : Nat) : FitsAfter r (s.endStalls fuel) := by
  induction fuel generalizing s with
  | zero => exact h
  | succ n ih =>
    unfold State.endStalls
    split
    · rename_i hroom
      split
      · exact h
      · rename_i b s' hp
        have ho : s'.occupancy = s.occupancy := (congrArg State.occupancy (pick_only s _ _ _ hp) :)
        exact ih ((h.pick hp).reserve (ho.trans_lt hroom) b _)
    · exact h

theorem FitsAfter.roomFreed (h : FitsAfter r s) : FitsAfter r s.roomFreed := h.endStalls 4

/-! ## Polls -/

theorem FitsAfter.pollUnroutable (h : FitsAfter r s) (b : Fin 4) : FitsAfter r (s.pollUnroutable b) := (h.modAttn b _).setFlag _

theorem entry_of_freePlace (h : s.freePlace = some i) : s.entry i = none := by
  have hi := List.find?_some h
  exact Option.isNone_iff_eq_none.1 hi

theorem FitsAfter.attemptPoll (h : FitsAfter r s) (b : Fin 4) : FitsAfter r (s.attemptPoll b) := by
  unfold State.attemptPoll
  dsimp only
  split
  · exact h.pollUnroutable b
  · split
    · exact h.pollUnroutable b
    · split
      · exact h.modAttn b _
      · rename_i i hi
        exact (h.modAttn b _).createEntry (entry_of_freePlace hi) _ _ _ _

theorem FitsAfter.trigger (h : FitsAfter r s) (b : Fin 4) : FitsAfter r (s.trigger b) := by
  unfold State.trigger
  dsimp only
  split
  · exact h
  · split
    · split
      · split
        · exact h
        · exact h.attemptPoll b
      · exact h.modAttn b _
    · split
      · exact h.modAttn b _
      · exact h

theorem FitsAfter.claimOver (h : FitsAfter r s) (bs : List (Fin 4)) : FitsAfter r (s.claimOver bs) := by
  induction bs generalizing s with
  | nil => exact h
  | cons b rest ih =>
    unfold State.claimOver
    split
    · exact ih (h.attemptPoll b)
    · exact ih h

theorem FitsAfter.claims (h : FitsAfter r s) : FitsAfter r s.claims := by
  unfold State.claims
  split
  · exact h.claimOver four
  · exact h

theorem FitsAfter.endHoldoff (h : FitsAfter r s) (b : Fin 4) : FitsAfter r (s.endHoldoff b) := by
  unfold State.endHoldoff
  dsimp only
  split
  · exact (h.modAttn b _).attemptPoll b
  · split
    · exact (h.modAttn b _).modAttn b _
    · exact h.modAttn b _

theorem FitsAfter.pollFreed (h : FitsAfter r s) (b : Fin 4) : FitsAfter r (s.pollFreed b) := by
  have hm := h.modAttn b fun x => { x with
    status := .holdoff, holdoffTimer := 0, holdoffLength := (s.attn b).holdoff.toNat * 1000 }
  unfold State.pollFreed
  dsimp only
  split
  · exact hm.claims
  · split
    · rename_i hp; exact ((hm.pick hp).endHoldoff b).claims
    · rename_i hp; exact (hm.pick hp).claims.endHoldoff b
    · exact hm

theorem FitsAfter.levelTrigger (h : FitsAfter r s) (b : Fin 4) : FitsAfter r (s.levelTrigger b) := by
  unfold State.levelTrigger
  split
  · exact h.trigger b
  · exact h

theorem FitsAfter.writeAttnFields (h : FitsAfter r s) (b : Fin 4) (store : Attn → Attn) :
    FitsAfter r (s.writeAttnFields b store) := by
  unfold State.writeAttnFields
  dsimp only
  split
  · exact (h.modAttn b _).levelTrigger b
  · exact h.modAttn b _

end

end Sys2Proof.Machine
end

section
/-! SUPPORT. Both invariants through the Split Unit, the transmitter, the end of an event and the engines' runs. -/

namespace Sys2Proof.Machine

section
variable {r s t : State} {i : Fin 16} {e e' : SplitEntry}

/-! ## The Split Unit -/

theorem FitsAfter.dropQueued (h : FitsAfter r s) (i : Fin 16) (b : Fin 4) : FitsAfter r (s.dropQueued i b) :=
  h.modBranch fun _ => Nat.le_refl _

/-- An entry that ends its gathering keeps the bytes of a frame in flight at most (R56, R63). -/
theorem FitsAfter.endEntry (h : FitsAfter r s) (i : Fin 16) {st : EntryState} (hst : st ≠ .gathering) (status : Status) :
    FitsAfter r (s.endEntry i st status) := by
  unfold State.endEntry
  split
  · exact h
  · rename_i e he
    refine FitsAfter.dropQueued (h.setEntry he ?_) i _
    exact ⟨fun hg => absurd hg hst, rfl, List.length_take_le' _ _⟩

/-- A place is freed behind its entry's FINAL frame, of which none is in flight any more (R65). -/
theorem FitsAfter.freeEntry (h : FitsAfter r s) (hf : ∀ e, s.entry i = some e → e.finalSent = true) :
    FitsAfter r (s.freeEntry i) := by
  unfold State.freeEntry
  split
  · exact h
  · rename_i e he
    have hfree : FitsAfter r { s.setEntry i none with ageOrder := s.ageOrder.filter fun j => !(j == i) } := by
      refine ⟨fun hr => ?_, fun hr => ?_⟩
      · have hs := h.finals hr
        have hnone := hs.once i e he (hf e he)
        exact {
          gathering := fun j x hx hg => by
            by_cases hji : j = i
            · subst hji
              exact absurd ((entry_setEntry_same s j none).symm.trans hx) nofun
            · exact hs.gathering j x ((entry_setEntry_ne s i j _ hji).symm.trans hx) hg
          once := fun j x hx hxf => by
            by_cases hji : j = i
            · subst hji
              exact hnone
            · exact hs.once j x ((entry_setEntry_ne s i j _ hji).symm.trans hx) hxf
          held := fun j hj => by
            by_cases hji : j = i
            · subst hji
              exact hnone
            · exact hs.held j ((entry_setEntry_ne s i j _ hji).symm.trans hj) }
      · have ho := occupancy_setEntry s i none
        have hs : s.occupancy ≤ 512 := h.buffer hr
        simp only [entryHeld] at ho
        show (s.setEntry i none).occupancy ≤ 512
        omega
    dsimp only
    split
    · exact hfree.claims
    · exact hfree.pollFreed _

theorem FitsAfter.freeIfDone (h : FitsAfter r s) (i : Fin 16) : FitsAfter r (s.freeIfDone i) := by
  unfold State.freeIfDone
  split
  · exact h
  · rename_i e he
    split
    · rename_i hdone
      refine h.freeEntry fun x hx => ?_
      cases he.symm.trans hx
      exact (Bool.and_eq_true_iff.1 hdone).1
    · exact h

/-- A change of the pieces alone. -/
theorem SplitEntry.Keeps.pieces (e : SplitEntry) (ps : List Piece) : e.Keeps { e with pieces := ps } := ⟨id, rfl, Nat.le_refl _⟩

theorem FitsAfter.closeShort (h : FitsAfter r s) (he : s.entry i = some e) (offset : Nat) :
    FitsAfter r (s.closeShort i e offset) := by
  unfold State.closeShort
  dsimp only
  refine FitsAfter.dropQueued (h.setEntry he ?_) i _
  split <;> exact ⟨nofun, rfl, Nat.le_refl _⟩

theorem FitsAfter.settlePiece (h : FitsAfter r s) (he : s.entry i = some e) (o : Operation) (length : Nat)
    (first : Bool) (status : Status) : FitsAfter r (s.settlePiece i e o length first status) := by
  unfold State.settlePiece
  split
  · split
    · exact h.setEntry he (.pieces e _)
    · split
      · exact h.closeShort he _
      · refine FitsAfter.endEntry ?_ i (by decide) status
        exact h.setEntry he (.pieces e _)
  · exact h.setEntry he (.pieces e _)

theorem FitsAfter.pieceEnd (h : FitsAfter r s) (i : Fin 16) (o : Operation) (length : Nat) (first : Bool)
    (status : Status) : FitsAfter r (s.pieceEnd i o length first status) := by
  unfold State.pieceEnd
  split
  · exact h
  · rename_i e he
    exact ((h.settlePiece he o length first status).slotFreed _).freeIfDone i

theorem FitsAfter.extendDeadline (h : FitsAfter r s) (he : s.entry i = some e) : FitsAfter r (s.extendDeadline i e) := by
  refine FitsAfter.setFlag (h.setEntry he ?_) _
  exact ⟨id, rfl, Nat.le_refl _⟩

/-! ## The transmitter -/

/-- A frame that is no split entry's begins. -/
theorem FitsAfter.send (h : FitsAfter r s) {f : InFlight} (hs : t.split = s.split) (hb : t.branches = s.branches)
    (hx : t.sending = some f) (hf : ∀ i, f.source ≠ .split i) : FitsAfter r t := by
  have hin (i : Fin 16) : t.inFlightOf i = none := by
    unfold State.inFlightOf
    rw [hx]
    exact if_neg (hf i)
  refine ⟨fun hr => ⟨fun i e he hg => ?_, fun i _ _ _ => hin i, fun i _ => hin i⟩, fun hr => ?_⟩
  · have hs' := finalBegun_eq_false_iff.1 ((h.finals hr).gathering i e ((entry_of_split hs i).symm.trans he) hg)
    exact finalBegun_eq_false_iff.2 ⟨hs'.1, fun f hf => absurd ((hin i).symm.trans hf) nofun⟩
  · have ho : t.occupancy = s.occupancy := by
      unfold State.occupancy
      rw [hs, hb]
    exact ho.trans_le (h.buffer hr)

theorem content_final_gathering (hg : e.state = .gathering) : e.content.final = false := by
  unfold SplitEntry.content
  rw [hg]

/-- An entry with a frame ready has not sent its FINAL frame (R57, R65). -/
theorem unsent_of_frameReady (he : s.entry i = some e) (h : s.frameReady i = true) : e.finalSent = false := by
  unfold State.frameReady at h
  rw [he] at h
  simp only [Bool.and_eq_true, Bool.not_eq_true'] at h
  exact h.1.2

/-- The frame of a ready entry begins, and no other place has one in flight; that of a GATHERING entry is not FINAL (R58). -/
theorem FitsAfter.sendSplit (h : FitsAfter r s) (he : s.entry i = some e) (hready : s.frameReady i = true) :
    FitsAfter r (s.sendSplit i e) := by
  have hother {j : Fin 16} (hj : j ≠ i) : (s.sendSplit i e).inFlightOf j = none :=
    if_neg fun hx => hj (SendSource.split.inj hx).symm
  have hfin := unsent_of_frameReady he hready
  refine ⟨fun hr => ⟨fun j x hx hg => ?_, fun j x hx hxf => ?_, fun j hj => ?_⟩, fun hr => h.buffer hr⟩
  · have hold := finalBegun_eq_false_iff.1 ((h.finals hr).gathering j x hx hg)
    refine finalBegun_eq_false_iff.2 ⟨hold.1, fun f hf => ?_⟩
    by_cases hji : j = i
    · subst hji
      cases he.symm.trans hx
      have hmine : (s.sendSplit j e).inFlightOf j = some _ := if_pos rfl
      cases hmine.symm.trans hf
      exact content_final_gathering hg
    · exact absurd ((hother hji).symm.trans hf) nofun
  · refine hother fun hji => ?_
    subst hji
    cases he.symm.trans hx
    exact absurd (hfin.symm.trans hxf) nofun
  · refine hother fun hji => ?_
    subst hji
    exact absurd (he.symm.trans hj) nofun

theorem FitsAfter.beginFrame (h : FitsAfter r s) : FitsAfter r s.beginFrame := by
  unfold State.beginFrame
  split
  · split
    · exact h.send rfl rfl rfl nofun
    · split
      · exact h.send rfl rfl rfl nofun
      · split
        · exact h
        · rename_i i hi
          split
          · exact h
          · rename_i e he
            exact h.sendSplit he (List.find?_some hi)
  · exact h

/-! ## What follows at once -/

theorem beginAttempt_reserved (br : Branch) (o : Operation) : reservedOf (br.beginAttempt o) = 0 := by
  unfold Branch.beginAttempt
  split
  · split <;> rfl
  · rfl

theorem FitsAfter.takeOp (h : FitsAfter r s) (b : Fin 4) (o : Operation) (rest : List Operation) :
    FitsAfter r (s.takeOp b o rest) := by
  have hm := h.modBranch (b := b) (f := fun br => Branch.beginAttempt
    { br with queue := rest, op := some o, retryCount := 0, lastCause := .absent, told := none } o)
    fun br => (beginAttempt_reserved _ o).trans_le (Nat.zero_le _)
  unfold State.takeOp
  dsimp only
  split
  · rename_i i _ _ _
    cases he : (s.modBranch b _).entry i with
    | none =>
      refine hm.same ?_ rfl rfl
      exact Vector.ext fun k hk => by
        by_cases hki : k = i.val
        · subst hki
          simpa [State.setEntry, State.entry] using he.symm
        · simp [State.setEntry, Ne.symm hki]
    | some e => exact hm.setEntry he (.pieces e _)
  · exact hm

theorem FitsAfter.takeNext (h : FitsAfter r s) (b : Fin 4) : FitsAfter r (s.takeNext b) := by
  unfold State.takeNext
  split
  · exact h
  · exact (h.takeOp b _ _).slotFreed b

theorem FitsAfter.postNext (h : FitsAfter r s) (b : Fin 4) : FitsAfter r (s.postNext b) := by
  unfold State.postNext
  split
  · exact h
  · exact (h.pushRecord _).modBranch fun _ => Nat.le_refl _

theorem FitsAfter.follow (h : FitsAfter r s) (f : Follow) : FitsAfter r (s.follow f) := by
  cases f with
  | take b => exact h.takeNext b
  | post b => exact h.postNext b
  | judge => exact h.judge

theorem FitsAfter.settleIn (h : FitsAfter r s) (fuel : Nat) : FitsAfter r (s.settleIn fuel) := by
  induction fuel generalizing s with
  | zero => exact h
  | succ n ih =>
    unfold State.settleIn
    split
    · exact h
    · rename_i hp; exact ih ((h.pick hp).follow _)

theorem FitsAfter.settle (h : FitsAfter r s) : FitsAfter r s.settle := h.settleIn _

theorem FitsAfter.endEvent (h : FitsAfter r s) : FitsAfter r s.endEvent := h.settle.beginFrame.settle.quiesce

/-! ## Runs of the engines -/

theorem FitsAfter.handOn (h : FitsAfter r s) (b : Fin 4) (o : Operation) (status : Status) (dataDone : Nat) :
    FitsAfter r (s.handOn b o status dataDone) := by
  unfold State.handOn
  split
  · exact h.pieceEnd _ o _ _ status
  · split
    · exact h
    · exact h.recordFault b o status
  · exact h.addAnswer b _
  · dsimp only
    split
    · exact h.addAnswer b _
    · exact (h.addAnswer b _).reportMember _ _

theorem afterRun_reserved (br : Branch) (stuck : Bool) : reservedOf (br.afterRun stuck) = reservedOf br := by
  unfold Branch.afterRun
  split <;> rfl

theorem FitsAfter.endRun (h : FitsAfter r s) (b : Fin 4) (status : Status) (stuck : Bool) :
    FitsAfter r (s.endRun b status stuck) := by
  unfold State.endRun
  split
  · exact h
  · have hd : FitsAfter r (s.modBranch b Branch.dropOp) := h.modBranch fun _ => Nat.zero_le _
    exact ((hd.handOn b _ status _).modBranch fun br => (afterRun_reserved br stuck).le).roomFreed

theorem FitsAfter.tellEnd (h : FitsAfter r s) (b : Fin 4) (cause : EndCause) : FitsAfter r (s.tellEnd b cause) := by
  unfold State.tellEnd
  dsimp only
  split
  · exact h
  · split
    · exact h.endRun b _ _
    · exact FitsAfter.roomFreed (h.modBranch fun _ => Nat.zero_le _)

theorem FitsAfter.tellUnwanted (h : FitsAfter r s) (i : Fin 16) (b : Fin 4) : FitsAfter r (s.tellUnwanted i b) := by
  unfold State.tellUnwanted
  split
  · exact h
  · split
    · exact h.tellEnd b _
    · exact h

theorem FitsAfter.abandon (h : FitsAfter r s) (i : Fin 16) (status : Status) : FitsAfter r (s.abandon i status) := by
  unfold State.abandon
  split
  · exact h
  · exact (((h.endEntry i (by decide) status).tellUnwanted i _).slotFreed _).roomFreed

theorem FitsAfter.expire (h : FitsAfter r s) (i : Fin 16) : FitsAfter r (s.expire i) := by
  unfold State.expire
  split
  · exact h
  · rename_i he
    split
    · split
      · exact h.extendDeadline he
      · exact (h.abandon i _).setFlag _
    · exact h

theorem seeOther_reserved (br : Branch) : reservedOf br.seeOther = reservedOf br := by
  unfold Branch.seeOther
  split <;> rfl

theorem beginPause_reserved (br : Branch) (o : Operation) : reservedOf (br.beginPause o) = 0 := by
  unfold Branch.beginPause
  split
  · exact beginAttempt_reserved br o
  · rfl

theorem FitsAfter.afterLoss (h : FitsAfter r s) (b : Fin 4) (o : Operation) : FitsAfter r (s.afterLoss b o) := by
  unfold State.afterLoss
  split
  · exact h.endRun b _ _
  · exact FitsAfter.roomFreed (h.modBranch fun _ => Nat.zero_le _)

theorem FitsAfter.loseArbitration (h : FitsAfter r s) (b : Fin 4) : FitsAfter r (s.loseArbitration b) := by
  have hr : FitsAfter r (s.modBranch b Branch.release) := h.modBranch fun _ => Nat.zero_le _
  unfold State.loseArbitration
  dsimp only
  split
  · exact h
  · split
    · split
      · exact hr.endRun b _ _
      · split
        · split
          · exact hr.endRun b _ _
          · exact hr.endRun b _ _
          · refine FitsAfter.afterLoss ?_ b _
            exact hr.modBranch fun _ => Nat.le_refl _
        · refine FitsAfter.afterLoss ?_ b _
          exact hr.modBranch fun _ => Nat.le_refl _
    · exact h

theorem FitsAfter.otherStart (h : FitsAfter r s) (b : Fin 4) : FitsAfter r (s.otherStart b) := by
  unfold State.otherStart
  dsimp only
  split
  · exact h.modBranch fun _ => Nat.zero_le _
  · split
    · exact h.loseArbitration b
    · split
      · exact h
      · refine h.modBranch fun br => ?_
        by_cases hfree : br.bus = .free
        · rw [if_pos hfree]
          exact (seeOther_reserved br).le
        · rw [if_neg hfree]
          exact Nat.le_refl _

theorem FitsAfter.ownStart (h : FitsAfter r s) (b : Fin 4) : FitsAfter r (s.ownStart b) := by
  unfold State.ownStart
  split
  · exact h.modBranch fun _ => Nat.le_refl _
  · exact h

theorem FitsAfter.leaveBusyOther (h : FitsAfter r s) (b : Fin 4) : FitsAfter r (s.leaveBusyOther b) := by
  unfold State.leaveBusyOther
  split
  · exact h
  · split
    · exact h.modBranch fun br => (beginAttempt_reserved br _).trans_le (Nat.zero_le _)
    · exact h

theorem FitsAfter.otherStop (h : FitsAfter r s) (b : Fin 4) : FitsAfter r (s.otherStop b) := by
  unfold State.otherStop
  split
  · exact h
  · refine FitsAfter.leaveBusyOther ?_ b
    exact (h.loseArbitration b).modBranch fun _ => Nat.le_refl _

theorem FitsAfter.ownStop (h : FitsAfter r s) (b : Fin 4) : FitsAfter r (s.ownStop b) := by
  have hs : FitsAfter r (s.modBranch b Branch.seeStop) := h.modBranch fun _ => Nat.le_refl _
  unfold State.ownStop
  dsimp only
  split
  · exact h
  · split
    · split
      · exact hs.endRun b _ _
      · split
        · exact hs.endRun b _ _
        · exact hs.endRun b _ _
        · split
          · exact hs.endRun b _ _
          · exact hs.modBranch fun br => (beginPause_reserved br _).trans_le (Nat.zero_le _)
    · exact h

/-! ## Bytes and clocks -/

theorem toWriteData_reserved (br : Branch) (o : Operation) : reservedOf (br.toWriteData o) = reservedOf br := by
  unfold Branch.toWriteData
  split <;> rfl

theorem ackSubaddress_reserved (br : Branch) (o : Operation) : reservedOf (br.ackSubaddress o) = reservedOf br := by
  unfold Branch.ackSubaddress
  dsimp only
  split
  · rfl
  · split
    · rfl
    · split
      · rfl
      · exact toWriteData_reserved _ o

theorem ackData_reserved (br : Branch) (o : Operation) : reservedOf (br.ackData o) = reservedOf br := by
  unfold Branch.ackData
  dsimp only
  split
  · rfl
  · split <;> rfl

theorem endClear_reserved (br : Branch) (stopMade : Bool) : reservedOf (br.endClear stopMade) = reservedOf br := by
  unfold Branch.endClear
  dsimp only
  split <;> rfl

/-- Before a byte that will be stored the engine reserves a place where there is room, and else reserves none (R94). -/
theorem FitsAfter.beginReadByte (h : FitsAfter r s) (b : Fin 4) (i : Fin 16) (o : Operation) :
    FitsAfter r (s.beginReadByte b i o) := by
  unfold State.beginReadByte
  dsimp only
  by_cases hroom : s.occupancy < Config.bufferBytes
  · exact h.reserve hroom b _
  · refine h.modBranch fun br => ?_
    rw [decide_eq_false hroom, Bool.and_false]
    exact Nat.zero_le _

theorem FitsAfter.ackAddress (h : FitsAfter r s) (b : Fin 4) (o : Operation) : FitsAfter r (s.ackAddress b o) := by
  have ha : FitsAfter r (s.modBranch b fun br => { br with
    stretchCounter := 0, progress := { br.progress with addressAcked := true } }) := h.modBranch fun _ => Nat.le_refl _
  unfold State.ackAddress
  dsimp only
  split
  · exact ha.modBranch fun _ => Nat.le_refl _
  · split
    · split
      · exact ha.beginReadByte b _ o
      · exact ha
    · split
      · exact ha.modBranch fun br => (toWriteData_reserved br o).le
      · exact ha.modBranch fun _ => Nat.le_refl _

/-- The engine of a branch behind a byte of its piece: one more has been received, and its place is no longer reserved. -/
def Branch.byteDone (br : Branch) : Branch :=
  { br with
    stretchCounter := 0, progress := { br.progress with reserved := false, dataDone := br.progress.dataDone + 1 } }

/-- An entry with one more byte; the last one takes it to DELIVERING with OK (R51, R53). -/
def SplitEntry.withByte (e : SplitEntry) (byte : Byte) : SplitEntry :=
  { e with
    received := e.received + 1, held := e.held ++ [byte]
    state := if e.received + 1 = e.length then .delivering else e.state
    finalStatus := if e.received + 1 = e.length then some .ok else e.finalStatus }

theorem storeByte_eq (he : s.entry i = some e) (byte : Byte) : s.storeByte i byte = s.setEntry i (some (e.withByte byte)) := by
  unfold State.storeByte SplitEntry.withByte
  rw [he]
  dsimp only
  split <;> rfl

/-- A byte stored takes the place that was reserved for it, and the occupancy stays (R51, R94). -/
theorem occupancy_withByte {b : Fin 4} (hres : (s.branch b).progress.reserved = true) (he : s.entry i = some e) (byte : Byte) :
    ((s.setEntry i (some (e.withByte byte))).modBranch b Branch.byteDone).occupancy = s.occupancy := by
  have hplace := occupancy_setEntry s i (some (e.withByte byte))
  have hbranch := occupancy_modBranch (s.setEntry i (some (e.withByte byte))) b Branch.byteDone
  have hone : reservedOf (s.branch b) = 1 := if_pos hres
  have hzero : reservedOf (s.branch b).byteDone = 0 := rfl
  have hheld : entryHeld (some (e.withByte byte)) = e.held.length + 1 := List.length_append
  rw [he] at hplace
  rw [branch_setEntry] at hbranch
  simp only [entryHeld] at hplace hheld
  omega

theorem FitsAfter.storeByte (h : FitsAfter r s) {b : Fin 4} (hres : (s.branch b).progress.reserved = true) (i : Fin 16)
    (byte : Byte) : FitsAfter r ((s.storeByte i byte).modBranch b Branch.byteDone) := by
  cases he : s.entry i with
  | none =>
    have hs : s.storeByte i byte = s := by
      unfold State.storeByte
      rw [he]
    rw [hs]
    exact h.modBranch fun _ => Nat.zero_le _
  | some e =>
    rw [storeByte_eq he]
    refine ⟨fun hr => (h.finals hr).of_entries rfl (fun j x hx => ?_) fun j hj => ?_, fun hr =>
      (occupancy_withByte hres he byte).trans_le (h.buffer hr)⟩
    · rw [entry_modBranch] at hx
      by_cases hji : j = i
      · subst hji
        rw [entry_setEntry_same] at hx
        cases hx
        refine ⟨e, he, fun hg => ?_, rfl⟩
        by_cases hlast : e.received + 1 = e.length
        · exact absurd ((if_pos hlast).symm.trans hg) nofun
        · exact (if_neg hlast).symm.trans hg
      · rw [entry_setEntry_ne _ _ _ _ hji] at hx
        exact ⟨x, hx, id, rfl⟩
    · rw [entry_modBranch] at hj
      by_cases hji : j = i
      · subst hji
        rw [entry_setEntry_same] at hj
        cases hj
      · rwa [entry_setEntry_ne _ _ _ _ hji] at hj

theorem FitsAfter.receiveData (h : FitsAfter r s) (b : Fin 4) (o : Operation) (i : Fin 16) (length : Nat) (byte : Byte) :
    FitsAfter r (s.receiveData b o i length byte) := by
  unfold State.receiveData
  dsimp only
  split
  · exact FitsAfter.roomFreed (h.modBranch fun _ => Nat.zero_le _)
  · cases hstores : ((s.branch b).progress.reserved && s.byteWanted i (o.offset + (s.branch b).progress.dataDone))
    · have hd : FitsAfter r (s.modBranch b Branch.byteDone) := h.modBranch fun _ => Nat.zero_le _
      split
      · exact (hd.roomFreed).beginReadByte b i o
      · exact (hd.roomFreed).modBranch fun _ => Nat.le_refl _
    · have hd := h.storeByte (Bool.and_eq_true_iff.1 hstores).1 i byte
      split
      · exact hd.beginReadByte b i o
      · exact hd.modBranch fun _ => Nat.le_refl _

theorem FitsAfter.judgeClock (h : FitsAfter r s) (b : Fin 4) : FitsAfter r (s.judgeClock b) := by
  have hf := h.setFlag .branchStuck
  unfold State.judgeClock
  dsimp only
  split
  · split
    · exact hf.modBranch fun br => (endClear_reserved br false).le
    · split
      · exact hf
      · exact hf.endRun b _ _
  · exact h

theorem FitsAfter.judgeBusy (h : FitsAfter r s) (b : Fin 4) : FitsAfter r (s.judgeBusy b) := by
  unfold State.judgeBusy
  split
  · refine FitsAfter.setFlag ?_ _
    exact h.modBranch fun _ => Nat.le_refl _
  · exact h

end

end Sys2Proof.Machine
end

section
/-! SUPPORT. Both invariants through the Release Unit, the resets, the management space, Intake, the end of a send and every step. -/

namespace Sys2Proof.Machine

section
variable {r s t : State} {i : Fin 16} {e : SplitEntry}

/-! ## The Release Unit -/

theorem FitsAfter.markDue (h : FitsAfter r s) : FitsAfter r s.markDue :=
  have ho := markDue_only s
  h.same (congrArg State.split ho :) (congrArg State.branches ho :) (congrArg State.sending ho :)

theorem FitsAfter.insertEntry (h : FitsAfter r s) (x : ReleaseEntry) : FitsAfter r (s.insertEntry x) :=
  FitsAfter.markDue (h.same rfl rfl rfl)

theorem FitsAfter.releaseRow (h : FitsAfter r s) (row : Instr) : FitsAfter r (s.releaseRow row) := by
  unfold State.releaseRow
  split
  · split
    · exact h
    · rename_i ht; exact (h.judgeHead ht).judge.endEvent
  · exact h

theorem FitsAfter.expireEach (h : FitsAfter r s) (due : List (Fin 16)) (fuel : Nat) : FitsAfter r (s.expireEach due fuel) := by
  induction fuel generalizing s due with
  | zero => exact h
  | succ n ih =>
    unfold State.expireEach
    split
    · exact h
    · rename_i i s' hp; exact ih ((h.pick hp).expire i) _
    · rename_i s' hp
      refine ih ?_ due
      cases ht : s'.judgeHead with
      | none => exact h.pick hp
      | some u => exact (h.pick hp).judgeHead ht

theorem FitsAfter.writeStamp (h : FitsAfter r s) (value : Stamp) : FitsAfter r (s.writeStamp value) := by
  unfold State.writeStamp
  refine FitsAfter.expireEach (FitsAfter.markDue ?_) _ _
  exact h.same rfl rfl rfl

/-! ## Resets -/

theorem FitsAfter.removeByReset (h : FitsAfter r s) (b : Fin 4) (o : Operation) : FitsAfter r (s.removeByReset b o) := by
  unfold State.removeByReset
  split
  · exact h
  · exact h.recordFault b o _
  · exact h.addAnswer b _
  · exact (h.addAnswer b _).reportMember _ _

theorem FitsAfter.emptyQueue (h : FitsAfter r s) (b : Fin 4) : FitsAfter r (s.modBranch b fun br => { br with queue := [] }) :=
  h.modBranch fun _ => Nat.le_refl _

theorem FitsAfter.resetQueue (h : FitsAfter r s) (b : Fin 4) : FitsAfter r (s.resetQueue b) := by
  have h1 := FitsAfter.foldl (f := fun t i => t.endEntry i .closing .branchReset)
    (fun _ i hu => hu.endEntry i (by decide) _) (s.gatheringOn b) h
  have hf {u : State} (hu : FitsAfter r u) : FitsAfter r { u with fault := none } := hu.same rfl rfl rfl
  have h2 := FitsAfter.foldl (f := fun t o => t.removeByReset b o) (fun _ o hu => hu.removeByReset b o)
    (s.branch b).queue (hf (h1.emptyQueue b))
  unfold State.resetQueue
  exact h2.modAttn b _

theorem FitsAfter.resetEngine (h : FitsAfter r s) (b : Fin 4) : FitsAfter r (s.resetEngine b) := by
  unfold State.resetEngine
  dsimp only
  split
  · exact h
  · split
    · refine FitsAfter.tellEnd ?_ b _
      exact h.modBranch fun _ => Nat.le_refl _
    · split
      · exact h.modBranch fun _ => Nat.le_refl _
      · exact h.modBranch fun _ => Nat.le_refl _

theorem FitsAfter.branchReset (h : FitsAfter r s) (b : Fin 4) : FitsAfter r (s.branchReset b) :=
  ((h.resetQueue b).resetEngine b).grantPass.roomFreed

theorem FitsAfter.enableBranch (h : FitsAfter r s) (b : Fin 4) : FitsAfter r (s.enableBranch b) := by
  unfold State.enableBranch
  split
  · exact h
  · refine h.modBranch fun br => ?_
    dsimp only
    split <;> exact Nat.le_refl _

theorem FitsAfter.disableBranch (h : FitsAfter r s) (b : Fin 4) : FitsAfter r (s.disableBranch b) := by
  unfold State.disableBranch
  split
  · refine FitsAfter.branchReset ?_ b
    exact h.modBranch fun _ => Nat.le_refl _
  · exact h

theorem FitsAfter.writeBranchControl (h : FitsAfter r s) (b : Fin 4) (enabled : Bool) (rate : Rate) :
    FitsAfter r (s.writeBranchControl b enabled rate) := by
  have hr : FitsAfter r (s.modBranch b fun br => { br with rate := rate }) := h.modBranch fun _ => Nat.le_refl _
  unfold State.writeBranchControl
  dsimp only
  split
  · exact hr.enableBranch b
  · exact hr.disableBranch b

theorem FitsAfter.removeByOffline (h : FitsAfter r s) (b : Fin 4) (o : Operation) : FitsAfter r (s.removeByOffline b o) := by
  unfold State.removeByOffline
  split
  · exact h
  · exact h
  · exact h.addAnswer b _
  · exact h.addAnswer b _

theorem FitsAfter.abortQueue (h : FitsAfter r s) (b : Fin 4) : FitsAfter r (s.abortQueue b) :=
  FitsAfter.foldl (f := fun t o => t.removeByOffline b o) (fun _ o hu => hu.removeByOffline b o) _ (h.emptyQueue b)

theorem FitsAfter.enterOffline (h : FitsAfter r s) : FitsAfter r s.enterOffline := by
  have h0 : FitsAfter r { s with opState := .offline } := h.same rfl rfl rfl
  have h1 := FitsAfter.foldl (f := fun t i => t.endEntry i .abandoned .aborted) (fun _ i hu => hu.endEntry i (by decide) _)
    (sixteen.filter (State.abortable { s with opState := .offline })) h0
  have h2 := FitsAfter.foldl (f := fun t b => t.abortQueue b) (fun _ b hu => hu.abortQueue b) four h1
  have h3 {u : State} (hu : FitsAfter r u) (v : Vector Attn 4) : FitsAfter r { u.idleGroups with attns := v } :=
    hu.same rfl rfl rfl
  exact (FitsAfter.foldl (f := fun t b => t.tellEnd b .aborted) (fun _ b hu => hu.tellEnd b _) four
    (h3 h2 _)).grantPass.roomFreed

/-- After a reset every place is free, no frame is in flight, and no engine reserves a place. -/
theorem FitsAfter.resetTo (r : State) (straps : Straps) (opState : OpState) (holdIn : Bool) (inputs : Vector Bool 4)
    (pending : List Instr) (freeCount : Nat) :
    FitsAfter r (State.resetTo straps opState holdIn inputs pending freeCount) := by
  have he (i : Fin 16) : (State.resetTo straps opState holdIn inputs pending freeCount).entry i = none :=
    Vector.getElem_replicate i.isLt
  have hb (b : Fin 4) : (State.resetTo straps opState holdIn inputs pending freeCount).branch b = Branch.reset :=
    Vector.getElem_replicate b.isLt
  refine ⟨fun _ => ⟨fun i e hi _ => ?_, fun i e hi _ => ?_, fun i _ => rfl⟩, fun _ => ?_⟩
  · exact absurd ((he i).symm.trans hi) nofun
  · exact absurd ((he i).symm.trans hi) nofun
  · show State.occupancy _ ≤ 512
    rw [occupancy_eq]
    simp only [he, hb]
    decide

theorem FitsAfter.bridgeReset (r s : State) : FitsAfter r s.bridgeReset := .resetTo r _ _ _ _ _ _

/-! ## Register writes -/

/-- The state that a word leaves, when it is applied, keeps both invariants. -/
def WordOutcome.FitsAfter (r : State) : WordOutcome → Prop
  | .applied t => Machine.FitsAfter r t
  | .stops _ => True

theorem FitsAfter.writeState (h : FitsAfter r s) (v : Nat) : (s.writeState v).FitsAfter r := by
  have hs (o : OpState) : Machine.FitsAfter r { s with opState := o } := h.same rfl rfl rfl
  have hi : Machine.FitsAfter r { s with intakeStopped := true } := h.same rfl rfl rfl
  unfold State.writeState
  split
  · split
    · exact hs _
    · exact hi
    · exact h
  · split
    · exact hs _
    · trivial
    · exact h
  · trivial
  · split
    · exact h.enterOffline
    · exact h.enterOffline
    · exact h
  · trivial
  · exact h

theorem FitsAfter.writeResetCommand (h : FitsAfter r s) (v : Nat) : (s.writeResetCommand v).FitsAfter r := by
  have hi : Machine.FitsAfter r { s with intakeStopped := true } := h.same rfl rfl rfl
  unfold State.writeResetCommand
  split
  · exact h
  · exact hi
  · exact h.branchReset 0
  · exact h.branchReset 1
  · exact h.branchReset 2
  · exact h.branchReset 3
  · trivial

theorem FitsAfter.writeCommitLimit (h : FitsAfter r s) (v : Nat) : FitsAfter r (s.writeCommitLimit v) := by
  unfold State.writeCommitLimit
  refine FitsAfter.grantPass ?_
  exact h.same rfl rfl rfl

theorem FitsAfter.writeNoticeMask (h : FitsAfter r s) (w : Word) : FitsAfter r (s.writeNoticeMask w) := by
  have hm : FitsAfter r { s with noticeMask := w.setWidth 11 } := h.same rfl rfl rfl
  unfold State.writeNoticeMask
  dsimp only
  split
  · exact hm.raiseNotice
  · exact hm

theorem FitsAfter.writeNoticeArm (h : FitsAfter r s) (w : Word) : FitsAfter r (s.writeNoticeArm w) := by
  have hm : FitsAfter r { s with noticeArm := w.getLsbD 0 } := h.same rfl rfl rfl
  unfold State.writeNoticeArm
  dsimp only
  split
  · exact hm.raiseNotice
  · exact hm

theorem byteField_fitsAfter {w : Word} {store : Byte → State} (h : ∀ x, FitsAfter r (store x)) :
    (byteField w store).FitsAfter r := by
  unfold byteField
  split
  · trivial
  · exact h _

theorem FitsAfter.writeControl (h : FitsAfter r s) (b : Fin 4) (w : Word) : (s.writeControl b w).FitsAfter r := by
  unfold State.writeControl
  split
  · trivial
  · exact h.writeBranchControl b _ _

theorem FitsAfter.writeAttnWord (h : FitsAfter r s) (b : Fin 4) (w : Word) : (s.writeAttnWord b w).FitsAfter r := by
  have hc (mode : AttnMode) : Machine.FitsAfter r (s.writeAttnControl b (w.getLsbD 0) mode (w.getLsbD 3)) :=
    (h.modAttn b _).levelTrigger b
  unfold State.writeAttnWord
  split
  · exact hc _
  · exact hc _
  · trivial

theorem FitsAfter.writeAttnSize (h : FitsAfter r s) (b : Fin 4) (w : Word) : (s.writeAttnSize b w).FitsAfter r := by
  unfold State.writeAttnSize
  dsimp only
  split
  · trivial
  · exact h.writeAttnFields b _

theorem FitsAfter.writeGroupCommand (h : FitsAfter r s) (g : Fin 7) (v : Nat) : (s.writeGroupCommand g v).FitsAfter r := by
  unfold State.writeGroupCommand
  split
  · unfold State.openGroup
    by_cases hs : (s.group g).state = .idle
    · rw [if_pos hs]
      exact h.modGroup g _
    · rw [if_neg hs]
      trivial
  · unfold State.closeGroup
    by_cases hs : (s.group g).state = .collecting
    · rw [if_pos hs]
      exact (h.modGroup g _).withGroups (fireIfComplete_only _ g)
    · rw [if_neg hs]
      trivial
  · exact h.modGroup g _
  · trivial

theorem FitsAfter.writeGroupAction (h : FitsAfter r s) (g : Fin 7) (w : Word) : (s.writeGroupAction g w).FitsAfter r := by
  unfold State.writeGroupAction
  split
  · exact h.modGroup g _
  · trivial

theorem FitsAfter.writeGroupWidth (h : FitsAfter r s) (g : Fin 7) (w : Word) : (s.writeGroupWidth g w).FitsAfter r := by
  unfold State.writeGroupWidth
  split
  · trivial
  · exact h.modGroup g _

/-- Every word by its register: those that end entries, runs or places by their own lemmas, and the rest change a field that neither
invariant reads. -/
theorem FitsAfter.writeWord (h : FitsAfter r s) (x : Register) (w : Word) : (s.writeWord x w).FitsAfter r := by
  cases x with
  | state => exact h.writeState _
  | resetCommand => exact h.writeResetCommand _
  | commitLimit => exact h.writeCommitLimit _
  | timeoutClass c =>
    simp only [State.writeWord]
    split
    · trivial
    · exact h.same rfl rfl rfl
  | tickShift =>
    simp only [State.writeWord]
    split
    · trivial
    · exact h.same rfl rfl rfl
  | stamp => exact h.writeStamp w
  | lateWindow =>
    simp only [State.writeWord]
    split
    · trivial
    · exact h.same rfl rfl rfl
  | eventFlags => exact h.same rfl rfl rfl
  | noticeMask => exact h.writeNoticeMask w
  | noticeArm => exact h.writeNoticeArm w
  | fault word =>
    simp only [State.writeWord]
    split
    · exact h.same rfl rfl rfl
    · exact h
  | branchControl b => exact h.writeControl b w
  | branchGap b =>
    have hs (x : Byte) : FitsAfter r (s.modBranch b fun br => { br with gap := x }) := h.modBranch fun _ => Nat.le_refl _
    exact byteField_fitsAfter hs
  | branchPause b =>
    have hs (x : Byte) : FitsAfter r (s.modBranch b fun br => { br with retryPause := x }) := h.modBranch fun _ => Nat.le_refl _
    exact byteField_fitsAfter hs
  | branchStretch b =>
    refine byteField_fitsAfter fun _ => FitsAfter.judgeClock ?_ b
    exact h.modBranch fun _ => Nat.le_refl _
  | branchBusy b =>
    refine byteField_fitsAfter fun _ => FitsAfter.judgeBusy ?_ b
    exact h.modBranch fun _ => Nat.le_refl _
  | attnControl b => exact h.writeAttnWord b w
  | attnPlace b => exact h.writeAttnFields b _
  | attnSize b => exact h.writeAttnSize b w
  | groupCommand g => exact h.writeGroupCommand g _
  | groupAction g => exact h.writeGroupAction g w
  | groupWidth g => exact h.writeGroupWidth g w
  | _ => exact h

theorem FitsAfter.writeWords (h : FitsAfter r s) (address k : Nat) (words : List Word) :
    FitsAfter r (s.writeWords address k words).state := by
  induction words generalizing s k with
  | nil => exact h
  | cons w rest ih =>
    unfold State.writeWords
    split
    · exact h
    · rename_i x _
      split
      · exact h
      · rename_i u hu
        have hw := h.writeWord x w
        rw [hu] at hw
        refine ih ?_ (k + 1)
        unfold State.betweenWords
        split
        · exact hw
        · exact FitsAfter.settle hw

theorem FitsAfter.mgmtWrite (h : FitsAfter r s) (rt : ReqTag) (bridgeNumber : BitVec 3) (address : Nat)
    (words : List Word) : FitsAfter r (s.mgmtWrite rt bridgeNumber address words) := by
  have h0 : FitsAfter r { s with bridgeNumber := bridgeNumber, intake := [] } := h.same rfl rfl rfl
  exact ((h0.pushRecord (mgmtCompletion rt .ok 0 [])).writeWords address 0 words).same rfl rfl rfl

theorem FitsAfter.readEffect (h : FitsAfter r s) (x : Register) : FitsAfter r (s.readEffect x) := by
  unfold State.readEffect
  split
  · exact h.modBranch fun _ => Nat.le_refl _
  · exact h

theorem FitsAfter.mgmtRead (h : FitsAfter r s) (rt : ReqTag) (address words : Nat) :
    FitsAfter r (s.mgmtRead rt address words) := by
  unfold State.mgmtRead
  split
  · exact h.pushRecord _
  · exact (FitsAfter.foldl (f := State.readEffect) (fun _ x hu => hu.readEffect x) _ h).pushRecord _

/-! ## Reception and decisions -/

theorem FitsAfter.placeFrame (h : FitsAfter r s) (f : Frame) : FitsAfter r (s.placeFrame f) := by
  unfold State.placeFrame
  split
  · refine FitsAfter.wakeUp ?_
    exact h.same rfl rfl rfl
  · exact h.setFlag _

theorem FitsAfter.scan (h : FitsAfter r s) (bytes : List Byte) (fuel : Nat) : FitsAfter r (s.scan bytes fuel) := by
  have hrx {u : State} (hu : FitsAfter r u) (x : Receiver) : FitsAfter r { u with rx := x } := hu.same rfl rfl rfl
  induction fuel generalizing s bytes with
  | zero => exact h
  | succ n ih =>
    unfold State.scan
    split
    · exact hrx h _
    · split
      · exact ih h _
      · split
        · dsimp only
          split
          · exact hrx h _
          · split
            · exact ih (h.placeFrame _) _
            · exact ih (h.setFlag _) _
        · exact hrx h _

theorem FitsAfter.receive (h : FitsAfter r s) (bytes : List Byte) : FitsAfter r (s.receive bytes) := h.scan _ _

/-- The state that a decision leaves, when it takes the frame, keeps both invariants. -/
def Decision.FitsAfter (r : State) : Decision → Prop
  | .refuse _ => True
  | .answer t => Machine.FitsAfter r t
  | .accept t => Machine.FitsAfter r t

theorem FitsAfter.decideRead (h : FitsAfter r s) (rt : ReqTag) (ldn : Byte) (offset length : Nat) :
    (s.decideRead rt ldn offset length).FitsAfter r := by
  unfold State.decideRead
  split
  · trivial
  · split
    · trivial
    · split
      · trivial
      · rename_i i hi
        exact h.createEntry (entry_of_freePlace hi) _ _ _ _

theorem FitsAfter.decideWrite (h : FitsAfter r s) (rt : ReqTag) (body : OpBody) (ldn : Byte) (offset count : Nat) :
    (s.decideWrite rt body ldn offset count).FitsAfter r := by
  unfold State.decideWrite
  split
  · trivial
  · split
    · trivial
    · exact h.modBranch fun _ => Nat.le_refl _

theorem FitsAfter.decideConfirmed (h : FitsAfter r s) (rt : ReqTag) (ldn : Byte) (offset : Nat) (data : List Byte) :
    (s.decideConfirmed rt ldn offset data).FitsAfter r := by
  unfold State.decideConfirmed
  split
  · trivial
  · exact h.decideWrite rt _ ldn offset _

theorem FitsAfter.addMember (h : FitsAfter r s) (member : Option (Fin 7 × Byte)) : FitsAfter r (s.addMember member) := by
  unfold State.addMember
  split
  · exact h
  · exact h.modGroup _ _

theorem FitsAfter.decideTimedWrite (h : FitsAfter r s) (rt : ReqTag) (stamp : Stamp) (group ldn : Byte) (offset : Nat)
    (data : List Byte) : (s.decideTimedWrite rt stamp group ldn offset data).FitsAfter r := by
  unfold State.decideTimedWrite
  split
  · trivial
  · split
    · trivial
    · split
      · trivial
      · split
        · trivial
        · split
          · trivial
          · exact (h.addMember _).insertEntry _

theorem FitsAfter.decideTimedLatch (h : FitsAfter r s) (rt : ReqTag) (stamp : Stamp) (lines : BitVec 4)
    (action : LatchAction) (width : BitVec 16) : (s.decideTimedLatch rt stamp lines action width).FitsAfter r := by
  unfold State.decideTimedLatch
  split
  · trivial
  · split
    · trivial
    · split
      · trivial
      · exact h.insertEntry _

theorem FitsAfter.cancelEntry (h : FitsAfter r s) (x : ReleaseEntry) : FitsAfter r (s.cancelEntry x) := by
  have hq : FitsAfter r { s with releaseQueue := s.releaseQueue.filter fun y => !(y.rt == x.rt) } := h.same rfl rfl rfl
  exact hq.withGroups (cancelMember_only _ _)

theorem FitsAfter.cancelTarget (h : FitsAfter r s) (target : ReqTag) : FitsAfter r (s.cancelTarget target).2 := by
  unfold State.cancelTarget
  split
  · split
    · exact h.abandon _ _
    · exact h
  · split
    · exact h.cancelEntry _
    · split
      · exact h
      · exact h

theorem FitsAfter.decideTable (h : FitsAfter r s) (rt : ReqTag) (command : Byte) (operand : List Byte) :
    (s.decideTable rt command operand).FitsAfter r := by
  have ht : Machine.FitsAfter r { s with routes := (tableCommand s.routes command operand).routes } := h.same rfl rfl rfl
  exact ht.pushRecord _

theorem FitsAfter.decideRequest (h : FitsAfter r s) (rt : ReqTag) (request : Request) :
    (s.decideRequest rt request).FitsAfter r := by
  cases request with
  | read ldn offset length => exact h.decideRead rt ldn offset length
  | write ldn offset data => exact h.decideWrite rt _ ldn offset _
  | writeConfirmed ldn offset data => exact h.decideConfirmed rt ldn offset data
  | timedWrite stamp group ldn offset data => exact h.decideTimedWrite rt stamp group ldn offset data
  | timedLatch stamp lines action width => exact h.decideTimedLatch rt stamp lines action width
  | cancel target => exact (h.pushRecord _).cancelTarget _
  | mgmtRead address words => exact h.mgmtRead rt address words
  | mgmtWrite bridgeNumber address words => exact h.mgmtWrite rt bridgeNumber address words
  | table command operand => exact h.decideTable rt command operand

theorem FitsAfter.decideFrame (h : FitsAfter r s) (f : Frame) : (s.decideFrame f).FitsAfter r := by
  unfold State.decideFrame
  split
  · trivial
  · split
    · trivial
    · exact h.decideRequest _ _

theorem FitsAfter.takeHead (h : FitsAfter r s) {f : Frame} {rest : List Frame} (ht : s.takeHead f rest = some t) :
    FitsAfter r t := by
  have hs : FitsAfter r { s with intake := rest } := h.same rfl rfl rfl
  have hd := hs.decideFrame f
  unfold State.takeHead at ht
  dsimp only at ht
  split at ht
  · rename_i u hu
    cases ht
    rw [hu] at hd
    exact hd
  · rename_i u hu
    split at ht
    · cases ht
      rw [hu] at hd
      exact hd
    · cases ht
  · split at ht
    · cases ht
      exact hs.pushRecord _
    · cases ht

theorem FitsAfter.takeRow (h : FitsAfter r s) (row : Instr) : FitsAfter r (s.takeRow row) := by
  unfold State.takeRow
  split
  · exact h
  · split
    · split
      · exact h
      · rename_i ht; exact (h.takeHead ht).endEvent
    · exact h

/-! ## The end of a send -/

/-- No frame is in flight behind the end of a send. -/
theorem FitsAfter.idleSender (h : FitsAfter r s) : FitsAfter r { s with sending := none } :=
  ⟨fun hr => ⟨fun j x hj hg => finalBegun_eq_false_iff.2
    ⟨(finalBegun_eq_false_iff.1 ((h.finals hr).gathering j x hj hg)).1, nofun⟩, fun _ _ _ _ => rfl, fun _ _ => rfl⟩, h.buffer⟩

/-- A frame of place i has been sent. A FINAL one was no GATHERING entry's (R58), and no frame is in flight any more (R65). -/
theorem FitsAfter.splitSent (h : FitsAfter r s) {f : InFlight} (hx : s.sending = some f) (hi : f.source = .split i) :
    FitsAfter r (State.splitSent { s with sending := none } i f.dataCount f.final) := by
  unfold State.splitSent
  split
  · exact h.idleSender
  · rename_i e he
    have hf : s.inFlightOf i = some f := by
      unfold State.inFlightOf
      rw [hx]
      exact if_pos hi
    dsimp only
    set e' : SplitEntry := SplitEntry.releaseSent
      { e with sent := e.sent + f.dataCount, held := e.held.drop f.dataCount, finalSent := e.finalSent || f.final }
    have hset : FitsAfter r (State.setEntry { s with sending := none } i (some e')) := by
      refine ⟨fun hr => ⟨fun j x hj hg => ?_, fun _ _ _ _ => rfl, fun _ _ => rfl⟩, fun hr => ?_⟩
      · refine finalBegun_eq_false_iff.2 ⟨?_, nofun⟩
        by_cases hji : j = i
        · subst hji
          cases (entry_setEntry_same _ _ _).symm.trans hj
          obtain ⟨hunsent, hlast⟩ := finalBegun_eq_false_iff.1 ((h.finals hr).gathering j e he hg)
          exact Bool.or_eq_false_iff.2 ⟨hunsent, hlast f hf⟩
        · exact (finalBegun_eq_false_iff.1
            ((h.finals hr).gathering j x ((entry_setEntry_ne _ _ _ _ hji).symm.trans hj) hg)).1
      · have ho := occupancy_setEntry { s with sending := none } i (some e')
        have hl : e'.held.length ≤ e.held.length := (List.drop_sublist _ _).length_le
        have hs : State.occupancy { s with sending := none } ≤ 512 := h.buffer hr
        rw [he] at ho
        simp only [entryHeld] at ho
        show State.occupancy _ ≤ 512
        omega
    refine FitsAfter.freeIfDone (FitsAfter.roomFreed ?_) i
    split
    · exact hset
    · exact hset.grantPass

theorem FitsAfter.endSend (h : FitsAfter r s) {f : InFlight} (hx : s.sending = some f) : FitsAfter r (s.endSend f) := by
  unfold State.endSend
  dsimp only
  split
  · exact .bridgeReset r _
  · exact h.idleSender
  · exact h.idleSender
  · rename_i i hi
    exact h.splitSent hx hi

/-! ## Every command -/

/-- The next state of an outcome, when it gives one, keeps both invariants. -/
def FitsOutcome (r : State) : Host.Outcome State Fault Refusal → Prop
  | .next t => FitsAfter r t
  | .fault _ => True
  | .refused _ => True

/-- A step that is taken under a condition, and changes nothing without it (log 1). -/
theorem FitsAfter.nextIf (h : FitsAfter r s) {p : Prop} [Decidable p] (ht : p → FitsAfter r t) :
    FitsOutcome r (.next (if p then t else s)) := by
  split
  · rename_i hp; exact ht hp
  · exact h

theorem FitsAfter.gapElapsed (h : FitsAfter r s) (b : Fin 4) : FitsOutcome r (execGapElapsed b s) := by
  unfold execGapElapsed
  split
  · exact h
  · exact h.nextIf fun _ => h.modBranch fun _ => Nat.zero_le _

theorem FitsAfter.pauseElapsed (h : FitsAfter r s) (b : Fin 4) : FitsOutcome r (execPauseElapsed b s) := by
  unfold execPauseElapsed
  split
  · exact h
  · exact h.nextIf fun _ => h.modBranch fun br => (beginAttempt_reserved _ _).trans_le (Nat.zero_le _)

theorem FitsAfter.busStartSeen (h : FitsAfter r s) (b : Fin 4) (party : Party) : FitsOutcome r (execBusStartSeen b party s) := by
  cases party with
  | self => exact h.ownStart b
  | other => exact (h.otherStart b).endEvent

theorem FitsAfter.busStopSeen (h : FitsAfter r s) (b : Fin 4) (party : Party) : FitsOutcome r (execBusStopSeen b party s) := by
  cases party with
  | self => exact (h.ownStop b).endEvent
  | other => exact (h.otherStop b).endEvent

theorem FitsAfter.byteAck (h : FitsAfter r s) (b : Fin 4) : FitsOutcome r (execByteAck b s) := by
  have ha (o : Operation) : FitsAfter r (s.modBranch b fun br => br.ackSubaddress o) :=
    h.modBranch fun br => (ackSubaddress_reserved br o).le
  have hd (o : Operation) : FitsAfter r (s.modBranch b fun br => br.ackData o) := h.modBranch fun br => (ackData_reserved br o).le
  unfold execByteAck
  split
  · exact h
  · rename_i o _
    split
    · exact (h.ackAddress b o).endEvent
    · exact (h.ackAddress b o).endEvent
    · exact (h.ackAddress b o).endEvent
    · exact (ha o).endEvent
    · exact (hd o).endEvent
    · exact h

theorem FitsAfter.readByteReceived (h : FitsAfter r s) (b : Fin 4) (byte : Byte) :
    FitsOutcome r (execReadByteReceived b byte s) := by
  unfold execReadByteReceived
  split
  · exact h
  · split
    · exact h.nextIf fun _ => (h.receiveData b _ _ _ byte).endEvent
    · exact h

theorem FitsAfter.sendEnd (h : FitsAfter r s) : FitsOutcome r (execSendEnd s) := by
  unfold execSendEnd
  split
  · exact h
  · rename_i f hx; exact (h.endSend hx).endEvent

theorem FitsAfter.stampAdvance (h : FitsAfter r s) : FitsOutcome r (execStampAdvance s) := by
  refine FitsAfter.endEvent (FitsAfter.markDue ?_)
  exact h.same rfl rfl rfl

theorem FitsAfter.attentionTrigger (h : FitsAfter r s) (b : Fin 4) : FitsOutcome r (execAttentionTrigger b s) := by
  have ht := (h.modAttn b fun a => { a with line := false }).trigger b
  unfold execAttentionTrigger
  dsimp only [FitsOutcome]
  split
  · exact ht
  · split
    · exact ht.wakeUp.endEvent
    · exact ht.endEvent

/-- Every command keeps both invariants: the rows of Intake by what a frame can do, every other by its own meaning. -/
theorem FitsAfter.exec (h : FitsAfter r s) (c : Instr) : FitsOutcome r (exec c s) := by
  cases c with
  | frameArrival bytes => exact (h.receive bytes).endEvent
  | syncReceived => exact (h.receive _).endEvent
  | engineTakeOperation b => exact h.nextIf fun _ => (h.takeNext b).endEvent
  | gapElapsed b => exact h.gapElapsed b
  | busStartSeen b party => exact h.busStartSeen b party
  | busStopSeen b party => exact h.busStopSeen b party
  | arbitrationLoss b => exact (h.loseArbitration b).endEvent
  | addressNack b => exact h.nextIf fun _ => h.modBranch fun _ => Nat.le_refl _
  | dataNack b => exact h.nextIf fun _ => h.modBranch fun _ => Nat.le_refl _
  | byteAck b => exact h.byteAck b
  | readByteReceived b byte => exact h.readByteReceived b byte
  | pauseElapsed b => exact h.pauseElapsed b
  | clockStuck b held =>
    have hs : FitsAfter r (s.modBranch b fun br => { br with stretchCounter := held }) := h.modBranch fun _ => Nat.le_refl _
    exact h.nextIf fun _ => (hs.judgeClock b).endEvent
  | busClearEnd b stopMade =>
    have hs : FitsAfter r (s.modBranch b fun br => br.endClear stopMade) :=
      h.modBranch fun br => (endClear_reserved br stopMade).le
    exact h.nextIf fun _ => hs.endEvent
  | busyLimitExceeded b =>
    have hs : FitsAfter r (s.modBranch b fun x => { x with
      busyTimer := max x.busyTimer (x.busyLimit.toNat * 1000 + 1) }) := h.modBranch fun _ => Nat.le_refl _
    exact h.nextIf fun _ => (hs.judgeBusy b).endEvent
  | runEnd b => exact h.nextIf fun _ => (h.ownStop b).endEvent
  | answerPosted b => exact h.nextIf fun _ => (h.postNext b).endEvent
  | deadlineExpiry place => exact h.nextIf fun _ => (h.expire place).endEvent
  | frameSendBegin => exact h.nextIf fun _ => h.beginFrame.endEvent
  | sendEnd => exact h.sendEnd
  | holdInAssert => exact h.same rfl rfl rfl
  | holdInRelease =>
    have hh : FitsAfter r { s with holdIn := false } := h.same rfl rfl rfl
    exact hh.endEvent
  | stampAdvance => exact h.stampAdvance
  | releaseTimedWrite => exact h.releaseRow _
  | releaseBranchOff => exact h.releaseRow _
  | releaseTimedLatch => exact h.releaseRow _
  | offlineAbortAnswer => exact h.releaseRow _
  | pulseEnd line => exact h.same rfl rfl rfl
  | attentionTrigger b => exact h.attentionTrigger b
  | attentionLineRise b => exact h.modAttn b _
  | holdoffEnd b => exact h.nextIf fun _ => (h.endHoldoff b).endEvent
  | wakeTimeEnd =>
    have hw : FitsAfter r { s with opState := .active, wakeTimer := 0 } := h.same rfl rfl rfl
    exact h.nextIf fun _ => hw.claims.endEvent
  | coldReset straps => exact .resetTo r _ _ _ _ _ _
  | _ => exact h.takeRow _

/-! ## Every step -/

theorem FitsAfter.tick (h : FitsAfter r s) : FitsAfter r s.tick :=
  h.ofBranches rfl rfl fun b => by
    have hb : s.tick.branch b = (s.branch b).tick := getElem_mapAll _ _ _ b.isLt
    rw [hb]
    exact Nat.le_refl _

/-- A step keeps both invariants: a command does, and so do a due step and the passing of a microsecond on an empty queue. -/
theorem step_fitsAfter (s : State) : FitsOutcome s (step s) := by
  have h := FitsAfter.refl s
  unfold step
  split
  · unfold idle
    split
    · rename_i hp; exact (h.pick hp).exec _
    · exact h.tick
  · rename_i rest _
    have hq : FitsAfter s { s with pending := rest } := h.same rfl rfl rfl
    exact hq.exec _

end

theorem fitsAfter_of_step {s t : State} (ht : step s = .next t) : FitsAfter s t := by
  have h := step_fitsAfter s
  rwa [ht] at h

/-- Settles O56: a byte takes the place that was reserved for it, and a place is reserved only where there is room. -/
theorem bufferNeverOverfills : Obligations.BufferNeverOverfills := fun _ _ hs ht => (fitsAfter_of_step ht).buffer hs

/-- Settles O58: a GATHERING entry's frame is not FINAL, a sent FINAL frame makes its entry ready no more, and a place is freed and
taken only while no frame of it is in flight. -/
theorem finalFrameComesLast : Obligations.FinalFrameComesLast := fun _ _ hs ht => (fitsAfter_of_step ht).finals hs

end Sys2Proof.Machine
end

section
/-! SUPPORT. The grant pass entry by entry: when an entry is passed over, what is created, when the pass ends, and the turns that are
enough. -/

namespace Sys2Proof.Machine

/-! ## One entry of the pass (R46, R47, R48) -/

/-- The pass goes by an entry that is not GATHERING, has no uncreated bytes, or whose queue holds 16 operations (R48). -/
def State.PassedOver (s : State) (e : SplitEntry) : Prop :=
  e.state ≠ .gathering ∨ e.uncreated = 0 ∨ 16 ≤ (s.branch e.route.branch).queue.length

section
variable {s : State} {i : Fin 16} {e : SplitEntry}

theorem grantEntry_free (h : s.entry i = none) (fuel : Nat) : s.grantEntry i fuel = (s, .nextEntry) := by
  cases fuel with
  | zero => rfl
  | succ n =>
    unfold State.grantEntry
    rw [h]

theorem grantEntry_passed (he : s.entry i = some e) (h : s.PassedOver e) (fuel : Nat) :
    s.grantEntry i fuel = (s, .nextEntry) := by
  cases fuel with
  | zero => rfl
  | succ n =>
    unfold State.grantEntry
    rw [he]
    dsimp only
    rcases h with h | h | h
    · exact if_pos (.inl h)
    · exact if_pos (.inr h)
    · split
      · rfl
      · exact if_pos h

/-- An entry that is not passed over: its next piece ends the pass when it does not fit, and else is created and the entry tried
again. -/
theorem grantEntry_tried (he : s.entry i = some e) (h : ¬ s.PassedOver e) (fuel : Nat) :
    s.grantEntry i (fuel + 1) =
      if s.commitLimit < s.committed + units (nextPieceLength s.commitLimit e) then (s, .passEnds)
      else (s.createPiece i e (nextPieceLength s.commitLimit e)).grantEntry i fuel := by
  unfold State.PassedOver at h
  simp only [not_or] at h
  obtain ⟨hg, hu, hq⟩ := h
  have hgather : ¬ (e.state ≠ .gathering ∨ e.uncreated = 0) := by
    rintro (h | h)
    · exact hg h
    · exact hu h
  conv => lhs; unfold State.grantEntry
  rw [he]
  dsimp only
  rw [if_neg hgather]
  exact if_neg hq

theorem nextPieceLength_pos (limit : Nat) (h : e.uncreated ≠ 0) : 0 < nextPieceLength limit e := by
  unfold nextPieceLength Config.cutBytes
  split <;> omega

theorem units_pos {n : Nat} (h : 0 < n) : 0 < units n := by
  unfold units Config.unitBytes
  omega

theorem createPiece_mine (s : State) (i : Fin 16) (e : SplitEntry) (n : Nat) : (s.createPiece i e n).entry i = some { e with
    issued := e.issued + n
    pieces := e.pieces ++ [{ offset := e.start + e.issued, length := n, state := .queued }] } := by
  unfold State.createPiece
  rw [entry_modBranch, entry_setEntry_same]

theorem createPiece_others (s : State) (e : SplitEntry) (n : Nat) {j : Fin 16} (h : j ≠ i) :
    (s.createPiece i e n).entry j = s.entry j := by
  unfold State.createPiece
  rw [entry_modBranch, entry_setEntry_ne _ _ _ _ h]

theorem createPiece_uncreated (s : State) (i : Fin 16) (limit : Nat) (h : e.uncreated ≠ 0) :
    uncreatedOf ((s.createPiece i e (nextPieceLength limit e)).entry i) < e.uncreated := by
  have hpos := nextPieceLength_pos limit h
  rw [createPiece_mine]
  unfold uncreatedOf SplitEntry.uncreated at *
  dsimp only
  omega

/-- Every piece takes a byte at least, so that the uncreated bytes are turns enough (R48). -/
theorem grantEntry_enough (m n : Nat) (s : State) (i : Fin 16) (hm : uncreatedOf (s.entry i) ≤ m)
    (hn : uncreatedOf (s.entry i) ≤ n) : s.grantEntry i m = s.grantEntry i n := by
  induction m generalizing s n with
  | zero =>
    cases he : s.entry i with
    | none => rw [grantEntry_free he, grantEntry_free he]
    | some e =>
      rw [he] at hm
      have hpass : s.PassedOver e := .inr (.inl (Nat.le_zero.1 hm))
      rw [grantEntry_passed he hpass, grantEntry_passed he hpass]
  | succ m ih =>
    cases he : s.entry i with
    | none => rw [grantEntry_free he, grantEntry_free he]
    | some e =>
      by_cases hpass : s.PassedOver e
      · rw [grantEntry_passed he hpass, grantEntry_passed he hpass]
      · have hu : e.uncreated ≠ 0 := fun h => hpass (.inr (.inl h))
        have hless := createPiece_uncreated s i s.commitLimit hu
        rw [he] at hm hn
        have hm' : e.uncreated ≤ m + 1 := hm
        have hn' : e.uncreated ≤ n := hn
        obtain ⟨k, rfl⟩ : ∃ k, n = k + 1 := Nat.exists_eq_succ_of_ne_zero (by omega)
        rw [grantEntry_tried he hpass, grantEntry_tried he hpass]
        split
        · rfl
        · exact ih k _ (by omega) (by omega)

/-! ## The pass over the places -/

theorem grantOver_next {rest : List (Fin 16)} (h : s.grantEntry i (uncreatedOf (s.entry i)) = (s, .nextEntry)) :
    s.grantOver (i :: rest) = s.grantOver rest := by
  conv => lhs; unfold State.grantOver
  rw [h]

/-- The pass tries the entry of a place again in the state that a piece of it leaves (R48). -/
theorem grantOver_tried (he : s.entry i = some e) (h : ¬ s.PassedOver e) (rest : List (Fin 16)) :
    s.grantOver (i :: rest) =
      if s.commitLimit < s.committed + units (nextPieceLength s.commitLimit e) then s
      else (s.createPiece i e (nextPieceLength s.commitLimit e)).grantOver (i :: rest) := by
  have hu : e.uncreated ≠ 0 := fun hu => h (.inr (.inl hu))
  have hless := createPiece_uncreated s i s.commitLimit hu
  obtain ⟨k, hk⟩ : ∃ k, uncreatedOf (s.entry i) = k + 1 := by
    rw [he]
    exact Nat.exists_eq_succ_of_ne_zero hu
  have hk' : e.uncreated = k + 1 := by
    rw [he] at hk
    exact hk
  conv => lhs; unfold State.grantOver
  rw [hk, grantEntry_tried he h]
  split_ifs with hfit
  · rfl
  · conv => rhs; unfold State.grantOver
    rw [grantEntry_enough k _ _ i (by omega) (Nat.le_refl _)]

/-- The committed units are at the limit: no piece fits (R48). -/
theorem grantOver_full (h : s.commitLimit ≤ s.committed) (places : List (Fin 16)) : s.grantOver places = s := by
  induction places with
  | nil => rfl
  | cons i rest ih =>
    cases he : s.entry i with
    | none => rw [grantOver_next (grantEntry_free he _), ih]
    | some e =>
      by_cases hpass : s.PassedOver e
      · rw [grantOver_next (grantEntry_passed he hpass _), ih]
      · have hpos := units_pos (nextPieceLength_pos s.commitLimit fun hu => hpass (.inr (.inl hu)))
        rw [grantOver_tried he hpass, if_pos (by omega)]

end

/-! ## The pieces that a pass appends -/

/-- The pieces of every entry stay in their places, and QUEUED ones may have been appended (R47). -/
def PiecesAppended (s t : State) : Prop :=
  ∀ j e, s.entry j = some e → ∃ e' more, t.entry j = some e' ∧ e'.pieces = e.pieces ++ more ∧ ∀ p ∈ more, p.state = .queued

section
variable {s t u : State}

theorem piecesAppended_of_split (h : t.split = s.split) : PiecesAppended s t := fun j e he =>
  ⟨e, [], (entry_of_split h j).trans he, (List.append_nil _).symm, nofun⟩

theorem PiecesAppended.trans (h : PiecesAppended s t) (k : PiecesAppended t u) : PiecesAppended s u := by
  intro j e he
  obtain ⟨e', more, he', hp, hq⟩ := h j e he
  obtain ⟨e'', more', he'', hp', hq'⟩ := k j e' he'
  refine ⟨e'', more ++ more', he'', by rw [hp', hp, List.append_assoc], fun p hm => ?_⟩
  rcases List.mem_append.1 hm with hm | hm
  · exact hq p hm
  · exact hq' p hm

theorem createPiece_appends {i : Fin 16} {e : SplitEntry} (he : s.entry i = some e) (n : Nat) :
    PiecesAppended s (s.createPiece i e n) := by
  intro j x hx
  by_cases hji : j = i
  · subst hji
    cases he.symm.trans hx
    exact ⟨_, _, createPiece_mine s j e n, rfl, fun p hp => by rw [List.mem_singleton.1 hp]⟩
  · exact ⟨x, [], (createPiece_others s e n hji).trans hx, (List.append_nil _).symm, nofun⟩

theorem grantEntry_appends (i : Fin 16) (fuel : Nat) (s : State) : PiecesAppended s (s.grantEntry i fuel).1 := by
  induction fuel generalizing s with
  | zero => exact piecesAppended_of_split rfl
  | succ n ih =>
    cases he : s.entry i with
    | none =>
      rw [grantEntry_free he]
      exact piecesAppended_of_split rfl
    | some e =>
      by_cases hpass : s.PassedOver e
      · rw [grantEntry_passed he hpass]
        exact piecesAppended_of_split rfl
      · rw [grantEntry_tried he hpass]
        split
        · exact piecesAppended_of_split rfl
        · exact (createPiece_appends he _).trans (ih _)

theorem grantOver_appends (places : List (Fin 16)) (s : State) : PiecesAppended s (s.grantOver places) := by
  induction places generalizing s with
  | nil => exact piecesAppended_of_split rfl
  | cons i rest ih =>
    have h := grantEntry_appends i (uncreatedOf (s.entry i)) s
    unfold State.grantOver
    split
    · rename_i s' heq
      rw [heq] at h
      exact h.trans (ih s')
    · rename_i s' heq
      rw [heq] at h
      exact h

theorem grantPass_appends (s : State) : PiecesAppended s s.grantPass := grantOver_appends _ s

end

theorem passedOver_iff {s : State} {e : SplitEntry} :
    s.PassedOver e ↔ e.state ≠ .gathering ∨ e.length ≤ e.issued ∨ 16 ≤ (s.branch e.route.branch).queue.length := by
  unfold State.PassedOver SplitEntry.uncreated
  rw [Nat.sub_eq_zero_iff_le]

/-- Settles O16: the pass entry by entry, and what every piece created keeps. -/
theorem grantPassCreatesPieces : Obligations.GrantPassCreatesPieces := by
  refine ⟨fun s => ⟨rfl, rfl⟩, fun s i younger => ⟨fun hi => grantOver_next (grantEntry_free hi _), fun e he => ⟨fun hp =>
    grantOver_next (grantEntry_passed he (passedOver_iff.2 hp) _), fun hg hu hq => ?_⟩⟩, fun s => ?_⟩
  · have hpass : ¬ s.PassedOver e := by
      rw [passedOver_iff]
      rintro (h | h | h)
      · exact h hg
      · omega
      · omega
    have htried := grantOver_tried he hpass younger
    exact ⟨fun hfull => htried.trans (if_pos hfull), fun hfits => htried.trans (if_neg (Nat.not_lt.2 hfits))⟩
  · have hg := grantPass_granted s
    refine ⟨hg.units, hg.entries, fun i e he => ?_, hg.branches, fun b => ?_, fun hfull => grantOver_full hfull _, hg.rest⟩
    · obtain ⟨e', more, he', hp, _⟩ := grantPass_appends s i e he
      exact ⟨e', more, he', hp⟩
    · obtain ⟨more, hmore, _⟩ := hg.queues b
      exact ⟨more, hmore⟩

/-! ## The pass does not look at the intake buffer -/

theorem grantEntry_intake (x : List Frame) (i : Fin 16) (fuel : Nat) (s : State) :
    ({ s with intake := x } : State).grantEntry i fuel =
      ({ (s.grantEntry i fuel).1 with intake := x }, (s.grantEntry i fuel).2) := by
  induction fuel generalizing s with
  | zero => rfl
  | succ n ih =>
    cases he : s.entry i with
    | none => rw [grantEntry_free he, grantEntry_free (s := { s with intake := x }) he]
    | some e =>
      by_cases hpass : s.PassedOver e
      · rw [grantEntry_passed he hpass, grantEntry_passed (s := { s with intake := x }) he hpass]
      · rw [grantEntry_tried he hpass, grantEntry_tried (s := { s with intake := x }) he hpass]
        by_cases hfull : s.commitLimit < s.committed + units (nextPieceLength s.commitLimit e)
        · rw [if_pos hfull]
          exact if_pos hfull
        · rw [if_neg hfull]
          exact (if_neg hfull).trans (ih (s.createPiece i e (nextPieceLength s.commitLimit e)))

theorem grantOver_intake (x : List Frame) (places : List (Fin 16)) (s : State) :
    ({ s with intake := x } : State).grantOver places = { s.grantOver places with intake := x } := by
  induction places generalizing s with
  | nil => rfl
  | cons i rest ih =>
    unfold State.grantOver
    have he := grantEntry_intake x i (uncreatedOf (s.entry i)) s
    rw [show State.entry { s with intake := x } i = s.entry i from rfl, he]
    cases hs : s.grantEntry i (uncreatedOf (s.entry i)) with
    | mk t ended => cases ended with
      | nextEntry => exact ih t
      | passEnds => rfl

theorem grantPass_intake (s : State) (x : List Frame) :
    ({ s with intake := x } : State).grantPass = { s.grantPass with intake := x } := grantOver_intake x s.ageOrder s

theorem clamped_limit (v : Nat) : max 64 (min 1023 v) = if v < 64 then 64 else if 1023 < v then 1023 else v := by
  split_ifs <;> omega

/-- Settles O25: the word is applied behind its answer, and the pass does not look at the buffer that the frame leaves. -/
theorem commitLimitWritten : Obligations.CommitLimitWritten := by
  intro s rest reqtag bridge w h limit
  set granted : State := (s.writeTaken [] reqtag bridge .ok).writeCommitLimit w.toNat with hgranted
  have honly := grantPass_only { s.writeTaken [] reqtag bridge .ok with commitLimit := max 64 (min 1023 w.toNat) }
  have hexec := exec_writeFrame_applied (t := granted) (r := .commitLimit) (more := []) h rfl rfl
    ((congrArg State.intakeStopped honly :).trans h.1.2.2) (congrArg State.responseQueue honly :)
  refine hexec.trans (congrArg (fun t : State => Host.Outcome.next t.endEvent) ?_)
  rw [hgranted]
  unfold State.writeCommitLimit
  rw [clamped_limit, ← grantPass_intake]
  rfl

end Sys2Proof.Machine
end

section
/-! SUPPORT. The expiry of a deadline: when it is due, the extension, and the abandon. -/

namespace Sys2Proof.Machine

/-! ## A flag set reads back (R171) -/

theorem raiseNotice_flag (s : State) (f : EventFlag) : s.raiseNotice.flag f = s.flag f :=
  (congrArg (fun t : State => t.flag f) (raiseNotice_only s) :)

theorem mask_getLsbD (f : EventFlag) : f.mask.getLsbD f.bit = true := by cases f <;> decide

theorem setFlag_flag (s : State) (f : EventFlag) : (s.setFlag f).flag f = true := by
  unfold State.setFlag
  split
  · assumption
  · have hset : ({ s with flags := s.flags ||| f.mask } : State).flag f = true := by
      unfold State.flag
      rw [BitVec.getLsbD_or, mask_getLsbD, Bool.or_true]
    dsimp only
    split
    · exact (raiseNotice_flag _ f).trans hset
    · exact hset

@[simp] theorem setFlag_entry (s : State) (f : EventFlag) (i : Fin 16) : (s.setFlag f).entry i = s.entry i :=
  (congrArg (fun t : State => t.entry i) (setFlag_only s f) :)

@[simp] theorem setFlag_branch (s : State) (f : EventFlag) (b : Fin 4) : (s.setFlag f).branch b = s.branch b :=
  (congrArg (fun t : State => t.branch b) (setFlag_only s f) :)

@[simp] theorem setFlag_responseQueue (s : State) (f : EventFlag) : (s.setFlag f).responseQueue = s.responseQueue :=
  (congrArg State.responseQueue (setFlag_only s f) :)

@[simp] theorem setFlag_intake (s : State) (f : EventFlag) : (s.setFlag f).intake = s.intake :=
  (congrArg State.intake (setFlag_only s f) :)

/-! ## Due deadlines (R61, R62) -/

section
variable {s : State} {i : Fin 16} {e : SplitEntry}

theorem expiryDue_iff (he : s.entry i = some e) : s.expiryDue i = true ↔
    (e.state = .gathering ∨ e.state = .delivering) ∧ s.finalBegun i e = false ∧ (s.stamp - e.deadline).toNat < 2 ^ 31 := by
  unfold State.expiryDue isDue
  rw [he]
  simp [and_assoc]

theorem exec_expiry_due (he : s.entry i = some e) (hdue : s.expiryDue i = true) : exec (.deadlineExpiry i) s =
    .next (if e.route.timeoutPolicy = .extend ∧ e.extended = false then s.extendDeadline i e
      else (s.abandon i .timeout).setFlag .splitTimeout).endEvent := by
  show execDeadlineExpiry i s = _
  unfold execDeadlineExpiry State.expire
  rw [if_pos hdue, he]
  dsimp only
  rw [if_pos hdue]

theorem exec_expiry_early (h : s.expiryDue i = false) : exec (.deadlineExpiry i) s = .next s := by
  show execDeadlineExpiry i s = _
  unfold execDeadlineExpiry
  rw [h]
  rfl

end

/-- Settles O46: an expiry that is due extends the deadline, or abandons the entry, with what follows an abandon (`FollowsAbandon`). -/
theorem deadlineExpires : Obligations.DeadlineExpires := by
  intro s i e he
  refine ⟨fun hstate hbegun hstamp => ?_, fun hnot => exec_expiry_early ?_⟩
  · have hdue : s.expiryDue i = true := (expiryDue_iff he).2 ⟨hstate, hbegun, hstamp⟩
    have hexec := exec_expiry_due he hdue
    refine ⟨fun hpolicy hfirst => hexec.trans ?_, fun hpolicy => ?_⟩
    · rw [if_pos ⟨hpolicy, hfirst⟩]
      rfl
    · have hno : ¬ (e.route.timeoutPolicy = .extend ∧ e.extended = false) := by
        rintro ⟨hp, hx⟩
        rcases hpolicy with h | h
        · exact absurd (hp.symm.trans h) nofun
        · exact absurd (hx.symm.trans h) nofun
      rw [if_neg hno] at hexec
      have hunsent := (finalBegun_eq_false_iff.1 hbegun).1
      have hend := endEntry_only s i .abandoned .timeout
      have hflag := setFlag_only (s.abandon i .timeout) .splitTimeout
      have hfollows := abandon_follows he hunsent .timeout
      obtain ⟨ps, hmine, hps⟩ := hfollows.mine
      have honly : (s.abandon i .timeout).withRun s = s := abandon_only s i .timeout
      have hsettle := withSettle_trans hfollows.only (withSettle_of_split hend)
      refine ⟨_, _, hexec, (setFlag_entry _ _ i).trans hmine, rfl, rfl, rfl, fun p hp => ?_, setFlag_flag _ _,
        fun o hop hpiece hn hphase => ?_, fun j hj => ?_, ?_, ?_, ?_, ?_, withRun_trans (withRun_of_flags hflag) honly,
        fun hw => ?_⟩
      · obtain ⟨hin, hact⟩ := List.mem_filter.1 (hps p hp)
        exact ⟨of_decide_eq_true hact, hin⟩
      · rw [setFlag_branch]
        exact abandon_engine he .timeout hop hpiece hn (not_offBus hphase)
      · rw [setFlag_entry, hfollows.others j hj, endEntry_others he .timeout hj]
      · exact (congrArg State.opState hflag :).trans (congrArg State.opState honly :)
      · exact (congrArg State.fault hflag :).trans (congrArg State.fault hsettle :)
      · have hi : (s.endEntry i .abandoned .timeout).intake = s.intake := (congrArg State.intake hend :)
        rw [setFlag_intake, ← hi]
        exact hfollows.frames
      · have hr : (s.endEntry i .abandoned .timeout).responseQueue = s.responseQueue := (congrArg State.responseQueue hend :)
        rw [setFlag_responseQueue, ← hr]
        exact hfollows.records
      · have hw' : (s.endEntry i .abandoned .timeout).headHasWaited = false := (congrArg State.headHasWaited hend :).trans hw
        have hslots := withSlots_trans (hfollows.unwaited hw') (withSlots_of_split hend)
        exact ⟨(setFlag_responseQueue _ _).trans (congrArg State.responseQueue hslots :),
          (congrArg State.groups hflag :).trans (congrArg State.groups hslots :),
          (congrArg State.releaseQueue hflag :).trans (congrArg State.releaseQueue hslots :)⟩
  · refine Bool.eq_false_iff.2 fun hdue => ?_
    obtain ⟨hstate, hbegun, hstamp⟩ := (expiryDue_iff he).1 hdue
    rcases hnot with h | h | h | h
    · rw [h] at hstate
      exact absurd hstate (by decide)
    · rw [h] at hstate
      exact absurd hstate (by decide)
    · exact absurd (hbegun.symm.trans h) nofun
    · omega

end Sys2Proof.Machine
end

section
/-! SUPPORT. A byte of a piece: stored in its reserved place, or dropped, and what the engine goes on to. -/

namespace Sys2Proof.Machine

/-! ## A byte received (R51, R93, R94) -/

section
variable {s : State} {b : Fin 4} {o : Operation} {i : Fin 16} {n : Nat} {first : Bool} {e : SplitEntry}

theorem exec_readByte (ho : (s.branch b).op = some o) (hbody : o.body = .readPiece i n first)
    (hphase : (s.branch b).phase = .readData) (byte : Byte) :
    exec (.readByteReceived b byte) s = .next (s.receiveData b o i n byte).endEvent := by
  show execReadByteReceived b byte s = _
  unfold execReadByteReceived
  rw [ho]
  dsimp only
  rw [hbody]
  exact congrArg Host.Outcome.next (if_pos hphase)

theorem byteWanted_iff (he : s.entry i = some e) (position : Nat) :
    s.byteWanted i position = true ↔ e.state = .gathering ∧ position = e.start + e.received := by
  unfold State.byteWanted
  rw [he]
  exact decide_eq_true_iff

theorem givesAck_of_none {br : Branch} (h : br.told = none) (n : Nat) :
    br.givesAck n = decide (br.progress.dataDone + 1 < n) := by
  unfold Branch.givesAck
  rw [h]
  rfl

/-- What the engine of branch b does behind a byte in state u: the next byte when it acknowledges, else STOP (R93). -/
def State.afterByte (u : State) (b : Fin 4) (i : Fin 16) (o : Operation) (ack : Bool) : State :=
  if ack then u.beginReadByte b i o else u.modBranch b fun br => br.makeStop .done

theorem receiveData_stored (htold : (s.branch b).told = none) (he : s.entry i = some e) (hres : (s.branch b).progress.reserved = true)
    (hwanted : s.byteWanted i (o.offset + (s.branch b).progress.dataDone) = true) (n : Nat) (byte : Byte) :
    s.receiveData b o i n byte = ((s.setEntry i (some (e.withByte byte))).modBranch b Branch.byteDone).afterByte b i o
      (decide ((s.branch b).progress.dataDone + 1 < n)) := by
  unfold State.receiveData State.afterByte
  dsimp only
  rw [htold, hres, hwanted, givesAck_of_none htold, storeByte_eq he]
  rfl

theorem receiveData_dropped (htold : (s.branch b).told = none)
    (hunwanted : s.byteWanted i (o.offset + (s.branch b).progress.dataDone) = false) (n : Nat) (byte : Byte) :
    s.receiveData b o i n byte = ((s.modBranch b Branch.byteDone).roomFreed).afterByte b i o
      (decide ((s.branch b).progress.dataDone + 1 < n)) := by
  unfold State.receiveData State.afterByte
  dsimp only
  rw [htold, hunwanted, Bool.and_false, givesAck_of_none htold]
  rfl

/-- Behind a stored byte that is not the read's last the engine asks for room for the next one (R94). -/
theorem beginReadByte_stored (hg : e.state = .gathering) (hposition : o.offset + (s.branch b).progress.dataDone = e.start + e.received)
    (he : s.entry i = some e) (hres : (s.branch b).progress.reserved = true) (hmore : e.received + 1 ≠ e.length) (byte : Byte) :
    ((s.setEntry i (some (e.withByte byte))).modBranch b Branch.byteDone).beginReadByte b i o =
      (s.setEntry i (some (e.withByte byte))).modBranch b fun br =>
        { br.byteDone with
          phase := if s.occupancy < 512 then .readData else .stall
          progress := { br.byteDone.progress with reserved := decide (s.occupancy < 512) } } := by
  set u : State := (s.setEntry i (some (e.withByte byte))).modBranch b Branch.byteDone with hu
  have hentry : u.entry i = some (e.withByte byte) := entry_setEntry_same _ _ _
  have hwanted : u.byteWanted i (o.offset + (u.branch b).progress.dataDone) = true := by
    rw [byteWanted_iff hentry, hu, branch_modBranch_same]
    refine ⟨(if_neg hmore).trans hg, ?_⟩
    show o.offset + ((s.branch b).progress.dataDone + 1) = e.start + (e.received + 1)
    omega
  unfold State.beginReadByte
  dsimp only
  rw [hwanted, occupancy_withByte hres he byte, hu, modBranch_modBranch]
  refine modBranch_congr ?_
  unfold Config.bufferBytes
  by_cases hroom : s.occupancy < 512
  · simp [hroom]
  · simp [hroom]

/-! ## Engines that leave STALL keep their counts -/

theorem endStalls_dataDone (fuel : Nat) (s : State) (c : Fin 4) :
    ((s.endStalls fuel).branch c).progress.dataDone = (s.branch c).progress.dataDone := by
  induction fuel generalizing s with
  | zero => rfl
  | succ n ih =>
    unfold State.endStalls
    split
    · split
      · rfl
      · rename_i d s' hp
        have hs : s'.branch c = s.branch c := (congrArg (fun t : State => t.branch c) (pick_only s _ _ _ hp) :)
        rw [ih, ← hs]
        unfold State.endStallOf
        by_cases hcd : c = d
        · subst hcd
          rw [branch_modBranch_same]
        · rw [branch_modBranch_ne _ _ _ _ hcd]
    · rfl

theorem roomFreed_dataDone (s : State) (c : Fin 4) : (s.roomFreed.branch c).progress.dataDone = (s.branch c).progress.dataDone :=
  endStalls_dataDone 4 s c

theorem roomFreed_unstalled (s : State) (c : Fin 4) : (s.roomFreed.branch c).unstalled = (s.branch c).unstalled := by
  obtain ⟨phase, progress, h⟩ := roomFreed_branch s c
  rw [h]
  rfl

theorem afterByte_only (u : State) (b : Fin 4) (i : Fin 16) (o : Operation) (ack : Bool) :
    { u.afterByte b i o ack with branches := u.branches } = u := by
  unfold State.afterByte
  split <;> rfl

theorem afterByte_dataDone (u : State) (b : Fin 4) (i : Fin 16) (o : Operation) (ack : Bool) :
    ((u.afterByte b i o ack).branch b).progress.dataDone = (u.branch b).progress.dataDone := by
  unfold State.afterByte
  split
  · unfold State.beginReadByte
    rw [branch_modBranch_same]
  · rw [branch_modBranch_same]
    rfl

theorem afterByte_ne (u : State) {b c : Fin 4} (h : c ≠ b) (i : Fin 16) (o : Operation) (ack : Bool) :
    (u.afterByte b i o ack).branch c = u.branch c := by
  unfold State.afterByte
  split
  · exact branch_modBranch_ne _ _ _ _ h
  · exact branch_modBranch_ne _ _ _ _ h

end

/-- Settles O41: a wanted byte takes its reserved place, and any other is dropped, which may end a stall elsewhere. -/
theorem readByteStored : Obligations.ReadByteStored := by
  intro s b byte o i n first e ho hbody htold hphase he position stored next
  have hexec := exec_readByte ho hbody hphase byte
  refine ⟨fun hg hposition hres => ?_, fun hnot => ?_⟩
  · have hstored : e.withByte byte = stored := by
      show e.withByte byte = { e with
        received := e.received + 1, held := e.held ++ [byte]
        state := if e.received + 1 = e.length then .delivering else .gathering
        finalStatus := if e.received + 1 = e.length then some .ok else e.finalStatus }
      rw [← hg]
      rfl
    have hdata := receiveData_stored htold he hres ((byteWanted_iff he _).2 ⟨hg, hposition⟩) n byte
    refine ⟨fun hlast => ?_, fun hless hmore hroom => ?_, fun hless hmore hfull => ?_⟩
    · rw [hexec, hdata, decide_eq_false (by omega), ← hstored]
      unfold State.afterByte
      rw [if_neg Bool.false_ne_true, modBranch_modBranch]
      rfl
    · rw [hexec, hdata, decide_eq_true hless, ← hstored]
      unfold State.afterByte
      rw [if_pos rfl, beginReadByte_stored hg hposition he hres hmore, if_pos hroom, decide_eq_true hroom]
      rfl
    · rw [hexec, hdata, decide_eq_true hless, ← hstored]
      unfold State.afterByte
      rw [if_pos rfl, beginReadByte_stored hg hposition he hres hmore, if_neg (Nat.not_lt.2 hfull),
        decide_eq_false (Nat.not_lt.2 hfull)]
      rfl
  · have hunwanted : s.byteWanted i position = false := by
      refine Bool.eq_false_iff.2 fun hw => ?_
      obtain ⟨hg, hp⟩ := (byteWanted_iff he _).1 hw
      rcases hnot with h | h
      · exact h hg
      · exact h hp
    rw [receiveData_dropped htold hunwanted] at hexec
    set dropped : State := (s.modBranch b Branch.byteDone).roomFreed with hdropped
    have honly : { dropped with branches := s.branches, freeCount := s.freeCount } = s :=
      lift (fun t : State => { t with branches := s.branches }) (roomFreed_only (s.modBranch b Branch.byteDone)) rfl rfl
    have hafter := afterByte_only dropped b i o (decide ((s.branch b).progress.dataDone + 1 < n))
    have hall := lift (fun t : State => { t with branches := s.branches, freeCount := s.freeCount }) hafter rfl honly
    refine ⟨_, hexec, (congrArg State.split hall :), ?_, fun hlast => ?_,
      fun c hc => ?_, hall⟩
    · rw [afterByte_dataDone, hdropped, roomFreed_dataDone, branch_modBranch_same]
      rfl
    · rw [decide_eq_false (by omega)]
      unfold State.afterByte
      rw [if_neg Bool.false_ne_true, branch_modBranch_same]
      rfl
    · rw [afterByte_ne _ hc, hdropped, roomFreed_unstalled, branch_modBranch_ne _ _ _ _ hc]

end Sys2Proof.Machine
end

section
/-! SUPPORT. The end of a piece's run: what it does to the entry, and what the freed slots and the room leave. -/

namespace Sys2Proof.Machine

/-! ## The pieces of an entry behind a run (R53 to R56) -/

section
variable {s : State} {b : Fin 4} {o : Operation} {i : Fin 16} {n : Nat} {first : Bool} {e : SplitEntry} {status : Status}

theorem mem_dropActive {p : Piece} (h : p ∈ e.dropActive.pieces) : p ∈ e.pieces ∧ p.state ≠ .active := by
  obtain ⟨hin, hstate⟩ := List.mem_filter.1 h
  exact ⟨hin, by simpa using hstate⟩

/-- The ACTIVE piece has become HELD, and the others are as they were (R53). -/
theorem mem_holdActive {p : Piece} (h : p ∈ e.holdActive.pieces) : p.state = .held ∨ (p ∈ e.pieces ∧ p.state ≠ .active) := by
  obtain ⟨q, hq, rfl⟩ := List.mem_map.1 (List.mem_filter.1 h).1
  by_cases ha : q.state = .active
  · rw [if_pos ha]
    exact .inl rfl
  · rw [if_neg ha]
    exact .inr ⟨hq, ha⟩

theorem holdActive_inactive {p : Piece} (h : p ∈ e.holdActive.pieces) : p.state ≠ .active := by
  rcases mem_holdActive h with hp | ⟨_, hp⟩
  · rw [hp]
    decide
  · exact hp

theorem hasActive_eq_false (h : ∀ p ∈ e.pieces, p.state ≠ .active) : e.hasActive = false := by
  refine Bool.eq_false_iff.2 fun ha => ?_
  obtain ⟨p, hp, hactive⟩ := List.any_eq_true.1 ha
  exact h p hp (of_decide_eq_true hactive)

/-! ## What the end of the run does to the entry, case by case -/

/-- The run of a piece with all its bytes stored leaves the read to go on (R53). -/
theorem settlePiece_goesOn (hstate : e.state = .gathering ∨ e.state = .delivering)
    (hdone : status = .ok ∨ o.offset + n ≤ e.start + e.received) :
    s.settlePiece i e o n first status = s.setEntry i (some e.holdActive) := (if_pos hstate).trans (if_pos hdone)

/-- A later piece without PERSIST that meets NACK closes the entry SHORT: only HELD pieces stay, and the bytes (R55). -/
theorem settlePiece_short (hg : e.state = .gathering) (hmissing : e.start + e.received < o.offset + n)
    (hfirst : first = false) (hpersist : o.persist = false) :
    ∃ ps, (s.settlePiece i e o n first .nack).entry i =
      some { e with pieces := ps, state := .closing, finalStatus := some .short } ∧ ∀ p ∈ ps, p.state = .held := by
  have hmiss : ¬ (Status.nack = .ok ∨ o.offset + n ≤ e.start + e.received) := by
    rintro (h | h)
    · cases h
    · omega
  unfold State.settlePiece
  rw [if_pos (.inl hg), if_neg hmiss, if_pos ⟨rfl, hfirst, hpersist⟩]
  unfold State.closeShort State.dropQueued
  rw [entry_modBranch, entry_setEntry_same]
  set unqueued : SplitEntry := { e with pieces := e.pieces.filter fun (p : Piece) => !decide (p.state = PieceState.queued) }
  have hunqueued {p : Piece} (hp : p ∈ unqueued.pieces) (ha : p.state ≠ .active) : p.state = .held := by
    have hq := (List.mem_filter.1 hp).2
    revert hq ha
    cases p.state <;> decide
  by_cases hstored : o.offset < e.start + e.received
  · rw [decide_eq_true hstored]
    refine ⟨unqueued.holdActive.pieces, rfl, fun p hp => ?_⟩
    rcases mem_holdActive hp with h | ⟨h, ha⟩
    · exact h
    · exact hunqueued h ha
  · rw [decide_eq_false hstored]
    refine ⟨unqueued.dropActive.pieces, rfl, fun p hp => ?_⟩
    obtain ⟨h, ha⟩ := mem_dropActive hp
    exact hunqueued h ha

/-- Any other error closes the entry: no piece stays, and of its bytes those of a frame in flight (R56, R59). -/
theorem settlePiece_error (hg : e.state = .gathering) (hmissing : e.start + e.received < o.offset + n) (hok : status ≠ .ok)
    (herror : ¬ (status = .nack ∧ first = false ∧ o.persist = false)) :
    (s.settlePiece i e o n first status).entry i = some { e with
      pieces := [], state := .closing, finalStatus := some status, held := e.held.take (s.bytesInFlight i) } := by
  have hmiss : ¬ (status = .ok ∨ o.offset + n ≤ e.start + e.received) := by
    rintro (h | h)
    · exact hok h
    · omega
  have hnone : e.dropActive.onlyActive.pieces = [] := List.filter_eq_nil_iff.2 fun p hp => by
    rw [decide_eq_false (mem_dropActive hp).2]
    exact Bool.false_ne_true
  unfold State.settlePiece
  rw [if_pos (.inl hg), if_neg hmiss, if_neg herror]
  unfold State.endEntry
  rw [entry_setEntry_same]
  dsimp only
  unfold State.dropQueued
  rw [entry_modBranch, entry_setEntry_same]
  exact congrArg (fun ps => some { e with
    pieces := ps, state := .closing, finalStatus := some status, held := e.held.take (s.bytesInFlight i) }) hnone

/-- Of an entry CLOSING or ABANDONED the ACTIVE piece is only released (R54). -/
theorem settlePiece_released (hstate : e.state = .closing ∨ e.state = .abandoned) :
    s.settlePiece i e o n first status = s.setEntry i (some e.dropActive) :=
  if_neg (by rcases hstate with h | h <;> rw [h] <;> decide)

theorem dropQueued_ungranted (s : State) (i : Fin 16) (b c : Fin 4) :
    ((s.dropQueued i b).branch c).ungranted = (s.branch c).ungranted := by
  unfold State.dropQueued
  by_cases hc : c = b
  · subst hc
    rw [branch_modBranch_same]
    rfl
  · rw [branch_modBranch_ne _ _ _ _ hc]

theorem settlePiece_ungranted (s : State) (i : Fin 16) (e : SplitEntry) (o : Operation) (n : Nat) (first : Bool)
    (status : Status) (c : Fin 4) : ((s.settlePiece i e o n first status).branch c).ungranted = (s.branch c).ungranted := by
  unfold State.settlePiece
  split
  · split
    · rfl
    · split
      · exact dropQueued_ungranted _ i _ c
      · unfold State.endEntry
        split
        · rfl
        · exact dropQueued_ungranted _ i _ c
  · rfl

/-! ## Pieces appended through a freed slot -/

theorem slotFreedIn_appends (b : Fin 4) (fuel : Nat) (s : State) : PiecesAppended s (s.slotFreedIn b fuel) := by
  induction fuel generalizing s with
  | zero => exact grantPass_appends s
  | succ n ih =>
    obtain ⟨x, s', hp, h | ⟨u, hu, h⟩ | ⟨_, u, hu, h⟩⟩ := slotFreedIn_turn s b n
    all_goals
      rw [h]
      have hs : PiecesAppended s s' := piecesAppended_of_split (pick_split hp)
    · exact hs.trans (grantPass_appends s')
    · exact hs.trans ((piecesAppended_of_split ((judgeRun_split _ u).trans (headTakesSlot_split hu))).trans (ih _))
    · exact hs.trans ((piecesAppended_of_split (intakeTakesSlot_split hu)).trans (ih u))

theorem slotFreed_appends (s : State) (b : Fin 4) : PiecesAppended s (s.slotFreed b) := slotFreedIn_appends b _ s

/-! ## The STOP that ends the run (R103, R104) -/

/-- The status of a run that a STOP made for a reason ends (R92, R97, R98). -/
def StopReason.runStatus : StopReason → Status
  | .done => .ok
  | .addressNack => .nack
  | .dataNack => .dataNack

/-- The engine of branch b has seen its STOP and dropped its operation (R89, R104). -/
def State.opDropped (s : State) (b : Fin 4) : State := s.modBranch b fun br => br.seeStop.dropOp

/-- The state behind the end of a piece's run, before room is found: the entry is settled, the slots that this frees are taken, and
the entry may be freed (R48, R65, R72). -/
def State.pieceSettled (s : State) (b : Fin 4) (i : Fin 16) (e : SplitEntry) (o : Operation) (n : Nat) (first : Bool) : State :=
  (((s.opDropped b).settlePiece i e o n first (s.branch b).stopReason.runStatus).slotFreed e.route.branch).freeIfDone i

theorem nackEnds_iff (hbody : o.body = .readPiece i n first) (k : Nat) :
    o.nackEnds k = true ↔ (first = false ∧ o.persist = false) ∨ o.retryLimit.val < k := by
  unfold Operation.nackEnds
  rw [hbody]
  simp

/-- A STOP behind which the run ends (R97, R104). -/
def Branch.StopEnds (br : Branch) (o : Operation) : Prop := br.stopReason ≠ .addressNack ∨ o.nackEnds br.retryCount = true

theorem ownStop_piece (ho : (s.branch b).op = some o) (hbody : o.body = .readPiece i n first) (he : s.entry i = some e)
    (hphase : (s.branch b).phase = .stop) (htold : (s.branch b).told = none) (hends : (s.branch b).StopEnds o) :
    s.ownStop b = ((s.pieceSettled b i e o n first).modBranch b fun br => br.afterRun false).roomFreed := by
  have hrun (status : Status) : (s.modBranch b Branch.seeStop).endRun b status false =
      (((((s.opDropped b).settlePiece i e o n first status).slotFreed e.route.branch).freeIfDone i).modBranch b
        fun br => br.afterRun false).roomFreed := by
    have hop : ((s.modBranch b Branch.seeStop).branch b).op = some o := by
      rw [branch_modBranch_same]
      exact ho
    unfold State.endRun
    rw [hop]
    dsimp only
    unfold State.handOn
    rw [hbody, modBranch_modBranch]
    dsimp only
    unfold State.pieceEnd
    rw [entry_modBranch, he]
    rfl
  unfold State.ownStop
  dsimp only
  rw [ho]
  dsimp only
  rw [if_pos hphase, htold]
  dsimp only
  unfold State.pieceSettled
  cases hreason : (s.branch b).stopReason with
  | done => exact hrun .ok
  | dataNack => exact hrun .dataNack
  | addressNack =>
    rcases hends with h | h
    · exact absurd hreason h
    · dsimp only
      rw [if_pos h]
      exact hrun .nack

theorem exec_runEnd_piece (ho : (s.branch b).op = some o) (hphase : (s.branch b).phase = .stop)
    (hends : (s.branch b).StopEnds o) : exec (.runEnd b) s = .next (s.ownStop b).endEvent := by
  have hruns : (s.branch b).runEnds = true := by
    unfold Branch.runEnds
    rw [ho]
    rcases hends with h | h
    · simp [hphase, h]
    · simp [hphase, h]
  exact congrArg Host.Outcome.next (if_pos hruns)

/-! ## What the end of a piece's run keeps -/

/-- State t comes of the end of a piece's run on branch b in state s: the engine has no operation, the other branches are as they were
but for their queues and stalls, and while no head of the Release Queue waits, so are the Response Queue, the groups and the Release
Queue. -/
structure PieceRunEnded (s : State) (b : Fin 4) (t : State) : Prop where
  idle : (t.branch b).op = none
  others : ∀ c, c ≠ b → (t.branch c).unstalled = (s.branch c).unstalled
  fault : t.fault = s.fault
  frames : t.intake <:+ s.intake
  records : s.responseQueue <+: t.responseQueue
  only : t.withRun s = s
  unwaited : s.headHasWaited = false →
    t.responseQueue = s.responseQueue ∧ t.groups = s.groups ∧ t.releaseQueue = s.releaseQueue

theorem afterRun_op (br : Branch) (stuck : Bool) : (br.afterRun stuck).op = br.op := by
  unfold Branch.afterRun
  split <;> rfl

theorem unstalled_of_ungranted {x y : Branch} (h : x.ungranted = y.ungranted) : x.unstalled = y.unstalled :=
  (congrArg Branch.unstalled h :)

/-- Room found and the engine's next state reach the branches alone. -/
theorem afterPiece_only (u : State) (b : Fin 4) :
    { (u.modBranch b fun br => br.afterRun false).roomFreed with branches := u.branches, freeCount := u.freeCount } = u :=
  lift (fun t : State => { t with branches := u.branches }) (roomFreed_only (u.modBranch b fun br => br.afterRun false)) rfl rfl

theorem afterPiece_idle {u : State} (h : (u.branch b).ungranted = ((s.opDropped b).branch b).ungranted) :
    ((u.modBranch b fun br => br.afterRun false).roomFreed.branch b).op = none := by
  rw [(roomFreed_engine _ b).2, branch_modBranch_same, afterRun_op]
  refine (congrArg Branch.op h :).trans ?_
  unfold State.opDropped
  rw [branch_modBranch_same]
  rfl

/-- The end of the run behind an entry whose FINAL frame has not been sent, given what the run did to the entry. -/
theorem pieceRun_ends (ho : (s.branch b).op = some o) (hbody : o.body = .readPiece i n first) (he : s.entry i = some e)
    (hphase : (s.branch b).phase = .stop) (htold : (s.branch b).told = none) (hends : (s.branch b).StopEnds o)
    {e1 : SplitEntry} (hsettled : ((s.opDropped b).settlePiece i e o n first (s.branch b).stopReason.runStatus).entry i = some e1)
    (hunsent : e1.finalSent = false) :
    ∃ e' more, PieceRunEnded s b (s.ownStop b) ∧ (s.ownStop b).entry i = some e' ∧ e'.ungranted = e1.ungranted ∧
      e'.pieces = e1.pieces ++ more ∧ (∀ p ∈ more, p.state = .queued) ∧ (e1.state ≠ .gathering → e' = e1) := by
  have hstop := ownStop_piece ho hbody he hphase htold hends
  have hrun := ownStop_only s b
  set w : State := (s.opDropped b).settlePiece i e o n first (s.branch b).stopReason.runStatus with hw
  have hwonly := settlePiece_only (s.opDropped b) i e o n first (s.branch b).stopReason.runStatus
  have hfreed := slotFreed_freed w e.route.branch
  obtain ⟨e', more, he', hpieces, hqueued⟩ := slotFreed_appends w e.route.branch i e1 hsettled
  have hungranted : e'.ungranted = e1.ungranted := by
    have h := hfreed.entries i
    rw [he', hsettled] at h
    exact Option.some.inj h
  have hdone : s.pieceSettled b i e o n first = w.slotFreed e.route.branch :=
    freeIfDone_unsent he' ((congrArg SplitEntry.finalSent hungranted :).trans hunsent)
  rw [hdone] at hstop
  have honly := afterPiece_only (w.slotFreed e.route.branch) b
  rw [← hstop] at honly
  have hbranch (c : Fin 4) : ((w.slotFreed e.route.branch).branch c).ungranted = ((s.opDropped b).branch c).ungranted :=
    (hfreed.branches c).trans (settlePiece_ungranted _ _ _ _ _ _ _ c)
  refine ⟨e', more, ⟨?_, fun c hc => ?_, ?_, ?_, ?_, hrun, fun hwait => ?_⟩,
    (congrArg (fun t : State => t.entry i) honly :).trans he', hungranted, hpieces, hqueued, fun hstate => ?_⟩
  · rw [hstop]
    exact afterPiece_idle (hbranch b)
  · rw [hstop, roomFreed_unstalled, branch_modBranch_ne _ _ _ _ hc]
    refine (unstalled_of_ungranted (hbranch c)).trans ?_
    unfold State.opDropped
    rw [branch_modBranch_ne _ _ _ _ hc]
  · exact (congrArg State.fault honly :).trans ((congrArg State.fault hfreed.only :).trans (congrArg State.fault hwonly :))
  · have hi : (s.ownStop b).intake = (w.slotFreed e.route.branch).intake := (congrArg State.intake honly :)
    have hwi : w.intake = s.intake := (congrArg State.intake hwonly :)
    rw [hi, ← hwi]
    exact hfreed.frames
  · obtain ⟨added, hadded, _⟩ := hfreed.records
    have hq : (s.ownStop b).responseQueue = (w.slotFreed e.route.branch).responseQueue := (congrArg State.responseQueue honly :)
    have hwq : w.responseQueue = s.responseQueue := (congrArg State.responseQueue hwonly :)
    exact ⟨added, by rw [hq, hadded, hwq]⟩
  · have hwait' : w.headHasWaited = false := (congrArg State.headHasWaited hwonly :).trans hwait
    have hslots : (w.slotFreed e.route.branch).withSlots w = w := slotFreed_slots hwait' e.route.branch
    exact ⟨(congrArg State.responseQueue honly :).trans
        ((congrArg State.responseQueue hslots :).trans (congrArg State.responseQueue hwonly :)),
      (congrArg State.groups honly :).trans ((congrArg State.groups hslots :).trans (congrArg State.groups hwonly :)),
      (congrArg State.releaseQueue honly :).trans
        ((congrArg State.releaseQueue hslots :).trans (congrArg State.releaseQueue hwonly :))⟩
  · exact Option.some.inj (he'.symm.trans (slotFreed_still hsettled hstate _))

/-! ## The entry is freed behind the run (R65) -/

theorem claims_of_no_pending (h : ∀ c, (s.attn c).pending = false) : s.claims = s := by
  have hover (bs : List (Fin 4)) : s.claimOver bs = s := by
    induction bs with
    | nil => rfl
    | cons c rest ih =>
      have hc : (s.attn c).waiting = false := by
        unfold Attn.waiting
        rw [h c, Bool.and_false]
      unfold State.claimOver
      rw [hc, Bool.false_and]
      exact ih
  unfold State.claims
  split
  · exact hover four
  · rfl

/-- An entry of a READ whose FINAL frame has been sent and that has no ACTIVE piece is freed, and no attention entry claims the place. -/
theorem freeIfDone_sent {rt : ReqTag} (he : s.entry i = some e) (hsent : e.finalSent = true) (hactive : e.hasActive = false)
    (howner : e.owner = .trunk rt) (hpending : ∀ c, (s.attn c).pending = false) :
    s.freeIfDone i = { s.setEntry i none with ageOrder := s.ageOrder.filter fun j => !(j == i) } := by
  unfold State.freeIfDone
  rw [he]
  dsimp only
  rw [hsent, hactive]
  unfold State.freeEntry
  rw [he]
  dsimp only
  rw [howner]
  exact claims_of_no_pending (s := { s.setEntry i none with ageOrder := s.ageOrder.filter fun j => !(j == i) }) hpending

theorem pieceRun_frees {rt : ReqTag} (ho : (s.branch b).op = some o) (hbody : o.body = .readPiece i n first)
    (he : s.entry i = some e) (hphase : (s.branch b).phase = .stop) (htold : (s.branch b).told = none)
    (hends : (s.branch b).StopEnds o) {e1 : SplitEntry}
    (hsettled : ((s.opDropped b).settlePiece i e o n first (s.branch b).stopReason.runStatus).entry i = some e1)
    (hsent : e1.finalSent = true) (hactive : e1.hasActive = false) (howner : e1.owner = .trunk rt) (hstate : e1.state ≠ .gathering)
    (hpending : ∀ c, (s.attn c).pending = false) :
    ((s.ownStop b).branch b).op = none ∧ (s.ownStop b).entry i = none ∧
      (s.ownStop b).ageOrder = s.ageOrder.filter fun j => !(j == i) := by
  have hstop := ownStop_piece ho hbody he hphase htold hends
  set w : State := (s.opDropped b).settlePiece i e o n first (s.branch b).stopReason.runStatus with hw
  have hwonly := settlePiece_only (s.opDropped b) i e o n first (s.branch b).stopReason.runStatus
  have hfreed := slotFreed_freed w e.route.branch
  have hsettle := withSettle_trans hfreed.only (withSettle_of_split hwonly)
  have hattn (c : Fin 4) : ((w.slotFreed e.route.branch).attn c).pending = false :=
    (congrArg (fun t : State => (t.attn c).pending) hsettle :).trans (hpending c)
  have hage : (w.slotFreed e.route.branch).ageOrder = s.ageOrder := (congrArg State.ageOrder hsettle :)
  have hdone := freeIfDone_sent (slotFreed_still hsettled hstate e.route.branch) hsent hactive howner hattn
  have hfinal : s.pieceSettled b i e o n first = _ := hdone
  rw [hfinal] at hstop
  have honly := afterPiece_only { (w.slotFreed e.route.branch).setEntry i none with
    ageOrder := (w.slotFreed e.route.branch).ageOrder.filter fun j => !(j == i) } b
  rw [← hstop] at honly
  refine ⟨?_, (congrArg (fun t : State => t.entry i) honly :).trans (entry_setEntry_same _ _ _), ?_⟩
  · rw [hstop]
    exact afterPiece_idle ((hfreed.branches b).trans (settlePiece_ungranted _ _ _ _ _ _ _ b))
  · rw [← hage]
    exact (congrArg State.ageOrder honly :)

end

/-- A run that is done or has failed for good ends behind its STOP. -/
theorem stopEnds_of_failed {s : State} {b : Fin 4} {o : Operation} {i : Fin 16} {n : Nat} {first : Bool}
    (hbody : o.body = .readPiece i n first)
    (h : (s.branch b).stopReason = .done ∨ (s.branch b).stopReason = .dataNack ∨ ((s.branch b).stopReason = .addressNack ∧
      ((first = false ∧ o.persist = false) ∨ o.retryLimit.val < (s.branch b).retryCount))) : (s.branch b).StopEnds o := by
  rcases h with h | h | ⟨_, h⟩
  · exact .inl (by rw [h]; decide)
  · exact .inl (by rw [h]; decide)
  · exact .inr ((nackEnds_iff hbody _).2 h)

/-- Settles O45: the entry is settled case by case (R53 to R56), and slots freed and room found only append pieces to it. -/
theorem readRunEnds : Obligations.ReadRunEnds := by
  unfold Obligations.ReadRunEnds
  intro s b o i n first e ho hbody he hfinals hphase htold failed ends closes
  have hunsent (hg : e.state = .gathering) : e.finalSent = false :=
    (finalBegun_eq_false_iff.1 (hfinals.gathering i e he hg)).1
  have endsWith {P : SplitEntry → Prop} (e1 : SplitEntry) (hends : (s.branch b).StopEnds o)
      (hsettled : ((s.opDropped b).settlePiece i e o n first (s.branch b).stopReason.runStatus).entry i = some e1)
      (hsent : e1.finalSent = false) (hreceived : e1.received = e.received) (hbytes : e1.sent = e.sent)
      (hP : ∀ e' more, e'.ungranted = e1.ungranted → e'.pieces = e1.pieces ++ more → (∀ p ∈ more, p.state = .queued) →
        (e1.state ≠ .gathering → e' = e1) → P e') : ends P := by
    obtain ⟨e', more, hrun, he', hungranted, hpieces, hqueued, hstill⟩ :=
      pieceRun_ends ho hbody he hphase htold hends hsettled hsent
    exact ⟨s.ownStop b, e', exec_runEnd_piece ho hphase hends, hrun.idle, he',
      (congrArg SplitEntry.received hungranted :).trans hreceived, (congrArg SplitEntry.sent hungranted :).trans hbytes,
      hP e' more hungranted hpieces hqueued hstill, hrun.others, (congrArg State.opState hrun.only :), hrun.fault, hrun.frames,
      hrun.records, hrun.only, hrun.unwaited⟩
  have closesWith {st : Status} (hg : e.state = .gathering) (hends : (s.branch b).StopEnds o)
      (hstatus : (s.branch b).stopReason.runStatus = st) (hok : st ≠ .ok)
      (herror : ¬ (st = .nack ∧ first = false ∧ o.persist = false)) (hmissing : e.start + e.received < o.offset + n) :
      closes st := by
    subst hstatus
    refine endsWith _ hends (settlePiece_error hg hmissing hok herror) (hunsent hg) rfl rfl fun e' _ _ _ _ hstill => ?_
    rw [hstill nofun]
    exact ⟨rfl, rfl, rfl, rfl⟩
  refine ⟨fun hstate hrun => ?_, fun hg hreason hfirst hpersist hmissing => ?_, fun hg hreason hlimit herror hmissing => ?_,
    fun hg hreason hmissing => ?_, fun hstate hsent hrun => ?_, fun rt hsent howner hstate hrun hcovered hpending => ?_⟩
  · -- the read goes on
    have hgoes : e.state = .gathering ∨ e.state = .delivering := hstate.imp_right And.left
    have hdone : (s.branch b).stopReason.runStatus = .ok ∨ o.offset + n ≤ e.start + e.received :=
      hrun.imp (fun h => congrArg StopReason.runStatus h) And.right
    refine endsWith e.holdActive (stopEnds_of_failed hbody (hrun.imp_right And.left))
      (by rw [settlePiece_goesOn hgoes hdone, entry_setEntry_same]) (hstate.elim hunsent And.right) rfl rfl
      fun e' more hungranted hpieces hqueued _ =>
        ⟨(congrArg SplitEntry.state hungranted :), (congrArg SplitEntry.held hungranted :), fun p hp => ?_⟩
    rw [hpieces] at hp
    rcases List.mem_append.1 hp with hp | hp
    · exact holdActive_inactive hp
    · rw [hqueued p hp]
      decide
  · -- a later piece without PERSIST meets NACK
    obtain ⟨ps, hsettled, hheld⟩ := settlePiece_short (s := s.opDropped b) (i := i) hg hmissing hfirst hpersist
    have hstatus : (s.branch b).stopReason.runStatus = .nack := congrArg StopReason.runStatus hreason
    rw [← hstatus] at hsettled
    refine endsWith _ (.inr ((nackEnds_iff hbody _).2 (.inl ⟨hfirst, hpersist⟩))) hsettled (hunsent hg) rfl rfl
      fun e' _ _ _ _ hstill => ?_
    rw [hstill nofun]
    exact ⟨rfl, rfl, rfl, hheld⟩
  · -- the address NACK outlasts the retries
    refine closesWith hg (.inr ((nackEnds_iff hbody _).2 (.inr hlimit))) (congrArg StopReason.runStatus hreason) (by decide) ?_
      hmissing
    rintro ⟨_, hfirst, hpersist⟩
    rcases herror with h | h
    · rw [hfirst] at h
      cases h
    · rw [hpersist] at h
      cases h
  · -- a data NACK
    exact closesWith hg (.inl (by rw [hreason]; decide)) (congrArg StopReason.runStatus hreason) (by decide)
      (fun h => absurd h.1 (by decide)) hmissing
  · -- the entry is CLOSING or ABANDONED
    refine endsWith e.dropActive (stopEnds_of_failed hbody hrun)
      (by rw [settlePiece_released hstate, entry_setEntry_same]) hsent rfl rfl fun e' _ _ _ _ hstill => ?_
    have hnot : e.dropActive.state ≠ .gathering := by
      change e.state ≠ .gathering
      rcases hstate with h | h <;> rw [h] <;> decide
    rw [hstill hnot]
    simp [SplitEntry.dropActive]
  · -- the FINAL frame has been sent, and the entry is freed
    have hends := stopEnds_of_failed hbody hrun
    obtain ⟨e1, hsettled, hsent1, hactive, howner1, hstate1⟩ : ∃ e1,
        ((s.opDropped b).settlePiece i e o n first (s.branch b).stopReason.runStatus).entry i = some e1 ∧ e1.finalSent = true ∧
          e1.hasActive = false ∧ e1.owner = .trunk rt ∧ e1.state ≠ .gathering := by
      by_cases hd : e.state = .delivering
      · exact ⟨e.holdActive, by rw [settlePiece_goesOn (.inr hd) (.inr (hcovered hd)), entry_setEntry_same], hsent,
          hasActive_eq_false fun p => holdActive_inactive, howner, hstate⟩
      · have hreleased : e.state = .closing ∨ e.state = .abandoned := by
          revert hstate hd
          cases e.state <;> decide
        exact ⟨e.dropActive, by rw [settlePiece_released hreleased, entry_setEntry_same], hsent,
          hasActive_eq_false fun p hp => (mem_dropActive hp).2, howner, hstate⟩
    obtain ⟨hidle, hfree, hage⟩ :=
      pieceRun_frees ho hbody he hphase htold hends hsettled hsent1 hactive howner1 hstate1 hpending
    refine ⟨s.ownStop b, exec_runEnd_piece ho hphase hends, hidle, hfree, ?_, ownStop_only s b⟩
    rw [hage]
    exact List.filter_congr fun j _ => by rw [beq_eq_decide, decide_not]

end Sys2Proof.Machine
end

section
/-! SUPPORT. MGMT WRITEs of single registers: the fields of the bridge, of a branch and of a group. -/

namespace Sys2Proof.Machine

/-! ## The addresses of the fields (section 10.2), and the row that takes a write of them -/

theorem registerAt_timeoutClass (c : Fin 4) : registerAt (BitVec.ofNat 16 (0x024 + c.val)).toNat = some (.timeoutClass c) := by
  revert c
  decide

theorem registerAt_branchFields (b : Fin 4) :
    registerAt (BitVec.ofNat 16 (0x041 + 8 * b.val)).toNat = some (.branchGap b) ∧
      registerAt (BitVec.ofNat 16 (0x042 + 8 * b.val)).toNat = some (.branchPause b) ∧
      registerAt (BitVec.ofNat 16 (0x043 + 8 * b.val)).toNat = some (.branchStretch b) ∧
      registerAt (BitVec.ofNat 16 (0x044 + 8 * b.val)).toNat = some (.branchBusy b) := by
  revert b
  decide

theorem registerAt_groupFields (g : Fin 7) :
    registerAt (BitVec.ofNat 16 (0x075 + 4 * g.val)).toNat = some (.groupAction g) ∧
      registerAt (BitVec.ofNat 16 (0x076 + 4 * g.val)).toNat = some (.groupWidth g) := by
  revert g
  decide

/-- The registers whose writes have no row of their own, whatever the value. -/
theorem mgmtWriteRow_field {a : Nat} (w : Word)
    (h : a ∉ ([0x008, 0x009, 0x020, 0x028, 0x029, 0x030, 0x031, 0x032, 0x034, 0x040, 0x048, 0x050, 0x058] : List Nat))
    (hattn : ¬ (0x060 ≤ a ∧ a ≤ 0x06F)) (hgroup : ¬ (0x074 ≤ a ∧ a ≤ 0x08F ∧ a % 4 = 0)) :
    mgmtWriteRow a w = .mgmtRegisterWrite := by
  simp only [List.mem_cons, List.not_mem_nil, or_false, not_or] at h
  obtain ⟨h1, h2, h3, h4, h5, h6, h7, h8, h9, h10, h11, h12, h13⟩ := h
  unfold mgmtWriteRow
  dsimp only
  rw [if_neg h1, if_neg h2, if_neg h3, if_neg h4, if_neg h5, if_neg h6, if_neg h7, if_neg h8, if_neg h9,
    if_neg (by simp [h10, h11, h12, h13]), if_neg fun ⟨hlo, hhi, _⟩ => hattn ⟨hlo, hhi⟩, if_neg hgroup]

theorem mgmtWriteRow_timeoutClass (c : Fin 4) (w : Word) :
    mgmtWriteRow (BitVec.ofNat 16 (0x024 + c.val)).toNat w = .mgmtRegisterWrite := by
  refine mgmtWriteRow_field w ?_ ?_ ?_
  all_goals
    revert c
    decide

theorem mgmtWriteRow_branchField (b : Fin 4) (k : Fin 4) (w : Word) :
    mgmtWriteRow (BitVec.ofNat 16 (0x041 + k.val + 8 * b.val)).toNat w = .mgmtRegisterWrite := by
  refine mgmtWriteRow_field w ?_ ?_ ?_
  all_goals
    revert b k
    decide

theorem mgmtWriteRow_groupField (g : Fin 7) (k : Fin 2) (w : Word) :
    mgmtWriteRow (BitVec.ofNat 16 (0x075 + k.val + 4 * g.val)).toNat w = .mgmtRegisterWrite := by
  refine mgmtWriteRow_field w ?_ ?_ ?_
  all_goals
    revert g k
    decide

/-! ## What a write of a word comes to -/

section
variable {s t : State} {rest : List Frame} {reqtag bridge : Byte} {address : BitVec 16} {w : Word} {r : Register} {row : Instr}

/-- A word that stores a field and causes no answer. -/
theorem exec_fieldWrite (h : s.Ready (mgmtWriteFrame reqtag bridge address w) rest) (hr : registerAt address.toNat = some r)
    (hrow : mgmtWriteRow address.toNat w = row) (hw : (s.writeTaken [] reqtag bridge .ok).writeWord r w = .applied t)
    (hstopped : t.intakeStopped = s.intakeStopped) (hqueue : t.responseQueue = (s.writeTaken [] reqtag bridge .ok).responseQueue) :
    exec row s = .next (State.endEvent { t with intake := rest }) := by
  rw [← hrow]
  exact exec_writeFrame_applied h hr hw (hstopped.trans h.1.2.2) hqueue

theorem exec_fieldWrite_refused (h : s.Ready (mgmtWriteFrame reqtag bridge address w) rest)
    (hr : registerAt address.toNat = some r) (hrow : mgmtWriteRow address.toNat w = row)
    (hw : (s.writeTaken [] reqtag bridge .ok).writeWord r w = .stops .badField) :
    exec row s = .next (s.writeTaken rest reqtag bridge .badField).endEvent := by
  rw [← hrow]
  exact exec_writeFrame_stops h hr hw

/-! ## The words of the bridge -/

theorem writeWord_tickShift (s : State) {n : Fin 8} (h : w.toNat = n.val) :
    s.writeWord .tickShift w = .applied { s with tickShift := n } := by
  unfold State.writeWord
  dsimp only
  rw [h, finOf_val]

theorem writeWord_lateWindow_stops (s : State) (h : 65535 < w.toNat) : s.writeWord .lateWindow w = .stops .badField := by
  unfold State.writeWord
  exact if_pos h

theorem writeWord_timeoutClass_stops (s : State) (c : Fin 4) (h : w = 0 ∨ 16777215 < w.toNat) :
    s.writeWord (.timeoutClass c) w = .stops .badField := by
  unfold State.writeWord
  exact if_pos (h.imp_left (congrArg BitVec.toNat))

theorem clearFlags_getLsbD (s : State) (w : Word) {k : Nat} (hk : k < 11) :
    (s.clearFlags w).flags.getLsbD k = (s.flags.getLsbD k && !w.getLsbD k) := by
  simp [State.clearFlags, hk]

/-! ## The byte-wide fields of a branch (R105) -/

theorem byteField_stores {x : Byte} (store : Byte → State) (h : w.toNat = x.toNat) : byteField w store = .applied (store x) := by
  have hx := x.isLt
  unfold byteField
  rw [if_neg (by omega), setWidth_of_toNat_eq h]

theorem byteField_refuses (store : Byte → State) (h : 255 < w.toNat) : byteField w store = .stops .badField := if_pos h

theorem writeWord_branchGap (s : State) (b : Fin 4) (w : Word) :
    s.writeWord (.branchGap b) w = byteField w fun x => s.modBranch b fun br => { br with gap := x } := rfl

theorem writeWord_branchPause (s : State) (b : Fin 4) (w : Word) :
    s.writeWord (.branchPause b) w = byteField w fun x => s.modBranch b fun br => { br with retryPause := x } := rfl

theorem writeWord_branchStretch (s : State) (b : Fin 4) (w : Word) : s.writeWord (.branchStretch b) w =
    byteField w fun x => (s.modBranch b fun br => { br with stretchLimit := x }).judgeClock b := rfl

theorem writeWord_branchBusy (s : State) (b : Fin 4) (w : Word) : s.writeWord (.branchBusy b) w =
    byteField w fun x => (s.modBranch b fun br => { br with busyLimit := x }).judgeBusy b := rfl

/-! ## A limit below its running timer (R99, R102) -/

theorem stretchRuns_iff (br : Branch) : br.stretchRuns = true ↔
    br.phase ∈ ([.start, .address, .subaddress, .writeData, .restart, .readData, .stop, .clearing] : List Phase) := by
  unfold Branch.stretchRuns
  cases br.phase <;> decide

theorem clockIsStuck_iff (br : Branch) : br.clockIsStuck = true ↔
    br.stretchRuns = true ∧ br.stretchLimit ≠ 0 ∧ br.stretchLimit.toNat * 1000 < br.stretchCounter := by
  unfold Branch.clockIsStuck
  rw [Bool.and_eq_true, decide_eq_true_iff]

theorem judgeClock_of_not_stuck {b : Fin 4} (h : (s.branch b).clockIsStuck = false) : s.judgeClock b = s :=
  if_neg (by rw [h]; decide)

/-- A clock found low for as long as the counter says already is only judged. -/
theorem exec_clockStuck_same {b : Fin 4} (h : (s.branch b).stretchRuns = true) :
    exec (.clockStuck b (s.branch b).stretchCounter) s = .next (s.judgeClock b).endEvent := by
  have hexec : exec (.clockStuck b (s.branch b).stretchCounter) s = execClockStuck b (s.branch b).stretchCounter s := rfl
  rw [hexec]
  unfold execClockStuck
  rw [if_pos h, modBranch_id (f := fun br => { br with stretchCounter := (s.branch b).stretchCounter }) rfl]

theorem busyExceeded_iff (br : Branch) : br.busyExceeded = true ↔
    br.enabled = true ∧ br.bus = .busyOther ∧ br.busyFlagged = false ∧ br.busyLimit ≠ 0 ∧
      br.busyLimit.toNat * 1000 < br.busyTimer := by
  simp [Branch.busyExceeded, and_assoc]

theorem judgeBusy_of_not_exceeded {b : Fin 4} (h : (s.branch b).busyExceeded = false) : s.judgeBusy b = s :=
  if_neg (by rw [h]; decide)

theorem judgeBusy_of_exceeded {b : Fin 4} (h : (s.branch b).busyExceeded = true) :
    s.judgeBusy b = (s.modBranch b fun br => { br with busyFlagged := true }).setFlag .branchBlocked := if_pos h

theorem raiseNotice_withIntake (s : State) (rest : List Frame) :
    ({ s with intake := rest } : State).raiseNotice = { s.raiseNotice with intake := rest } := by
  unfold State.raiseNotice
  dsimp only
  split <;> rfl

/-- The flags do not look at the buffer. -/
theorem setFlag_withIntake (s : State) (f : EventFlag) (rest : List Frame) :
    ({ s with intake := rest } : State).setFlag f = { s.setFlag f with intake := rest } := by
  unfold State.setFlag State.flag
  dsimp only
  split
  · rfl
  · split
    · exact raiseNotice_withIntake { s with flags := s.flags ||| f.mask } rest
    · rfl

/-! ## The end of a run only appends records -/

theorem addAnswer_records (s : State) (b : Fin 4) (r : Record) : s.responseQueue <+: (s.addAnswer b r).responseQueue := by
  unfold State.addAnswer
  split
  · exact List.prefix_append _ _
  · exact List.prefix_rfl

theorem pieceEnd_records (s : State) (i : Fin 16) (o : Operation) (n : Nat) (first : Bool) (status : Status) :
    s.responseQueue <+: (s.pieceEnd i o n first status).responseQueue := by
  unfold State.pieceEnd
  split
  · exact List.prefix_rfl
  · rename_i e _
    obtain ⟨more, hmore, _⟩ := (slotFreed_freed (s.settlePiece i e o n first status) e.route.branch).records
    have hfree := (congrArg State.responseQueue (freeIfDone_only
      ((s.settlePiece i e o n first status).slotFreed e.route.branch) i) :)
    have hsettle := (congrArg State.responseQueue (settlePiece_only s i e o n first status) :)
    exact ⟨more, (congrArg (· ++ more) hsettle.symm).trans (hmore.symm.trans hfree.symm)⟩

theorem reportMember_responseQueue (s : State) (member : Option (Fin 7 × Byte)) (ok : Bool) :
    (s.reportMember member ok).responseQueue = s.responseQueue := (congrArg State.responseQueue (reportMember_only s member ok) :)

theorem handOn_records (s : State) (b : Fin 4) (o : Operation) (status : Status) (n : Nat) :
    s.responseQueue <+: (s.handOn b o status n).responseQueue := by
  unfold State.handOn
  split
  · exact pieceEnd_records s _ o _ _ status
  · split
    · exact List.prefix_rfl
    · rw [(congrArg State.responseQueue (recordFault_only s b o status) :)]
  · exact addAnswer_records s b _
  · dsimp only
    split
    · exact addAnswer_records s b _
    · rw [reportMember_responseQueue]
      exact addAnswer_records s b _

theorem endRun_records (s : State) (b : Fin 4) (status : Status) (stuck : Bool) :
    s.responseQueue <+: (s.endRun b status stuck).responseQueue := by
  unfold State.endRun
  split
  · exact List.prefix_rfl
  · rename_i o _
    dsimp only
    rw [(congrArg State.responseQueue (roomFreed_only _) :)]
    exact handOn_records (s.modBranch b Branch.dropOp) b o status _

theorem judgeClock_records (s : State) (b : Fin 4) : s.responseQueue <+: (s.judgeClock b).responseQueue := by
  have hflag : s.responseQueue <+: (s.setFlag .branchStuck).responseQueue := by
    rw [setFlag_responseQueue]
  unfold State.judgeClock
  dsimp only
  split
  · split
    · exact hflag
    · split
      · exact hflag
      · exact hflag.trans (endRun_records _ b _ _)
  · exact List.prefix_rfl

/-! ## The fields of a group (R145, R168) -/

theorem latchActionOfCode_code (a : LatchAction) : LatchAction.ofCode a.code = some a := by cases a <;> rfl

theorem groupPolicyOfCode_code (p : GroupPolicy) : GroupPolicy.ofCode p.code = some p := by cases p <;> rfl

theorem latchActionOfCode_eq_none : ∀ x : BitVec 3, x ∉ ([1, 2, 3, 4] : List (BitVec 3)) → LatchAction.ofCode x.toNat = none := by
  decide

theorem groupPolicyOfCode_eq_none : ∀ x : BitVec 2, x ∉ ([0, 1] : List (BitVec 2)) → GroupPolicy.ofCode x.toNat = none := by
  decide

theorem writeGroupAction_stores (s : State) (g : Fin 7) {action : LatchAction} {policy : GroupPolicy}
    (ha : (w.extractLsb' 8 3).toNat = action.code) (hp : (w.extractLsb' 16 2).toNat = policy.code) :
    s.writeGroupAction g w =
      .applied (s.modGroup g fun x => { x with lines := w.extractLsb' 0 4, action := action, policy := policy }) := by
  unfold State.writeGroupAction
  rw [ha, hp, latchActionOfCode_code, groupPolicyOfCode_code]

theorem writeGroupAction_refuses (s : State) (g : Fin 7)
    (h : w.extractLsb' 8 3 ∉ ([1, 2, 3, 4] : List (BitVec 3)) ∨ w.extractLsb' 16 2 ∉ ([0, 1] : List (BitVec 2))) :
    s.writeGroupAction g w = .stops .badField := by
  unfold State.writeGroupAction
  rcases h with h | h
  · rw [latchActionOfCode_eq_none _ h]
  · rw [groupPolicyOfCode_eq_none _ h]
    cases LatchAction.ofCode (w.extractLsb' 8 3).toNat <;> rfl

theorem writeGroupWidth_stores (s : State) (g : Fin 7) {x : BitVec 16} (h : w.toNat = x.toNat) (h0 : x ≠ 0) :
    s.writeGroupWidth g w = .applied (s.modGroup g fun y => { y with pulseWidth := x }) := by
  have hx := x.isLt
  have hpos : x.toNat ≠ 0 := fun hz => h0 (BitVec.eq_of_toNat_eq hz)
  unfold State.writeGroupWidth
  rw [if_neg (by omega), setWidth_of_toNat_eq h]

theorem writeGroupWidth_refuses (s : State) (g : Fin 7) (h : w = 0 ∨ 65535 < w.toNat) :
    s.writeGroupWidth g w = .stops .badField := if_pos (h.imp_left (congrArg BitVec.toNat))

/-! ## Writes of the two limits -/

theorem exec_stretchWrite {b : Fin 4} {x : Byte} (hx : w.toNat = x.toNat)
    (h : s.Ready (mgmtWriteFrame reqtag bridge (BitVec.ofNat 16 (0x043 + 8 * b.val)) w) rest)
    (t : State) (ht : t = (s.writeTaken [] reqtag bridge .ok).modBranch b fun br => { br with stretchLimit := x }) :
    exec .mgmtRegisterWrite s = .next (State.endEvent { t.judgeClock b with intake := rest }) := by
  have hrow : mgmtWriteRow (BitVec.ofNat 16 (0x043 + 8 * b.val)).toNat w = .mgmtRegisterWrite := mgmtWriteRow_branchField b 2 w
  obtain ⟨_, _, hr, _⟩ := registerAt_branchFields b
  have hw : (s.writeTaken [] reqtag bridge .ok).writeWord (.branchStretch b) w = .applied (t.judgeClock b) := by
    rw [ht]
    exact (writeWord_branchStretch _ b w).trans (byteField_stores _ hx)
  have hstopped : (t.judgeClock b).intakeStopped = false := by
    refine (congrArg State.intakeStopped (judgeClock_only t b) :).trans ?_
    rw [ht]
    exact h.1.2.2
  obtain ⟨more, hmore⟩ := judgeClock_records t b
  rw [← hrow]
  refine exec_writeFrame_applied h hr hw hstopped (more := more) ?_
  rw [← hmore, ht]
  exact List.append_assoc _ _ _

theorem exec_busyWrite {b : Fin 4} {x : Byte} (hx : w.toNat = x.toNat)
    (h : s.Ready (mgmtWriteFrame reqtag bridge (BitVec.ofNat 16 (0x044 + 8 * b.val)) w) rest)
    (t : State) (ht : t = (s.writeTaken [] reqtag bridge .ok).modBranch b fun br => { br with busyLimit := x }) :
    exec .mgmtRegisterWrite s = .next (State.endEvent { t.judgeBusy b with intake := rest }) := by
  obtain ⟨_, _, _, hr⟩ := registerAt_branchFields b
  have hw : (s.writeTaken [] reqtag bridge .ok).writeWord (.branchBusy b) w = .applied (t.judgeBusy b) := by
    rw [ht]
    exact (writeWord_branchBusy _ b w).trans (byteField_stores _ hx)
  have hqueue : (t.judgeBusy b).responseQueue = t.responseQueue := by
    unfold State.judgeBusy
    split
    · exact setFlag_responseQueue _ _
    · rfl
  exact exec_fieldWrite h hr (mgmtWriteRow_branchField b 3 w) hw
    ((congrArg State.intakeStopped (judgeBusy_only t b) :).trans (by rw [ht]; rfl)) (hqueue.trans (by rw [ht]; rfl))

end

/-- Settles O26, register by register: what the write of the word does, and the outcome of its frame. -/
theorem registerFieldsWritten : Obligations.RegisterFieldsWritten := by
  unfold Obligations.RegisterFieldsWritten
  intro s rest reqtag bridge w taken refused
  refine ⟨fun h => ⟨fun n hn => ?_, fun hn => ?_⟩, fun h => ?_, fun h => ?_, fun h => ⟨fun x hx => ?_, fun hx => ?_⟩,
    fun c h => ⟨fun x hx h0 => ?_, fun hx => ?_⟩, fun b h => ⟨fun x hx => ?_, fun hx => ?_⟩,
    fun b h => ⟨fun x hx => ?_, fun hx => ?_⟩, fun b h => ⟨fun x hx => ?_, fun hx => ?_⟩,
    fun b h => ⟨fun x hx => ?_, fun hx => ?_⟩, fun g h => ⟨fun action policy ha hp => ?_, fun hx => ?_⟩,
    fun g h => ⟨fun x hx h0 => ?_, fun hx => ?_⟩⟩
  · -- TICK SHIFT
    have hexec := exec_fieldWrite h rfl rfl (writeWord_tickShift _ hn) rfl rfl
    exact hexec
  · exact exec_fieldWrite_refused h rfl rfl (writeWord_tickShift_stops _ hn)
  · -- EVENT FLAGS
    have hexec := exec_fieldWrite h (r := .eventFlags) rfl rfl rfl rfl rfl
    exact ⟨(s.clearFlags w).flags, hexec, fun k => clearFlags_getLsbD s w⟩
  · -- the fault record's first word
    have hexec := exec_fieldWrite h (r := .fault 0) rfl rfl rfl rfl rfl
    exact hexec
  · -- LATE WINDOW
    have hexec := exec_fieldWrite h rfl rfl (writeWord_lateWindow _ hx) rfl rfl
    exact hexec
  · exact exec_fieldWrite_refused h rfl rfl (writeWord_lateWindow_stops _ hx)
  · -- the timeout classes
    have hexec := exec_fieldWrite h (registerAt_timeoutClass c) (mgmtWriteRow_timeoutClass c w)
      (writeWord_timeoutClass _ c hx h0) rfl rfl
    exact hexec
  · exact exec_fieldWrite_refused h (registerAt_timeoutClass c) (mgmtWriteRow_timeoutClass c w)
      (writeWord_timeoutClass_stops _ c hx)
  · -- GAP
    obtain ⟨hr, _⟩ := registerAt_branchFields b
    have hexec := exec_fieldWrite h hr (mgmtWriteRow_branchField b 0 w)
      ((writeWord_branchGap _ b w).trans (byteField_stores _ hx)) rfl rfl
    exact hexec
  · obtain ⟨hr, _⟩ := registerAt_branchFields b
    exact exec_fieldWrite_refused h hr (mgmtWriteRow_branchField b 0 w)
      ((writeWord_branchGap _ b w).trans (byteField_refuses _ hx))
  · -- RETRY PAUSE
    obtain ⟨_, hr, _⟩ := registerAt_branchFields b
    have hexec := exec_fieldWrite h hr (mgmtWriteRow_branchField b 1 w)
      ((writeWord_branchPause _ b w).trans (byteField_stores _ hx)) rfl rfl
    exact hexec
  · obtain ⟨_, hr, _⟩ := registerAt_branchFields b
    exact exec_fieldWrite_refused h hr (mgmtWriteRow_branchField b 1 w)
      ((writeWord_branchPause _ b w).trans (byteField_refuses _ hx))
  · -- STRETCH LIMIT
    intro stored runs
    set t : State := (s.writeTaken [] reqtag bridge .ok).modBranch b fun br => { br with stretchLimit := x } with ht
    have hexec := exec_stretchWrite hx h t ht
    have hbranch : t.branch b = { s.branch b with stretchLimit := x } := branch_modBranch_same _ _ _
    refine ⟨fun hnot => ?_, fun hruns h0 hover => ⟨t.judgeClock b, ?_, rfl, hexec⟩⟩
    · have hfree : (t.branch b).clockIsStuck = false := by
        rw [Bool.eq_false_iff, Ne, clockIsStuck_iff, stretchRuns_iff, hbranch]
        rintro ⟨hphase, hlimit, hover⟩
        rcases hnot with hn | hn | hn
        · exact hn hphase
        · exact hlimit hn
        · exact absurd hover (Nat.not_lt.2 hn)
      rw [judgeClock_of_not_stuck hfree] at hexec
      exact hexec
    · have hstretch : (t.branch b).stretchRuns = true := by
        rw [stretchRuns_iff, hbranch]
        exact hruns
      have hclock := exec_clockStuck_same hstretch
      rw [hbranch] at hclock
      exact hclock
  · obtain ⟨_, _, hr, _⟩ := registerAt_branchFields b
    exact exec_fieldWrite_refused h hr (mgmtWriteRow_branchField b 2 w)
      ((writeWord_branchStretch _ b w).trans (byteField_refuses _ hx))
  · -- BUSY LIMIT
    intro exceeded
    set t : State := (s.writeTaken [] reqtag bridge .ok).modBranch b fun br => { br with busyLimit := x } with ht
    have hexec := exec_busyWrite hx h t ht
    have hbusy : (t.branch b).busyExceeded = true ↔ exceeded := by
      rw [busyExceeded_iff, ht, branch_modBranch_same]
      exact Iff.rfl
    refine ⟨fun hnot => ?_, fun hover => ?_⟩
    · rw [judgeBusy_of_not_exceeded (Bool.eq_false_iff.2 fun hb => hnot (hbusy.1 hb))] at hexec
      exact hexec
    · rw [judgeBusy_of_exceeded (hbusy.2 hover), ← setFlag_withIntake, ht, modBranch_modBranch] at hexec
      exact hexec
  · obtain ⟨_, _, _, hr⟩ := registerAt_branchFields b
    exact exec_fieldWrite_refused h hr (mgmtWriteRow_branchField b 3 w)
      ((writeWord_branchBusy _ b w).trans (byteField_refuses _ hx))
  · -- ACTION, POLICY and LINES of a group
    obtain ⟨hr, _⟩ := registerAt_groupFields g
    have hexec := exec_fieldWrite h hr (mgmtWriteRow_groupField g 0 w) (writeGroupAction_stores _ g ha hp) rfl rfl
    exact hexec
  · obtain ⟨hr, _⟩ := registerAt_groupFields g
    exact exec_fieldWrite_refused h hr (mgmtWriteRow_groupField g 0 w) (writeGroupAction_refuses _ g hx)
  · -- PULSE WIDTH
    obtain ⟨_, hr⟩ := registerAt_groupFields g
    have hexec := exec_fieldWrite h hr (mgmtWriteRow_groupField g 1 w) (writeGroupWidth_stores _ g hx h0) rfl rfl
    exact hexec
  · obtain ⟨_, hr⟩ := registerAt_groupFields g
    exact exec_fieldWrite_refused h hr (mgmtWriteRow_groupField g 1 w) (writeGroupWidth_refuses _ g hx)

end Sys2Proof.Machine
end

section
/-! SUPPORT. What the part does in the event in which it first may: when judging the head changes nothing, what follows at once, and
when a frame may begin. -/

namespace Sys2Proof.Machine

/-! ## When judging the head changes nothing (R135, R137, R142) -/

section
variable {s t : State} {e : ReleaseEntry} {rest : List ReleaseEntry}

theorem recordRoom_eq_false_iff : s.recordRoom = false ↔ 16 ≤ s.responseQueue.length := by
  rw [← Bool.not_eq_true, recordRoom_iff, Nat.not_lt]

theorem headWaits_eq_none_iff : s.headWaits e rest = none ↔ e.waiting = true := by
  unfold State.headWaits
  split <;> simp_all

theorem abortHead_eq_none_iff : s.abortHead e rest = none ↔ 16 ≤ s.responseQueue.length := by
  rw [← recordRoom_eq_false_iff]
  unfold State.abortHead
  split <;> simp_all

/-- No place is free for the due entry e: on an enabled branch its Issue Queue is full, and where the entry needs a record the
Response Queue is (R136 to R139). -/
def State.NoPlaceFor (s : State) (e : ReleaseEntry) : Prop :=
  match e.body with
  | .timedWrite _ r _ _ => ((s.branch r.branch).enabled = true ∧ 16 ≤ (s.branch r.branch).queue.length) ∨
      ((s.branch r.branch).enabled = false ∧ 16 ≤ s.responseQueue.length)
  | .timedLatch _ _ _ => 16 ≤ s.responseQueue.length

theorem judgeWrite_eq_none_iff {member : Option (Fin 7 × Byte)} {route : Route} {offset : Nat} {data : List Byte} :
    s.judgeWrite e rest member route offset data = none ↔ e.waiting = true ∧
      (((s.branch route.branch).enabled = true ∧ 16 ≤ (s.branch route.branch).queue.length) ∨
        ((s.branch route.branch).enabled = false ∧ 16 ≤ s.responseQueue.length)) := by
  unfold State.judgeWrite Config.issueDepth
  cases (s.branch route.branch).enabled with
  | true =>
    rw [if_pos rfl]
    by_cases hl : (s.branch route.branch).queue.length < 16
    · simp [hl]
    · simp [hl, headWaits_eq_none_iff, Nat.not_lt.1 hl]
  | false =>
    rw [if_neg Bool.false_ne_true]
    cases hr : s.recordRoom with
    | true => simp [(recordRoom_iff s).1 hr]
    | false => simp [headWaits_eq_none_iff, recordRoom_eq_false_iff.1 hr]

theorem judgeLatch_eq_none_iff {lines : BitVec 4} {action : LatchAction} {width : BitVec 16} :
    s.judgeLatch e rest lines action width = none ↔ e.waiting = true ∧ 16 ≤ s.responseQueue.length := by
  unfold State.judgeLatch
  cases hr : s.recordRoom with
  | true => simp [(recordRoom_iff s).1 hr]
  | false => simp [headWaits_eq_none_iff, recordRoom_eq_false_iff.1 hr]

/-- A due head out of OFFLINE stays as it is when it waits already and still has no place (R137 to R139). -/
theorem judgeHead_due_eq_none_iff (hq : s.releaseQueue = e :: rest) (ho : s.opState ≠ .offline) (hd : e.due = true) :
    s.judgeHead = none ↔ e.waiting = true ∧ s.NoPlaceFor e := by
  unfold State.judgeHead State.NoPlaceFor
  rw [hq]
  dsimp only
  rw [if_neg ho, if_pos hd]
  cases e.body with
  | timedWrite member r offset data => exact judgeWrite_eq_none_iff
  | timedLatch lines action width => exact judgeLatch_eq_none_iff

theorem judgeHead_eq_none_iff (hq : s.releaseQueue = e :: rest) :
    s.judgeHead = none ↔ (s.opState = .offline ∧ 16 ≤ s.responseQueue.length) ∨
      (s.opState ≠ .offline ∧ (e.due = false ∨ (e.waiting = true ∧ s.NoPlaceFor e))) := by
  by_cases ho : s.opState = .offline
  · have hj : s.judgeHead = s.abortHead e rest := by
      unfold State.judgeHead
      rw [hq]
      exact if_pos ho
    rw [hj, abortHead_eq_none_iff]
    simp [ho]
  · cases hd : e.due with
    | true =>
      rw [judgeHead_due_eq_none_iff hq ho hd]
      simp [ho]
    | false =>
      have hj : s.judgeHead = none := by
        unfold State.judgeHead
        rw [hq]
        dsimp only
        rw [if_neg ho, hd]
        rfl
      simp [hj, ho]

theorem judgeHead_of_empty (hq : s.releaseQueue = []) : s.judgeHead = none := by
  unfold State.judgeHead
  rw [hq]

/-- Whether the judgement changes something depends on the Release Queue, on OFFLINE and on the places that are free. -/
theorem judgeHead_none_of_same (h : s.judgeHead = none) (hq : t.releaseQueue = s.releaseQueue)
    (ho : t.opState = .offline ↔ s.opState = .offline) (hr : t.responseQueue.length = s.responseQueue.length)
    (hb : ∀ b, (t.branch b).enabled = (s.branch b).enabled ∧ (t.branch b).queue.length = (s.branch b).queue.length) :
    t.judgeHead = none := by
  cases hs : s.releaseQueue with
  | nil => exact judgeHead_of_empty (hq.trans hs)
  | cons e rest =>
    have hplace : t.NoPlaceFor e ↔ s.NoPlaceFor e := by
      unfold State.NoPlaceFor
      cases e.body with
      | timedWrite member r offset data => simp only [hb, hr]
      | timedLatch lines action width => simp only [hr]
    rw [judgeHead_eq_none_iff (hq.trans hs), Ne, ho, hr, hplace]
    exact (judgeHead_eq_none_iff hs).1 h

end

/-! ## What follows at once -/

theorem mem_four (b : Fin 4) : b ∈ four := by revert b; decide

theorem mem_sixteen (i : Fin 16) : i ∈ sixteen := by revert i; decide

section
variable {s : State} {b : Fin 4}

theorem take_mem_follows_iff : Follow.take b ∈ s.follows ↔ s.mayTake b = true := by
  unfold State.follows
  simp [mem_four]

theorem post_mem_follows_iff : Follow.post b ∈ s.follows ↔ s.mayPost b = true := by
  unfold State.follows
  simp [mem_four]

theorem judge_mem_follows_iff : Follow.judge ∈ s.follows ↔ s.judgeHead.isSome = true := by
  unfold State.follows
  simp

theorem follows_eq_nil_iff :
    s.follows = [] ↔ (∀ b, s.mayTake b = false) ∧ (∀ b, s.mayPost b = false) ∧ s.judgeHead = none := by
  rw [List.eq_nil_iff_forall_not_mem]
  constructor
  · intro h
    refine ⟨fun b => ?_, fun b => ?_, ?_⟩
    · exact Bool.eq_false_iff.2 fun hb => h _ (take_mem_follows_iff.2 hb)
    · exact Bool.eq_false_iff.2 fun hb => h _ (post_mem_follows_iff.2 hb)
    · exact Option.not_isSome_iff_eq_none.1 fun hj => h _ (judge_mem_follows_iff.2 hj)
  · rintro ⟨htake, hpost, hjudge⟩ f hf
    cases f with
    | take b => exact Bool.false_ne_true ((htake b).symm.trans (take_mem_follows_iff.1 hf))
    | post b => exact Bool.false_ne_true ((hpost b).symm.trans (post_mem_follows_iff.1 hf))
    | judge =>
      have hsome := judge_mem_follows_iff.1 hf
      rw [hjudge] at hsome
      exact Bool.false_ne_true hsome

theorem mayTake_iff : s.mayTake b = true ↔
    (s.branch b).phase = .idle ∧ (s.branch b).resetting = false ∧ (s.branch b).answers = [] ∧ (s.branch b).queue ≠ [] ∧
      (s.opState = .active ∨ s.opState = .draining ∨ s.opState = .offline) := by
  unfold State.mayTake
  simp [and_assoc]

theorem mayPost_iff : s.mayPost b = true ↔ (s.branch b).answers ≠ [] ∧ s.responseQueue.length < 16 := by
  unfold State.mayPost
  rw [Bool.and_eq_true, recordRoom_iff]
  simp

end

/-! ## The beginning of a frame (R116 to R119) -/

section
variable {s t : State}

theorem mem_roundRobin (s : State) (i : Fin 16) : i ∈ s.roundRobin :=
  List.mem_map.2 ⟨i - (s.lastServed + 1), mem_sixteen _, add_sub_cancel _ _⟩

theorem readyPlace_isSome_iff : s.readyPlace.isSome = true ↔ ∃ i, s.frameReady i = true := by
  unfold State.readyPlace
  rw [List.find?_isSome]
  exact ⟨fun ⟨i, _, hi⟩ => ⟨i, hi⟩, fun ⟨i, hi⟩ => ⟨i, mem_roundRobin s i, hi⟩⟩

theorem beginsFrame_iff : s.beginsFrame = true ↔ s.sending = none ∧ s.holdIn = false ∧
    (s.responseQueue ≠ [] ∨ s.noticePending = true ∨ ∃ i, s.frameReady i = true) := by
  unfold State.beginsFrame State.mayBegin State.hasCandidate
  rw [Bool.and_eq_true, Bool.or_eq_true, readyPlace_isSome_iff]
  simp [and_assoc, or_assoc]

theorem beginFrame_of_not_begins (h : s.beginsFrame = false) : s.beginFrame = s := by
  have hn := mt beginsFrame_iff.2 (Bool.eq_false_iff.1 h)
  unfold State.beginFrame
  split
  · rename_i hm
    unfold State.mayBegin at hm
    simp only [Bool.and_eq_true, Option.isNone_iff_eq_none, Bool.not_eq_true'] at hm
    split
    · rename_i r rest hr
      exact absurd ⟨hm.1, hm.2, .inl (by rw [hr]; exact List.cons_ne_nil _ _)⟩ hn
    · split
      · rename_i hp
        exact absurd ⟨hm.1, hm.2, .inr (.inl hp)⟩ hn
      · split
        · rfl
        · rename_i i hi
          exact absurd ⟨hm.1, hm.2, .inr (.inr (readyPlace_isSome_iff.1 (by rw [hi]; rfl)))⟩ hn
  · rfl

theorem entry_of_frameReady {i : Fin 16} (h : s.frameReady i = true) : ∃ e, s.entry i = some e := by
  unfold State.frameReady at h
  split at h
  · cases h
  · rename_i e he
    exact ⟨e, he⟩

/-- A frame that may begin begins, and is then in flight (R116). -/
theorem beginFrame_sending (h : s.beginsFrame = true) : s.beginFrame.sending ≠ none := by
  unfold State.beginsFrame at h
  obtain ⟨hm, hc⟩ := Bool.and_eq_true_iff.1 h
  unfold State.beginFrame
  rw [if_pos hm]
  unfold State.hasCandidate at hc
  split
  · exact Option.some_ne_none _
  · rename_i hr
    rw [hr] at hc
    split
    · exact Option.some_ne_none _
    · rename_i hp
      split
      · rename_i hnone
        rw [hnone] at hc
        simp [hp] at hc
      · rename_i i hi
        obtain ⟨e, he⟩ := entry_of_frameReady (List.find?_some hi)
        rw [he]
        exact Option.some_ne_none _

/-- A frame stays ready when the occupancy is higher (R57). -/
theorem frameReady_of_occupancy {i : Fin 16} (he : t.entry i = s.entry i) (hs : t.sending = s.sending)
    (ho : t.occupancy ≤ s.occupancy) (h : t.frameReady i = true) : s.frameReady i = true := by
  have hdata (e : SplitEntry) (hd : dataReady t.occupancy e = true) : dataReady s.occupancy e = true := by
    unfold dataReady at hd ⊢
    simp only [Bool.and_eq_true, Bool.or_eq_true, decide_eq_true_eq] at hd ⊢
    exact hd.imp_right (Or.imp_left (Or.imp_right fun hhigh => hhigh.trans ho))
  unfold State.frameReady at h ⊢
  rw [he, inFlightOf_congr hs i] at h
  split
  · rename_i hnone
    rw [hnone] at h
    cases h
  · rename_i e hsome
    rw [hsome] at h
    dsimp only at h
    rw [Bool.and_eq_true] at h ⊢
    refine ⟨h.1, ?_⟩
    split
    · rename_i hdelivers
      have hwhich := (if_pos hdelivers).symm.trans h.2
      rw [Bool.or_eq_true] at hwhich ⊢
      exact hwhich.imp_left (hdata e)
    · rfl

end

end Sys2Proof.Machine
end

section
/-! SUPPORT. Nothing is left undone: by the end of an event, by a change that gives the part nothing new to do, by every command and
by every step. -/

namespace Sys2Proof.Machine

/-! ## The end of an event -/

/-- The frame of an event's end has begun, or none may begin then (R116). -/
theorem endEvent_frame (s : State) : s.settle.beginFrame.settle.beginsFrame = false := by
  cases hb : s.settle.beginsFrame with
  | true =>
    have hsending := congrArg State.sending (settle_only s.settle.beginFrame)
    refine Bool.eq_false_iff.2 fun h => ?_
    obtain ⟨hidle, _⟩ := beginsFrame_iff.1 h
    exact beginFrame_sending hb ((show s.settle.beginFrame.sending = _ from hsending.symm).trans hidle)
  | false => rw [beginFrame_of_not_begins hb, settle_settle, hb]

/-- With nothing else to do, DRAINING ends or has a reason to last (R176). -/
theorem settled_quiesce {s : State} (hf : s.follows = []) (hb : s.beginsFrame = false) : s.quiesce.Settled := by
  obtain ⟨htake, hpost, hhead⟩ := follows_eq_nil_iff.1 hf
  unfold State.quiesce
  split
  · rename_i hq
    exact {
      engines := fun b => Bool.eq_false_iff.2 fun h => by
        obtain ⟨_, _, _, _, hstate⟩ := mayTake_iff.1 h
        rcases hstate with h | h | h <;> cases h
      answers := hpost
      head := judgeHead_none_of_same hhead rfl (by rw [hq.1]; exact iff_of_false nofun nofun) rfl fun _ => ⟨rfl, rfl⟩
      frame := hb
      draining := nofun }
  · rename_i hq
    exact {
      engines := htake, answers := hpost, head := hhead, frame := hb
      draining := fun hd => Bool.eq_false_iff.2 fun h => hq ⟨hd, h⟩ }

/-- The end of an event leaves nothing undone (log 38). -/
theorem settled_endEvent (s : State) : s.endEvent.Settled := settled_quiesce (settle_follows _) (endEvent_frame s)

/-! ## Changes that give the part nothing new to do -/

/-- Branch br gives its engine, the Release Unit and the Transmitter nothing to do that the branch `old` does not. -/
structure Branch.NoBusier (br old : Branch) : Prop where
  queue : br.queue = old.queue
  answers : br.answers = old.answers
  enabled : br.enabled = old.enabled
  resetting : br.resetting = old.resetting
  idle : br.phase = .idle → old.phase = .idle
  reserved : reservedOf br ≤ reservedOf old

theorem Branch.NoBusier.refl (br : Branch) : br.NoBusier br := ⟨rfl, rfl, rfl, rfl, id, Nat.le_refl _⟩

/-- State t gives the part nothing to do that state s does not: they differ in timers, lines, attention entries, in what waits outside,
and in branches that are no busier. -/
structure State.NoBusier (t s : State) : Prop where
  only : { t with
    pending := s.pending, freeCount := s.freeCount, branches := s.branches, lines := s.lines, attns := s.attns,
    tickTimer := s.tickTimer, wakeTimer := s.wakeTimer, holdIn := s.holdIn } = s
  holdIn : s.holdIn = true → t.holdIn = true
  branches : ∀ b, (t.branch b).NoBusier (s.branch b)

section
variable {s t : State}

theorem noBusier_modBranch {b : Fin 4} {f : Branch → Branch} (hf : (f (s.branch b)).NoBusier (s.branch b)) :
    (s.modBranch b f).NoBusier s where
  only := rfl
  holdIn := id
  branches c := by
    by_cases hc : c = b
    · subst hc
      rwa [branch_modBranch_same]
    · rw [branch_modBranch_ne _ _ _ _ hc]
      exact .refl _

/-- A change outside the branches. -/
theorem noBusier_of_branches (hb : t.branches = s.branches) (hin : s.holdIn = true → t.holdIn = true)
    (h : { t with
      pending := s.pending, freeCount := s.freeCount, lines := s.lines, attns := s.attns, tickTimer := s.tickTimer,
      wakeTimer := s.wakeTimer, holdIn := s.holdIn } = s) : t.NoBusier s where
  only := lift (fun x : State => { x with branches := s.branches }) h rfl rfl
  holdIn := hin
  branches b := by
    have hbranch : t.branch b = s.branch b := congrArg (fun v : Vector Branch 4 => v[b.val]) hb
    rw [hbranch]
    exact .refl _

theorem State.NoBusier.occupancy (h : t.NoBusier s) : t.occupancy ≤ s.occupancy :=
  occupancy_le (fun i => Nat.le_of_eq (congrArg (fun x : State => entryHeld (x.entry i)) h.only :))
    fun b => (h.branches b).reserved

theorem State.NoBusier.beginsFrame (h : t.NoBusier s) (hb : t.beginsFrame = true) : s.beginsFrame = true := by
  obtain ⟨hsending, hin, hcandidate⟩ := beginsFrame_iff.1 hb
  have hs : t.sending = s.sending := (congrArg State.sending h.only :)
  have hr : t.responseQueue = s.responseQueue := (congrArg State.responseQueue h.only :)
  have hp : t.noticePending = s.noticePending := (congrArg State.noticePending h.only :)
  rw [hr, hp] at hcandidate
  refine beginsFrame_iff.2 ⟨hs.symm.trans hsending, ?_, hcandidate.imp_right (Or.imp_right fun ⟨i, hi⟩ => ⟨i, ?_⟩)⟩
  · exact Bool.eq_false_iff.2 fun hheld => Bool.false_ne_true (hin.symm.trans (h.holdIn hheld))
  · have he : t.entry i = s.entry i := (congrArg (fun x : State => x.entry i) h.only :)
    exact frameReady_of_occupancy he hs h.occupancy hi

theorem State.NoBusier.quiescent (h : t.NoBusier s) : t.quiescent = s.quiescent := by
  have hn : t.entriesInUse = s.entriesInUse := (congrArg State.entriesInUse h.only :)
  have hr : t.responseQueue = s.responseQueue := (congrArg State.responseQueue h.only :)
  have hp : t.noticePending = s.noticePending := (congrArg State.noticePending h.only :)
  have hs : t.sending = s.sending := (congrArg State.sending h.only :)
  have hi : t.intake = s.intake := (congrArg State.intake h.only :)
  have hq : (fun b => (t.branch b).queue.isEmpty) = fun b => (s.branch b).queue.isEmpty :=
    funext fun b => by rw [(h.branches b).queue]
  unfold State.quiescent
  rw [hn, hr, hp, hs, hi, hq]

theorem State.Settled.noBusier (h : s.Settled) (ht : t.NoBusier s) : t.Settled where
  engines b := Bool.eq_false_iff.2 fun hb => by
    obtain ⟨hidle, hresetting, hanswers, hqueue, hstate⟩ := mayTake_iff.1 hb
    have hbr := ht.branches b
    rw [hbr.resetting] at hresetting
    rw [hbr.answers] at hanswers
    rw [hbr.queue] at hqueue
    have ho : t.opState = s.opState := (congrArg State.opState ht.only :)
    rw [ho] at hstate
    exact Bool.false_ne_true
      ((h.engines b).symm.trans (mayTake_iff.2 ⟨hbr.idle hidle, hresetting, hanswers, hqueue, hstate⟩))
  answers b := Bool.eq_false_iff.2 fun hb => by
    obtain ⟨hanswers, hroom⟩ := mayPost_iff.1 hb
    rw [(ht.branches b).answers] at hanswers
    have hr : t.responseQueue = s.responseQueue := (congrArg State.responseQueue ht.only :)
    rw [hr] at hroom
    exact Bool.false_ne_true ((h.answers b).symm.trans (mayPost_iff.2 ⟨hanswers, hroom⟩))
  head := judgeHead_none_of_same h.head (congrArg State.releaseQueue ht.only :)
    (by rw [show t.opState = s.opState from (congrArg State.opState ht.only :)])
    (congrArg (fun x : State => x.responseQueue.length) ht.only :)
    fun b => ⟨(ht.branches b).enabled, congrArg List.length (ht.branches b).queue⟩
  frame := Bool.eq_false_iff.2 fun hb => Bool.false_ne_true (h.frame.symm.trans (ht.beginsFrame hb))
  draining hd := ht.quiescent.trans (h.draining ((congrArg State.opState ht.only :).symm.trans hd))

theorem State.Settled.modBranch (h : s.Settled) {b : Fin 4} {f : Branch → Branch}
    (hf : (f (s.branch b)).NoBusier (s.branch b)) : (s.modBranch b f).Settled := h.noBusier (noBusier_modBranch hf)

theorem State.Settled.modAttn (h : s.Settled) (b : Fin 4) (f : Attn → Attn) : (s.modAttn b f).Settled :=
  h.noBusier (noBusier_of_branches rfl id rfl)

theorem State.Settled.pick {α : Type} (h : s.Settled) {xs : List α} {x : α} (hp : s.pick xs = some (x, t)) : t.Settled := by
  have ht := pick_only s xs x t hp
  have hin : t.holdIn = s.holdIn := (congrArg State.holdIn ht :)
  exact h.noBusier (noBusier_of_branches (congrArg State.branches ht :) (fun hs => hin.trans hs)
    (lift (fun u : State => { u with
      pending := s.pending, lines := s.lines, attns := s.attns, tickTimer := s.tickTimer, wakeTimer := s.wakeTimer,
      holdIn := s.holdIn }) ht rfl rfl))

/-! ## Engines on their way (R90 to R98) -/

theorem makeStart_noBusier (br : Branch) (o : Operation) : (br.makeStart o).NoBusier br where
  queue := rfl
  answers := rfl
  enabled := rfl
  resetting := rfl
  idle := nofun
  reserved := Nat.zero_le _

theorem beginAttempt_noBusier (br : Branch) (o : Operation) : (br.beginAttempt o).NoBusier br := by
  unfold Branch.beginAttempt
  split
  · split
    · exact makeStart_noBusier br o
    · exact ⟨rfl, rfl, rfl, rfl, nofun, Nat.zero_le _⟩
  · exact ⟨rfl, rfl, rfl, rfl, nofun, Nat.zero_le _⟩

theorem makeStop_noBusier (br : Branch) (reason : StopReason) : (br.makeStop reason).NoBusier br :=
  ⟨rfl, rfl, rfl, rfl, nofun, Nat.le_refl _⟩

theorem State.Settled.ownStart (h : s.Settled) (b : Fin 4) : (s.ownStart b).Settled := by
  unfold State.ownStart
  split
  · exact h.modBranch ⟨rfl, rfl, rfl, rfl, nofun, Nat.le_refl _⟩
  · exact h

theorem State.Settled.tick (h : s.Settled) : s.tick.Settled :=
  h.noBusier {
    only := rfl
    holdIn := id
    branches := fun b => by
      have hb : s.tick.branch b = (s.branch b).tick := getElem_mapAll _ _ _ b.isLt
      rw [hb]
      exact ⟨rfl, rfl, rfl, rfl, id, Nat.le_refl _⟩ }

/-! ## Resets -/

/-- A part at its reset values has nothing to do (R175, R179). -/
theorem resetTo_settled (straps : Straps) {opState : OpState} (ho : opState ≠ .draining) (holdIn : Bool)
    (inputs : Vector Bool 4) (pending : List Instr) (freeCount : Nat) :
    (State.resetTo straps opState holdIn inputs pending freeCount).Settled := by
  set r := State.resetTo straps opState holdIn inputs pending freeCount
  have hbranch (b : Fin 4) : r.branch b = Branch.reset := Vector.getElem_replicate b.isLt
  have hentry (i : Fin 16) : r.entry i = none := Vector.getElem_replicate i.isLt
  exact {
    engines := fun b => Bool.eq_false_iff.2 fun h => by
      obtain ⟨hidle, _⟩ := mayTake_iff.1 h
      rw [hbranch] at hidle
      cases hidle
    answers := fun b => Bool.eq_false_iff.2 fun h => by
      obtain ⟨hanswers, _⟩ := mayPost_iff.1 h
      rw [hbranch] at hanswers
      exact hanswers rfl
    head := rfl
    frame := Bool.eq_false_iff.2 fun h => by
      obtain ⟨_, _, hr | hp | ⟨i, hi⟩⟩ := beginsFrame_iff.1 h
      · exact hr rfl
      · cases hp
      · obtain ⟨e, he⟩ := entry_of_frameReady hi
        cases (hentry i).symm.trans he
    draining := fun hd => absurd hd ho }

/-! ## Every command -/

/-- The next state of an outcome, when it gives one, leaves nothing undone. -/
def SettledOutcome : Host.Outcome State Fault Refusal → Prop
  | .next t => t.Settled
  | .fault _ => True
  | .refused _ => True

/-- A step that is taken under a condition, and changes nothing without it (log 1). -/
theorem State.Settled.nextIf (h : s.Settled) {p : Prop} [Decidable p] (ht : p → t.Settled) :
    SettledOutcome (.next (if p then t else s)) := by
  split
  · rename_i hp; exact ht hp
  · exact h

/-- A step that ends its event, and is taken under a condition. -/
theorem State.Settled.eventIf (h : s.Settled) (p : Prop) [Decidable p] (t : State) :
    SettledOutcome (.next (if p then t.endEvent else s)) := h.nextIf fun _ => settled_endEvent t

theorem State.Settled.takeRow (h : s.Settled) (row : Instr) : (s.takeRow row).Settled := by
  unfold State.takeRow
  split
  · exact h
  · split
    · split
      · exact h
      · exact settled_endEvent _
    · exact h

theorem State.Settled.releaseRow (h : s.Settled) (row : Instr) : (s.releaseRow row).Settled := by
  unfold State.releaseRow
  rw [h.head]
  split <;> exact h

theorem State.Settled.gapElapsed (h : s.Settled) (b : Fin 4) : SettledOutcome (execGapElapsed b s) := by
  unfold execGapElapsed
  split
  · exact h
  · exact h.nextIf fun _ => h.modBranch ⟨rfl, rfl, rfl, rfl, nofun, Nat.zero_le _⟩

theorem State.Settled.pauseElapsed (h : s.Settled) (b : Fin 4) : SettledOutcome (execPauseElapsed b s) := by
  unfold execPauseElapsed
  split
  · exact h
  · rename_i o _
    have ho := beginAttempt_noBusier (s.branch b).endPause o
    exact h.nextIf fun _ => h.modBranch ⟨ho.queue, ho.answers, ho.enabled, ho.resetting, ho.idle, ho.reserved⟩

theorem State.Settled.busStartSeen (h : s.Settled) (b : Fin 4) (party : Party) : SettledOutcome (execBusStartSeen b party s) := by
  cases party with
  | self => exact h.ownStart b
  | other => exact settled_endEvent _

theorem busStopSeen_settled (s : State) (b : Fin 4) (party : Party) : SettledOutcome (execBusStopSeen b party s) := by
  cases party with
  | self => exact settled_endEvent _
  | other => exact settled_endEvent _

theorem State.Settled.byteAck (h : s.Settled) (b : Fin 4) : SettledOutcome (execByteAck b s) := by
  unfold execByteAck
  split
  · exact h
  · split
    · exact settled_endEvent _
    · exact settled_endEvent _
    · exact settled_endEvent _
    · exact settled_endEvent _
    · exact settled_endEvent _
    · exact h

theorem State.Settled.readByteReceived (h : s.Settled) (b : Fin 4) (byte : Byte) :
    SettledOutcome (execReadByteReceived b byte s) := by
  unfold execReadByteReceived
  split
  · exact h
  · split
    · exact h.eventIf _ _
    · exact h

theorem State.Settled.sendEnd (h : s.Settled) : SettledOutcome (execSendEnd s) := by
  unfold execSendEnd
  split
  · exact h
  · exact settled_endEvent _

/-- An edge at a disabled entry is lost (R158). -/
theorem trigger_disabled {b : Fin 4} (h : (s.attn b).enabled = false) : s.trigger b = s := by
  unfold State.trigger
  dsimp only
  rw [h]
  rfl

theorem State.Settled.attentionTrigger (h : s.Settled) (b : Fin 4) : SettledOutcome (execAttentionTrigger b s) := by
  have hlow := h.modAttn b fun a => { a with line := false }
  unfold execAttentionTrigger
  dsimp only [SettledOutcome]
  cases he : (s.attn b).enabled with
  | false =>
    rw [trigger_disabled (by rw [attn_modAttn_same]; exact he)]
    exact hlow
  | true =>
    split
    · rename_i hn
      cases hn
    · split
      · exact settled_endEvent _
      · exact settled_endEvent _

/-- Every command leaves nothing undone: most end their event, and the others give the part nothing new to do. -/
theorem State.Settled.exec (h : s.Settled) (c : Instr) : SettledOutcome (exec c s) := by
  cases c with
  | frameArrival bytes => exact settled_endEvent _
  | syncReceived => exact settled_endEvent _
  | engineTakeOperation b => exact h.eventIf _ _
  | gapElapsed b => exact h.gapElapsed b
  | busStartSeen b party => exact h.busStartSeen b party
  | busStopSeen b party => exact busStopSeen_settled s b party
  | arbitrationLoss b => exact settled_endEvent _
  | addressNack b => exact h.nextIf fun _ => h.modBranch ⟨rfl, rfl, rfl, rfl, nofun, Nat.le_refl _⟩
  | dataNack b => exact h.nextIf fun _ => h.modBranch (makeStop_noBusier _ _)
  | byteAck b => exact h.byteAck b
  | readByteReceived b byte => exact h.readByteReceived b byte
  | pauseElapsed b => exact h.pauseElapsed b
  | clockStuck b held => exact h.eventIf _ _
  | busClearEnd b stopMade => exact h.eventIf _ _
  | busyLimitExceeded b => exact h.eventIf _ _
  | runEnd b => exact h.eventIf _ _
  | answerPosted b => exact h.eventIf _ _
  | deadlineExpiry place => exact h.eventIf _ _
  | frameSendBegin => exact h.eventIf _ _
  | sendEnd => exact h.sendEnd
  | holdInAssert => exact h.noBusier (noBusier_of_branches rfl (fun _ => rfl) rfl)
  | holdInRelease => exact settled_endEvent _
  | stampAdvance => exact settled_endEvent _
  | releaseTimedWrite => exact h.releaseRow _
  | releaseBranchOff => exact h.releaseRow _
  | releaseTimedLatch => exact h.releaseRow _
  | offlineAbortAnswer => exact h.releaseRow _
  | pulseEnd line => exact h.noBusier (noBusier_of_branches rfl id rfl)
  | attentionTrigger b => exact h.attentionTrigger b
  | attentionLineRise b => exact h.modAttn b _
  | holdoffEnd b => exact h.eventIf _ _
  | wakeTimeEnd => exact h.eventIf _ _
  | coldReset straps => exact resetTo_settled straps (by unfold startState; split <;> decide) _ _ _ _
  | _ => exact h.takeRow _

/-! ## Every step -/

theorem State.Settled.idle (h : s.Settled) : SettledOutcome (idle s) := by
  unfold Machine.idle
  split
  · rename_i hp; exact (h.pick hp).exec _
  · exact h.tick

theorem State.Settled.step (h : s.Settled) : SettledOutcome (step s) := by
  have hs (q : List Instr) : ({ s with pending := q } : State).Settled := h.noBusier (noBusier_of_branches rfl id rfl)
  unfold Machine.step
  split
  · exact h.idle
  · exact (hs _).exec _

end

/-- Settles O59: a command ends its event, which leaves nothing undone, or it gives the part nothing new to do. -/
theorem nothingIsLeftUndone : Obligations.NothingIsLeftUndone := by
  intro s t h ht
  have hs := h.step
  rwa [ht] at hs

end Sys2Proof.Machine
end

section
/-! SUPPORT. A freed slot and the end of an event: who takes the slot, what follows next, and the end of DRAINING. -/

namespace Sys2Proof.Machine

/-! ## The waiting head at a freed slot (R72, R137) -/

section
variable {s t : State} {e : ReleaseEntry} {rest : List ReleaseEntry}

theorem headRow_timedWrite {member : Option (Fin 7 × Byte)} {r : Route} {offset : Nat} {data : List Byte}
    (hq : s.releaseQueue = e :: rest) (hbody : e.body = .timedWrite member r offset data) (ho : s.opState ≠ .offline)
    (hd : e.due = true) :
    s.headRow = some (if (s.branch r.branch).enabled then .releaseTimedWrite else .releaseBranchOff) := by
  unfold State.headRow
  rw [hq]
  dsimp only
  rw [if_neg ho, if_pos hd, hbody]

theorem headRow_timedLatch {lines : BitVec 4} {action : LatchAction} {width : BitVec 16}
    (hq : s.releaseQueue = e :: rest) (hbody : e.body = .timedLatch lines action width) (ho : s.opState ≠ .offline)
    (hd : e.due = true) : s.headRow = some .releaseTimedLatch := by
  unfold State.headRow
  rw [hq]
  dsimp only
  rw [if_neg ho, if_pos hd, hbody]

/-- The head that takes a slot is a due TIMED WRITE that waits, and its branch is enabled and has room (R137). -/
theorem headTakesSlot_due (h : s.headTakesSlot = some t) : ∃ e rest member r offset data,
    s.releaseQueue = e :: rest ∧ e.body = .timedWrite member r offset data ∧ e.waiting = true ∧ e.due = true ∧
      s.opState ≠ .offline ∧ (s.branch r.branch).enabled = true ∧ (s.branch r.branch).queue.length < 16 := by
  unfold State.headTakesSlot at h
  split at h
  · rename_i hhead
    obtain ⟨hrow, hwaits⟩ := hhead
    cases hq : s.releaseQueue with
    | nil =>
      unfold State.headRow at hrow
      rw [hq] at hrow
      cases hrow
    | cons e rest =>
      unfold State.headHasWaited at hwaits
      rw [hq] at hwaits
      have hchanges := mt (judgeHead_eq_none_iff hq).2 (by rw [h]; exact Option.some_ne_none t)
      by_cases ho : s.opState = .offline
      · unfold State.headRow at hrow
        rw [hq] at hrow
        cases (if_pos ho).symm.trans hrow
      · cases hd : e.due with
        | false => exact absurd (.inr ⟨ho, .inl hd⟩) hchanges
        | true =>
          cases hbody : e.body with
          | timedLatch lines action width => cases (headRow_timedLatch hq hbody ho hd).symm.trans hrow
          | timedWrite member r offset data =>
            cases henabled : (s.branch r.branch).enabled with
            | false =>
              have hoff := headRow_timedWrite hq hbody ho hd
              rw [henabled] at hoff
              cases hoff.symm.trans hrow
            | true =>
              refine ⟨e, rest, member, r, offset, data, rfl, hbody, hwaits, hd, ho, henabled, ?_⟩
              refine Nat.lt_of_not_le fun hfull => hchanges (.inr ⟨ho, .inr ⟨hwaits, ?_⟩⟩)
              unfold State.NoPlaceFor
              rw [hbody]
              exact .inl ⟨henabled, hfull⟩
  · cases h

/-- The waiting head is released into the queue that has room again (R136, R137). -/
theorem headTakesSlot_releases {member : Option (Fin 7 × Byte)} {r : Route} {offset : Nat} {data : List Byte}
    (hq : s.releaseQueue = e :: rest) (hbody : e.body = .timedWrite member r offset data) (hw : e.waiting = true)
    (hd : e.due = true) (ho : s.opState ≠ .offline) (henabled : (s.branch r.branch).enabled = true)
    (hroom : (s.branch r.branch).queue.length < 16) :
    s.headTakesSlot = some (s.releaseInto rest r (timedOperation e.rt member r offset data)) := by
  have hrow := headRow_timedWrite hq hbody ho hd
  rw [henabled, if_pos rfl] at hrow
  have hwaits : s.headHasWaited = true := by
    unfold State.headHasWaited
    rw [hq]
    exact hw
  unfold State.headTakesSlot
  rw [if_pos ⟨hrow, hwaits⟩]
  unfold State.judgeHead
  rw [hq]
  dsimp only
  rw [if_neg ho, if_pos hd, hbody]
  exact (if_pos henabled).trans (if_pos hroom)

end

/-! ## Intake at a freed slot (R35, R72) -/

section
variable {s t : State} {f : Frame} {rest : List Frame} {r : Request}

/-- The KIND of a request's frame (chapter 2, section 2.1). -/
def Request.kind : Request → Byte
  | .read _ _ _ => 0x11
  | .write _ _ _ => 0x12
  | .writeConfirmed _ _ _ => 0x13
  | .timedWrite _ _ _ _ _ => 0x14
  | .timedLatch _ _ _ _ => 0x15
  | .cancel _ => 0x16
  | .mgmtRead _ _ => 0x21
  | .mgmtWrite _ _ _ => 0x22
  | .table _ _ => 0x23

theorem parseTimedLatch_kind (hp : parseTimedLatch f.body = .ok r) : r.kind = 0x15 := by
  unfold parseTimedLatch at hp
  split at hp
  · split at hp
    · cases hp
    · split at hp <;> cases hp
      rfl
  · cases hp

theorem parseRequest_kind (hp : parseRequest f = .ok r) : f.kind = r.kind := by
  by_cases hknown : f.kind ∈ knownKinds
  · simp only [knownKinds, List.mem_cons, List.not_mem_nil, or_false] at hknown
    rcases hknown with hk | hk | hk | hk | hk | hk | hk | hk | hk
    · rw [parseRequest_read hk, parseRead_eq] at hp
      split at hp <;> cases hp
      exact hk
    · rw [parseRequest_write hk, parseWriteBody_eq] at hp
      split at hp <;> cases hp
      exact hk
    · rw [parseRequest_confirmed hk, parseWriteBody_eq] at hp
      split at hp <;> cases hp
      exact hk
    · rw [parseRequest_timedWrite hk, parseTimedWrite_eq] at hp
      split at hp <;> cases hp
      exact hk
    · rw [parseRequest_timedLatch hk] at hp
      exact hk.trans (parseTimedLatch_kind hp).symm
    · rw [parseRequest_cancel hk, parseCancel_eq] at hp
      split at hp <;> cases hp
      exact hk
    · rw [parseRequest_mgmtRead hk, parseMgmtRead_eq] at hp
      split at hp <;> cases hp
      exact hk
    · rw [parseRequest_mgmtWrite hk, parseMgmtWrite_eq] at hp
      split at hp <;> cases hp
      exact hk
    · rw [parseRequest_table hk] at hp
      rcases parseTable_cases f with ⟨_, he⟩ | ⟨_, he⟩ <;> cases he.symm.trans hp
      exact hk
  · cases (parseRequest_unknown hknown).symm.trans hp

theorem rowOf_read (hk : f.kind = 0x11) : rowOf f = .read := by unfold rowOf; rw [hk]; rfl

theorem rowOf_write (hk : f.kind = 0x12) : rowOf f = .write := by unfold rowOf; rw [hk]; rfl

theorem rowOf_confirmed (hk : f.kind = 0x13) : rowOf f = .writeConfirmed := by unfold rowOf; rw [hk]; rfl

theorem rowOf_timedWrite (hk : f.kind = 0x14) : rowOf f = .timedWrite := by unfold rowOf; rw [hk]; rfl

theorem rowOf_timedLatch (hk : f.kind = 0x15) : rowOf f = .timedLatch := by unfold rowOf; rw [hk]; rfl

/-- What Intake decides of a frame at a freed slot: a WRITE or a WRITE-CONFIRMED alone can enter the queue (R72). -/
def State.decideSlot (s : State) (f : Frame) : Decision :=
  match parseRequest f with
  | .ok (.write ldn offset data) => s.decideWrite f.rt (.posted data) ldn offset data.length
  | .ok (.writeConfirmed ldn offset data) => s.decideConfirmed f.rt ldn offset data
  | _ => .refuse .badKind

theorem decideFrame_ok (ho : s.opState ≠ .offline) (hp : parseRequest f = .ok r) :
    s.decideFrame f = s.decideRequest f.rt r := decideFrame_passed s f r hp (.inl ho)

/-- The writes that Intake accepts at a freed slot are those that their rows accept. -/
theorem decideSlot_accept_iff (ho : s.opState ≠ .offline) (f : Frame) (u : State) :
    s.decideSlot f = .accept u ↔ (rowOf f = .write ∨ rowOf f = .writeConfirmed) ∧ s.decideFrame f = .accept u := by
  unfold State.decideSlot
  cases hp : parseRequest f with
  | error st =>
    rw [decideFrame_error s f st hp]
    exact iff_of_false nofun fun h => nomatch h.2
  | ok r =>
    rw [decideFrame_ok ho hp]
    have hk := parseRequest_kind hp
    have hother (hrow : rowOf f ≠ .write ∧ rowOf f ≠ .writeConfirmed) :
        Decision.refuse .badKind = .accept u ↔
          (rowOf f = .write ∨ rowOf f = .writeConfirmed) ∧ s.decideRequest f.rt r = .accept u :=
      iff_of_false nofun fun h => h.1.elim hrow.1 hrow.2
    have himmediate (hr : r.Immediate) :
        Decision.refuse .badKind = .accept u ↔
          (rowOf f = .write ∨ rowOf f = .writeConfirmed) ∧ s.decideRequest f.rt r = .accept u :=
      iff_of_false nofun fun h => decideRequest_immediate s hr u h.2
    cases r with
    | write ldn offset data => exact (and_iff_right (.inl (rowOf_write hk))).symm
    | writeConfirmed ldn offset data => exact (and_iff_right (.inr (rowOf_confirmed hk))).symm
    | read ldn offset length => exact hother (by rw [rowOf_read hk]; exact ⟨nofun, nofun⟩)
    | timedWrite stamp group ldn offset data => exact hother (by rw [rowOf_timedWrite hk]; exact ⟨nofun, nofun⟩)
    | timedLatch stamp lines action width => exact hother (by rw [rowOf_timedLatch hk]; exact ⟨nofun, nofun⟩)
    | cancel target => exact himmediate trivial
    | mgmtRead address words => exact himmediate trivial
    | mgmtWrite bridge address words => exact himmediate trivial
    | table command operand => exact himmediate trivial

theorem intakeTakesSlot_cons (hi : s.intake = f :: rest) (b : Fin 4) : s.intakeTakesSlot b =
    if s.takesFrames = true ∧ s.opState ≠ .offline then
      match s.decideSlot f with
      | .accept u => if (s.branch b).queue.length < (u.branch b).queue.length then some { u with intake := rest } else none
      | _ => none
    else none := by
  unfold State.intakeTakesSlot
  rw [hi]
  rfl

theorem takesWrites_iff : (s.takesFrames = true ∧ s.opState ≠ .offline) ↔
    (s.opState = .active ∨ s.opState = .draining) ∧ s.intakeStopped = false := by
  unfold State.takesFrames
  cases s.opState <;> simp

theorem intakeTakesSlot_iff (s : State) (b : Fin 4) (t : State) : s.intakeTakesSlot b = some t ↔
    ∃ f rest u, s.intake = f :: rest ∧ (s.opState = .active ∨ s.opState = .draining) ∧ s.intakeStopped = false ∧
      (rowOf f = .write ∨ rowOf f = .writeConfirmed) ∧ s.decideFrame f = .accept u ∧
      (s.branch b).queue.length < (u.branch b).queue.length ∧ t = { u with intake := rest } := by
  constructor
  · intro h
    cases hi : s.intake with
    | nil =>
      unfold State.intakeTakesSlot at h
      rw [hi] at h
      cases h
    | cons f rest =>
      rw [intakeTakesSlot_cons hi] at h
      split at h
      · rename_i htakes
        obtain ⟨hstate, hstopped⟩ := takesWrites_iff.1 htakes
        split at h
        · rename_i u hu
          obtain ⟨hrow, haccept⟩ := (decideSlot_accept_iff htakes.2 f u).1 hu
          split at h
          · rename_i hgrows
            cases h
            exact ⟨f, rest, u, rfl, hstate, hstopped, hrow, haccept, hgrows, rfl⟩
          · cases h
        · cases h
      · cases h
  · rintro ⟨f, rest, u, hi, hstate, hstopped, hrow, haccept, hgrows, rfl⟩
    have htakes := takesWrites_iff.2 ⟨hstate, hstopped⟩
    rw [intakeTakesSlot_cons hi, if_pos htakes, (decideSlot_accept_iff htakes.2 f u).2 ⟨hrow, haccept⟩]
    exact if_pos hgrows

end

/-! ## Who is first at a freed slot (log 5, 40) -/

section
variable {s t : State}

/-- A free choice moves the count of choices alone (log 5). -/
theorem pick_eq {α : Type} {xs : List α} {x : α} (h : s.pick xs = some (x, t)) : t = { s with freeCount := t.freeCount } :=
  congrArg (fun u : State => { u with freeCount := t.freeCount }) (pick_only s xs x t h)

theorem intake_mem_slotTakers_iff {b : Fin 4} : Taker.intake ∈ s.slotTakers b ↔
    (s.intakeTakesSlot b).isSome = true ∧ s.slotWanted b = true := by
  unfold State.slotTakers
  cases s.headTakesSlot.isSome <;> simp

theorem slotWanted_iff {b : Fin 4} : s.slotWanted b = true ↔
    s.headTakesSlot.isSome = true ∨ (s.branch b).queue.length < (s.grantPass.branch b).queue.length := by
  unfold State.slotWanted
  rw [Bool.or_eq_true, decide_eq_true_iff]

/-- Without the head and without a write that another source meets, the grant pass is alone (R48, R72). -/
theorem slotTakers_eq_grantPass {b : Fin 4} (hhead : s.headTakesSlot = none)
    (h : s.intakeTakesSlot b = none ∨ (s.grantPass.branch b).queue.length ≤ (s.branch b).queue.length) :
    s.slotTakers b = [.grantPass] := by
  have hintake : ((s.intakeTakesSlot b).isSome && s.slotWanted b) = false := by
    refine Bool.eq_false_iff.2 fun hboth => ?_
    obtain ⟨hsome, hwanted⟩ := Bool.and_eq_true_iff.1 hboth
    rcases h with hnone | hfits
    · rw [hnone] at hsome
      exact Bool.false_ne_true hsome
    · rcases slotWanted_iff.1 hwanted with h | h
      · rw [hhead] at h
        exact Bool.false_ne_true h
      · omega
  unfold State.slotTakers
  rw [hintake, hhead]
  rfl

/-! ## What follows next (log 38) -/

theorem settleIn_of_no_follows (h : s.follows = []) (fuel : Nat) : s.settleIn fuel = s := by
  cases fuel with
  | zero => rfl
  | succ n =>
    unfold State.settleIn
    rw [h]
    rfl

theorem settleIn_of_pick {f : Follow} (hp : s.pick s.follows = some (f, t)) (fuel : Nat) :
    s.settleIn (fuel + 1) = (t.follow f).settleIn fuel := by
  show (match s.pick s.follows with
    | none => s
    | some (f, s') => (s'.follow f).settleIn fuel) = _
  rw [hp]

theorem exists_pick_of_follows (h : s.follows ≠ []) : ∃ f t, s.pick s.follows = some (f, t) := by
  unfold State.pick
  split
  · exact absurd ‹_› h
  · exact ⟨_, _, rfl⟩
  · exact ⟨_, _, rfl⟩

/-- Fuel beyond what the things that follow need makes no difference. -/
theorem settleIn_enough (m n : Nat) (s : State) (hm : s.rank ≤ m) (hn : s.rank ≤ n) : s.settleIn m = s.settleIn n := by
  induction m generalizing s n with
  | zero =>
    have h : s.follows = [] := settleIn_follows 0 s hm
    rw [settleIn_of_no_follows h, settleIn_of_no_follows h]
  | succ m ih =>
    by_cases h : s.follows = []
    · rw [settleIn_of_no_follows h, settleIn_of_no_follows h]
    · obtain ⟨f, t, hp⟩ := exists_pick_of_follows h
      have hrank := follow_rank s t f (pick_mem s _ _ _ hp) hp
      cases n with
      | zero => omega
      | succ n =>
        rw [settleIn_of_pick hp, settleIn_of_pick hp]
        exact ih n _ (by omega) (by omega)

/-- One of the things that follow is done, and what follows then is done behind it. -/
theorem settle_turn (h : s.follows ≠ []) : ∃ f t, s.pick s.follows = some (f, t) ∧ s.settle = (t.follow f).settle := by
  obtain ⟨f, t, hp⟩ := exists_pick_of_follows h
  have hrank := follow_rank s t f (pick_mem s _ _ _ hp) hp
  refine ⟨f, t, hp, ?_⟩
  unfold State.settle
  rw [settleIn_enough _ (s.rank + 1) s (rank_le_fuel s) (by omega), settleIn_of_pick hp]
  exact settleIn_enough _ _ _ (by omega) (rank_le_fuel _)

/-! ## What follows at once leaves the entries, and the engines at work -/

theorem takeOp_entry (s : State) (b : Fin 4) (o : Operation) (rest : List Operation) (j : Fin 16) :
    ((s.takeOp b o rest).entry j).map SplitEntry.ungranted = (s.entry j).map SplitEntry.ungranted := by
  unfold State.takeOp
  dsimp only
  split
  · rename_i i _ _ _
    by_cases hj : j = i
    · subst hj
      rw [entry_setEntry_same, entry_modBranch, Option.map_map]
      rfl
    · rw [entry_setEntry_ne _ _ _ _ hj, entry_modBranch]
  · rw [entry_modBranch]

theorem takeOp_branch_ne (s : State) {b c : Fin 4} (h : c ≠ b) (o : Operation) (rest : List Operation) :
    (s.takeOp b o rest).branch c = s.branch c := by
  unfold State.takeOp
  dsimp only
  split
  · rw [branch_setEntry, branch_modBranch_ne _ _ _ _ h]
  · rw [branch_modBranch_ne _ _ _ _ h]

theorem follow_entry (s : State) (f : Follow) (j : Fin 16) :
    ((s.follow f).entry j).map SplitEntry.ungranted = (s.entry j).map SplitEntry.ungranted := by
  cases f with
  | take b =>
    show ((s.takeNext b).entry j).map _ = _
    unfold State.takeNext
    split
    · rfl
    · exact ((slotFreed_freed _ b).entries j).trans (takeOp_entry s b _ _ j)
  | post b => exact (congrArg (fun x : State => (x.entry j).map SplitEntry.ungranted) (postNext_only s b) :)
  | judge => exact (judge_freed s).entries j

/-- What follows at once leaves the split entries but for their pieces. -/
theorem settleIn_entry (fuel : Nat) (s : State) (j : Fin 16) :
    ((s.settleIn fuel).entry j).map SplitEntry.ungranted = (s.entry j).map SplitEntry.ungranted := by
  induction fuel generalizing s with
  | zero => rfl
  | succ n ih =>
    unfold State.settleIn
    split
    · rfl
    · rename_i f s' hp
      have hs := (congrArg (fun x : State => (x.entry j).map SplitEntry.ungranted) (pick_only s _ _ _ hp) :)
      exact (ih _).trans ((follow_entry s' f j).trans hs)

/-- A branch but for its queue and its answer list. -/
def Branch.unlisted (br : Branch) : Branch := { br with queue := [], answers := [] }

theorem unlisted_of_ungranted {x y : Branch} (h : x.ungranted = y.ungranted) : x.unlisted = y.unlisted :=
  (congrArg Branch.unlisted h :)

/-- An engine that is neither IDLE nor in POSTING is at work: nothing that follows moves it. -/
theorem follow_unlisted {f : Follow} {b : Fin 4} (hf : ∀ c, f = .take c → (s.branch c).phase = .idle)
    (hidle : (s.branch b).phase ≠ .idle) (hposting : (s.branch b).phase ≠ .posting) :
    ((s.follow f).branch b).unlisted = (s.branch b).unlisted := by
  cases f with
  | take c =>
    have hbc : b ≠ c := by
      rintro rfl
      exact hidle (hf b rfl)
    show ((s.takeNext c).branch b).unlisted = _
    unfold State.takeNext
    split
    · rfl
    · refine (unlisted_of_ungranted ((slotFreed_freed _ c).branches b)).trans ?_
      rw [takeOp_branch_ne s hbc]
  | post c =>
    show ((s.postNext c).branch b).unlisted = _
    unfold State.postNext
    split
    · rfl
    · by_cases hbc : b = c
      · subst hbc
        rw [branch_modBranch_same, branch_pushRecord, if_neg fun h => hposting h.1]
        rfl
      · rw [branch_modBranch_ne _ _ _ _ hbc, branch_pushRecord]
  | judge => exact unlisted_of_ungranted ((judge_freed s).branches b)

theorem settleIn_unlisted (fuel : Nat) (s : State) {b : Fin 4} (hidle : (s.branch b).phase ≠ .idle)
    (hposting : (s.branch b).phase ≠ .posting) : ((s.settleIn fuel).branch b).unlisted = (s.branch b).unlisted := by
  induction fuel generalizing s with
  | zero => rfl
  | succ n ih =>
    unfold State.settleIn
    split
    · rfl
    · rename_i f s' hp
      have hs (c : Fin 4) : s'.branch c = s.branch c := (congrArg (fun x : State => x.branch c) (pick_only s _ _ _ hp) :)
      have hfollow : ((s'.follow f).branch b).unlisted = (s.branch b).unlisted := by
        rw [← hs b]
        refine follow_unlisted (fun c hc => ?_) (by rwa [hs]) (by rwa [hs])
        rw [hs]
        exact (mayTake_iff.1 (take_mem_follows_iff.1 (hc ▸ pick_mem s _ _ _ hp))).1
      have hphase : ((s'.follow f).branch b).phase = (s.branch b).phase := (congrArg Branch.phase hfollow :)
      exact (ih _ (by rwa [hphase]) (by rwa [hphase])).trans hfollow

/-! ## The judgement by its row, and the end of DRAINING -/

theorem exec_headRow {c : Instr} (h : s.headRow = some c) : exec c s = .next (s.releaseRow c) := by
  unfold State.headRow at h
  split at h
  · cases h
  · split at h
    · cases h
      rfl
    · split at h
      · split at h
        · cases h
          split <;> rfl
        · cases h
          rfl
      · cases h

theorem releaseRow_of_head {c : Instr} (h : s.headRow = some c) (hj : s.judgeHead = some t) :
    s.releaseRow c = s.judge.endEvent := by
  unfold State.releaseRow
  rw [if_pos h, hj, judge_of_some hj]

theorem entriesInUse_eq_zero_iff : s.entriesInUse = 0 ↔ ∀ i, s.entry i = none := by
  unfold State.entriesInUse
  rw [split_toList, List.length_eq_zero_iff, List.filter_eq_nil_iff]
  simp [mem_sixteen]

theorem quiescent_iff : s.quiescent = true ↔ (∀ i, s.entry i = none) ∧ (∀ b, (s.branch b).queue = []) ∧
    s.responseQueue = [] ∧ s.noticePending = false ∧ s.sending = none ∧ s.intake = [] := by
  unfold State.quiescent
  simp [entriesInUse_eq_zero_iff, mem_four, and_assoc]

end

/-- Settles O17: a turn at a freed slot, a turn of what follows, and the end of the event. -/
theorem eventEnds : Obligations.EventEnds := by
  unfold Obligations.EventEnds
  refine ⟨?_, ?_, intakeTakesSlot_iff, fun s b => ⟨?_, ?_⟩, fun s => ⟨judge_of_none, fun _ => judge_of_some⟩,
    fun s => ⟨settle_of_no_follows s, fun h => ?_⟩, fun s b => ⟨take_mem_follows_iff, mayTake_iff, rfl⟩,
    fun s b => ⟨post_mem_follows_iff.trans mayPost_iff, fun r rest hr => ?_⟩,
    fun s => ⟨judge_mem_follows_iff, rfl, judgeHead_of_empty, fun _ _ hq => judgeHead_eq_none_iff hq, fun c hj hc => ?_⟩,
    fun s => ⟨rfl, beginsFrame_iff, beginFrame_of_not_begins, fun h => congrArg Host.Outcome.next (if_pos h)⟩,
    fun s => ?_, settled_endEvent,
    fun s => ⟨settleIn_entry _ s, fun b => settleIn_unlisted _ s, ?_, settle_only s, endEvent_only s⟩⟩
  · -- the waiting head takes the slot
    intro s e rest member r offset data hq hbody hw hd ho henabled hroom
    exact headTakesSlot_releases hq hbody hw hd ho henabled hroom
  · -- no head takes it
    intro s h
    refine Option.eq_none_iff_forall_ne_some.2 fun t ht => ?_
    obtain ⟨e, rest, member, r, offset, data, hq, hbody, hw, hd, ho, henabled, hroom⟩ := headTakesSlot_due ht
    rcases h with hnil | ⟨e', rest', hq', hnot⟩
    · cases hnil.symm.trans hq
    · cases hq'.symm.trans hq
      rcases hnot with h | h | h | h
      · cases h.symm.trans hw
      · cases h.symm.trans hd
      · exact ho h
      · rcases h member r offset data hbody with h | h
        · cases h.symm.trans henabled
        · omega
  · -- a turn at a freed slot
    obtain ⟨x, c, hp, hturn⟩ := slotFreed_turn s b
    refine ⟨c.freeCount, ?_⟩
    rw [← pick_eq hp]
    exact hturn.imp_right (Or.imp_right fun ⟨hmem, htakes⟩ => ⟨slotWanted_iff.1 (intake_mem_slotTakers_iff.1 hmem).2, htakes⟩)
  · exact fun hhead h => slotFreed_of_grantPass s b (slotTakers_eq_grantPass hhead h)
  · -- a turn of what follows
    obtain ⟨f, t, hp, hturn⟩ := settle_turn h
    refine ⟨f, pick_mem s _ _ _ hp, t.freeCount, ?_⟩
    rw [← pick_eq hp]
    exact hturn
  · -- an answer enters the Response Queue
    show s.postNext b = _
    unfold State.postNext
    rw [hr]
    rfl
  · -- the head is judged by its row
    obtain ⟨t, ht⟩ := Option.ne_none_iff_exists'.1 hj
    rw [exec_headRow hc, releaseRow_of_head hc ht]
  · -- the end of DRAINING
    intro finished
    have hiff : finished ↔ s.opState = .draining ∧ s.quiescent = true := and_congr_right fun _ => quiescent_iff.symm
    unfold State.quiesce
    exact ⟨fun h => if_pos (hiff.1 h), fun h => if_neg (mt hiff.2 h)⟩
  · obtain ⟨more, hmore⟩ := settle_records s
    exact ⟨more, hmore.symm⟩

end Sys2Proof.Machine
end

section
/-! SUPPORT. Runs told to end: the engine as the word leaves it, the byte in hand, and what the end of the run hands on. -/

namespace Sys2Proof.Machine

/-! ## Freed places and claims leave the engines -/

section
variable (s : State)

theorem grantPass_ungranted (c : Fin 4) : (s.grantPass.branch c).ungranted = (s.branch c).ungranted :=
  (grantPass_granted s).branches c

theorem createEntry_ungranted (i : Fin 16) (owner : SplitOwner) (r : Route) (start length : Nat) (c : Fin 4) :
    ((s.createEntry i owner r start length).branch c).ungranted = (s.branch c).ungranted := grantPass_ungranted _ c

theorem attemptPoll_ungranted (b c : Fin 4) : ((s.attemptPoll b).branch c).ungranted = (s.branch c).ungranted := by
  have hunroutable : ((s.pollUnroutable b).branch c).ungranted = (s.branch c).ungranted :=
    (congrArg (fun t : State => (t.branch c).ungranted) (setFlag_only (s.modAttn b _) .attnNoRoute) :)
  unfold State.attemptPoll
  dsimp only
  split
  · exact hunroutable
  · split
    · exact hunroutable
    · split
      · rfl
      · exact createEntry_ungranted _ _ _ _ _ _ c

theorem claimOver_ungranted (bs : List (Fin 4)) (c : Fin 4) :
    ((s.claimOver bs).branch c).ungranted = (s.branch c).ungranted := by
  induction bs generalizing s with
  | nil => rfl
  | cons b rest ih =>
    unfold State.claimOver
    split
    · exact (ih _).trans (attemptPoll_ungranted s b c)
    · exact ih s

theorem claims_ungranted (c : Fin 4) : (s.claims.branch c).ungranted = (s.branch c).ungranted := by
  unfold State.claims
  split
  · exact claimOver_ungranted s four c
  · rfl

theorem endHoldoff_ungranted (b c : Fin 4) : ((s.endHoldoff b).branch c).ungranted = (s.branch c).ungranted := by
  unfold State.endHoldoff
  dsimp only
  split
  · exact attemptPoll_ungranted _ b c
  · split <;> rfl

theorem pollFreed_ungranted (b c : Fin 4) : ((s.pollFreed b).branch c).ungranted = (s.branch c).ungranted := by
  unfold State.pollFreed
  dsimp only
  split
  · exact claims_ungranted _ c
  · split
    · rename_i s2 hp
      have h2 := (congrArg (fun t : State => (t.branch c).ungranted) (pick_only _ _ _ _ hp) :)
      exact (claims_ungranted _ c).trans ((endHoldoff_ungranted s2 b c).trans h2)
    · rename_i s2 hp
      have h2 := (congrArg (fun t : State => (t.branch c).ungranted) (pick_only _ _ _ _ hp) :)
      exact (endHoldoff_ungranted _ b c).trans ((claims_ungranted s2 c).trans h2)
    · rfl

theorem freeIfDone_ungranted (i : Fin 16) (c : Fin 4) : ((s.freeIfDone i).branch c).ungranted = (s.branch c).ungranted := by
  unfold State.freeIfDone
  split
  · rfl
  · split
    · unfold State.freeEntry
      split
      · rfl
      · dsimp only
        split
        · exact claims_ungranted _ c
        · exact pollFreed_ungranted _ _ c
    · rfl

theorem pieceEnd_ungranted (i : Fin 16) (o : Operation) (n : Nat) (first : Bool) (status : Status) (c : Fin 4) :
    ((s.pieceEnd i o n first status).branch c).ungranted = (s.branch c).ungranted := by
  unfold State.pieceEnd
  split
  · rfl
  · exact (freeIfDone_ungranted _ i c).trans (((slotFreed_freed _ _).branches c).trans
      (settlePiece_ungranted s i _ o n first status c))

/-! ## What the outcome of a run reaches on the branches (R104) -/

/-- A branch but for its queue, its answer list and its PHASE: what the outcome of a run leaves of it. -/
def Branch.unposted (br : Branch) : Branch := { br with queue := [], answers := [], phase := .idle }

theorem addAnswer_unposted (b : Fin 4) (r : Record) (c : Fin 4) :
    ((s.addAnswer b r).branch c).unposted = (s.branch c).unposted := by
  unfold State.addAnswer
  split
  · rfl
  · by_cases hc : c = b
    · subst hc
      rw [branch_modBranch_same]
      rfl
    · rw [branch_modBranch_ne _ _ _ _ hc]

theorem reportMember_branch (member : Option (Fin 7 × Byte)) (ok : Bool) (c : Fin 4) :
    (s.reportMember member ok).branch c = s.branch c :=
  (congrArg (fun t : State => t.branch c) (reportMember_only s member ok) :)

theorem handOn_unposted (b : Fin 4) (o : Operation) (status : Status) (n : Nat) (c : Fin 4) :
    ((s.handOn b o status n).branch c).unposted = (s.branch c).unposted := by
  unfold State.handOn
  split
  · exact (congrArg Branch.unposted (pieceEnd_ungranted s _ o _ _ status c) :)
  · split
    · rfl
    · exact (congrArg (fun t : State => (t.branch c).unposted) (recordFault_only s b o status) :)
  · exact addAnswer_unposted s b _ c
  · dsimp only
    split
    · exact addAnswer_unposted s b _ c
    · rw [reportMember_branch]
      exact addAnswer_unposted s b _ c

end

/-! ## The end of a run (R104) -/

section
variable {s : State} {b : Fin 4} {o : Operation} {status : Status} {stuck : Bool}

/-- The outcome of branch b's run of operation o has been handed on, before the engine goes on. -/
def State.handedOn (s : State) (b : Fin 4) (o : Operation) (status : Status) : State :=
  (s.modBranch b Branch.dropOp).handOn b o status (s.branch b).progress.dataDone

theorem endRun_eq (ho : (s.branch b).op = some o) :
    s.endRun b status stuck = ((s.handedOn b o status).modBranch b fun br => br.afterRun stuck).roomFreed := by
  unfold State.endRun
  rw [ho]
  rfl

/-- Behind the outcome the end of the run reaches the branches alone. -/
theorem endRun_handedOn (ho : (s.branch b).op = some o) :
    { s.endRun b status stuck with
      branches := (s.handedOn b o status).branches, freeCount := (s.handedOn b o status).freeCount } =
      s.handedOn b o status := by
  rw [endRun_eq ho]
  exact lift (fun t : State => { t with branches := (s.handedOn b o status).branches }) (roomFreed_only _) rfl rfl

theorem afterRun_keeps (br : Branch) (stuck : Bool) : (br.afterRun stuck).op = br.op ∧ (br.afterRun stuck).told = br.told ∧
    (br.afterRun stuck).bus = br.bus ∧ (br.afterRun stuck).answers = br.answers := by
  unfold Branch.afterRun
  split <;> exact ⟨rfl, rfl, rfl, rfl⟩

theorem endRun_branch (ho : (s.branch b).op = some o) : ∃ phase progress, (s.endRun b status stuck).branch b =
    { ((s.handedOn b o status).branch b).afterRun stuck with phase := phase, progress := progress } := by
  rw [endRun_eq ho]
  obtain ⟨phase, progress, h⟩ := roomFreed_branch ((s.handedOn b o status).modBranch b fun br => br.afterRun stuck) b
  rw [branch_modBranch_same] at h
  exact ⟨phase, progress, h⟩

/-- The engine has dropped its operation with the cause to end it, and the bus is as it was (R104). -/
theorem endRun_engine (ho : (s.branch b).op = some o) : ((s.endRun b status stuck).branch b).op = none ∧
    ((s.endRun b status stuck).branch b).told = none ∧ ((s.endRun b status stuck).branch b).bus = (s.branch b).bus := by
  obtain ⟨phase, progress, h⟩ := endRun_branch (status := status) (stuck := stuck) ho
  obtain ⟨hop, htold, hbus, _⟩ := afterRun_keeps ((s.handedOn b o status).branch b) stuck
  have hdropped : ((s.handedOn b o status).branch b).unposted = (s.branch b).dropOp.unposted := by
    refine (handOn_unposted _ b o status _ b).trans ?_
    rw [branch_modBranch_same]
  rw [h]
  exact ⟨hop.trans (congrArg Branch.op hdropped :), htold.trans (congrArg Branch.told hdropped :),
    hbus.trans (congrArg Branch.bus hdropped :)⟩

/-- A record made for a write stands in the Response Queue or in its branch's answer list (R80, R81). -/
def State.HasRecord (s : State) (b : Fin 4) (r : Record) : Prop := r ∈ s.responseQueue ++ (s.branch b).answers

theorem addAnswer_hasRecord (s : State) (b : Fin 4) (r : Record) : (s.addAnswer b r).HasRecord b r := by
  unfold State.HasRecord State.addAnswer
  split
  · simp
  · simp

theorem handOn_hasRecord {rt : ReqTag} (htag : o.tag? = some rt) (s : State) (b : Fin 4) (status : Status) (n : Nat) :
    (s.handOn b o status n).HasRecord b (completion rt status (answerOffset o status n)) := by
  unfold Operation.tag? at htag
  unfold State.handOn
  split at htag
  · rename_i hbody
    cases htag
    rw [hbody]
    exact addAnswer_hasRecord _ _ _
  · rename_i hbody
    cases htag
    rw [hbody]
    dsimp only
    split
    · exact addAnswer_hasRecord _ _ _
    · unfold State.HasRecord
      rw [reportMember_branch, reportMember_responseQueue]
      exact addAnswer_hasRecord _ _ _
  · cases htag
  · cases htag

/-- The run of a confirmed or timed write is answered with its status (R78, R79). -/
theorem endRun_hasRecord (ho : (s.branch b).op = some o) {rt : ReqTag} (htag : o.tag? = some rt)
    (hstatus : status ≠ .dataNack) :
    (s.endRun b status stuck).HasRecord b { rt := rt, status := status, body := .completion o.offset } := by
  have hrecord := handOn_hasRecord htag (s.modBranch b Branch.dropOp) b status (s.branch b).progress.dataDone
  have hoffset : answerOffset o status (s.branch b).progress.dataDone = o.offset := if_neg hstatus
  rw [hoffset] at hrecord
  obtain ⟨phase, progress, h⟩ := endRun_branch (status := status) (stuck := stuck) ho
  obtain ⟨_, _, _, hanswers⟩ := afterRun_keeps ((s.handedOn b o status).branch b) stuck
  have hq : (s.endRun b status stuck).responseQueue = (s.handedOn b o status).responseQueue :=
    (congrArg State.responseQueue (endRun_handedOn ho) :)
  unfold State.HasRecord
  rw [hq, h]
  dsimp only
  rw [hanswers]
  exact hrecord

/-- A posted write whose outcome is OK or ABORTED leaves the fault record (R76, R84). -/
theorem endRun_fault_kept (ho : (s.branch b).op = some o) {data : List Byte} (hbody : o.body = .posted data)
    (h : status = .ok ∨ status = .aborted) : (s.endRun b status stuck).fault = s.fault := by
  refine (congrArg State.fault (endRun_handedOn ho) :).trans ?_
  unfold State.handedOn State.handOn
  rw [hbody]
  dsimp only
  rw [if_pos h]
  rfl

theorem recordFault_sets (s : State) (b : Fin 4) (o : Operation) (status : Status) :
    (s.recordFault b o status).fault ≠ none ∧ (s.recordFault b o status).flag .writeFailed = true := by
  unfold State.recordFault
  dsimp only
  refine ⟨fun hnone => ?_, setFlag_flag _ _⟩
  exact Option.some_ne_none _ ((congrArg State.fault (setFlag_only { s with fault := some _ } .writeFailed) :).symm.trans hnone)

/-- A posted write that fails is recorded, and WRITE_FAILED is set (R76, R77). -/
theorem endRun_fault_set (ho : (s.branch b).op = some o) {data : List Byte} (hbody : o.body = .posted data)
    (h : ¬ (status = .ok ∨ status = .aborted)) :
    (s.endRun b status stuck).fault ≠ none ∧ (s.endRun b status stuck).flag .writeFailed = true := by
  have hfault := (congrArg State.fault (endRun_handedOn (status := status) (stuck := stuck) ho) :)
  have hflag := (congrArg (fun t : State => t.flag .writeFailed) (endRun_handedOn (status := status) (stuck := stuck) ho) :)
  have hhanded : s.handedOn b o status = (s.modBranch b Branch.dropOp).recordFault b o status := by
    unfold State.handedOn State.handOn
    rw [hbody]
    exact if_neg h
  obtain ⟨hset, hfailed⟩ := recordFault_sets (s.modBranch b Branch.dropOp) b o status
  rw [← hhanded] at hset hfailed
  exact ⟨fun hnone => hset (hfault.symm.trans hnone), hflag.trans hfailed⟩

/-- A timed write that ends ABORTED is not reported to its group (R110). -/
theorem endRun_groups (ho : (s.branch b).op = some o) {rt : ReqTag} {data : List Byte} {member : Option (Fin 7 × Byte)}
    (hbody : o.body = .timed rt data member) : (s.endRun b .aborted stuck).groups = s.groups := by
  refine (congrArg State.groups (endRun_handedOn ho) :).trans ?_
  unfold State.handedOn State.handOn
  rw [hbody]
  exact (congrArg State.groups (addAnswer_only (s.modBranch b Branch.dropOp) b _) :)

end

/-! ## The status of a run told to end (R83, R103) -/

section
variable {o : Operation} {p : Progress} {cause : EndCause}

/-- The status that a cause gives a run (R103; log 30). -/
def EndCause.status (cause : EndCause) : Status := if cause = .branchReset then .branchReset else .aborted

theorem allAcked_iff (hwrite : o.isRead = false) : o.allAcked p = true ↔
    p.addressAcked = true ∧ p.subaddressDone = o.width.val ∧ p.dataDone = o.data.length := by
  unfold Operation.allAcked
  rw [hwrite]
  simp [and_assoc]

theorem endStatus_of_acked (h : o.allAcked p = true) : endStatus o p cause = .ok := if_pos h

theorem endStatus_of_unacked (h : o.allAcked p = false) : endStatus o p cause = cause.status := by
  unfold endStatus
  rw [h]
  cases cause <;> rfl

theorem causeStatus_ne (cause : EndCause) : cause.status ≠ .dataNack ∧ cause.status ≠ .ok := by cases cause <;> decide

theorem endStatus_ne_dataNack : endStatus o p cause ≠ .dataNack := by
  cases h : o.allAcked p with
  | true => rw [endStatus_of_acked h]; decide
  | false => rw [endStatus_of_unacked h]; exact (causeStatus_ne cause).1

theorem tag_of_confirmed {rt : ReqTag} {data : List Byte} (h : o.body = .confirmed rt data) : o.tag? = some rt := by
  unfold Operation.tag?
  rw [h]

theorem tag_of_timed {rt : ReqTag} {data : List Byte} {member : Option (Fin 7 × Byte)} (h : o.body = .timed rt data member) :
    o.tag? = some rt := by
  unfold Operation.tag?
  rw [h]

theorem allAcked_none : o.allAcked Progress.none = false := by
  unfold Operation.allAcked Progress.none
  simp

theorem isRead_of_tag {rt : ReqTag} (h : o.tag? = some rt) : o.isRead = false := by
  unfold Operation.tag? at h
  unfold Operation.isRead
  split
  · rename_i hbody
    rw [hbody] at h
    cases h
  · rfl

theorem isRead_of_posted {data : List Byte} (h : o.body = .posted data) : o.isRead = false := by
  unfold Operation.isRead
  rw [h]

end

/-! ## The engine told to end its run (R103) -/

section
variable {s : State} {b : Fin 4} {o : Operation} {cause : EndCause}

theorem endStalls_branch_unstalled (fuel : Nat) (s : State) {b : Fin 4} (h : (s.branch b).phase ≠ .stall) :
    (s.endStalls fuel).branch b = s.branch b := by
  induction fuel generalizing s with
  | zero => rfl
  | succ n ih =>
    unfold State.endStalls
    split
    · split
      · rfl
      · rename_i c s' hp
        have hs : s'.branch b = s.branch b := (congrArg (fun t : State => t.branch b) (pick_only s _ _ _ hp) :)
        have hbc : b ≠ c := by
          rintro rfl
          exact h (of_decide_eq_true (List.mem_filter.1 (pick_mem s _ _ _ hp)).2)
        have hkept : (s'.endStallOf c).branch b = s.branch b := (branch_modBranch_ne _ _ _ _ hbc).trans hs
        exact (ih _ (by rwa [hkept])).trans hkept
    · rfl

/-- Room found leaves an engine that is not in STALL (R94). -/
theorem roomFreed_branch_unstalled (s : State) {b : Fin 4} (h : (s.branch b).phase ≠ .stall) :
    s.roomFreed.branch b = s.branch b := endStalls_branch_unstalled 4 s h

theorem toldToEnd_phase_ne_stall (cause : EndCause) (br : Branch) : (br.toldToEnd cause).phase ≠ .stall := by
  unfold Branch.toldToEnd
  dsimp only
  split
  · nofun
  · split
    · nofun
    · assumption

/-- In the middle of a byte, and before a STOP, the engine holds the bus and the word does not move it (R103). -/
theorem toldToEnd_phase_stays {br : Branch}
    (h : br.phase ∈ ([.address, .subaddress, .writeData, .readData, .stop] : List Phase)) (cause : EndCause) :
    (br.toldToEnd cause).phase = br.phase ∧ ¬ br.OffBus := by
  unfold Branch.toldToEnd Branch.OffBus
  dsimp only
  generalize br.phase = p at h
  revert p
  decide

/-- Room found behind a change of branch b's engine, which is not in STALL then: that change stands, the other engines may leave
STALL, and nothing else has changed (R94). -/
theorem roomFreed_behind (s : State) (b : Fin 4) {f : Branch → Branch} (h : (f (s.branch b)).phase ≠ .stall) :
    (s.modBranch b f).roomFreed.branch b = f (s.branch b) ∧
      (∀ c, c ≠ b → ((s.modBranch b f).roomFreed.branch c).unstalled = (s.branch c).unstalled) ∧
      { (s.modBranch b f).roomFreed with branches := s.branches, freeCount := s.freeCount } = s := by
  refine ⟨?_, fun c hc => ?_, ?_⟩
  · rw [roomFreed_branch_unstalled _ (by rwa [branch_modBranch_same]), branch_modBranch_same]
  · rw [roomFreed_unstalled, branch_modBranch_ne _ _ _ _ hc]
  · exact lift (fun t : State => { t with branches := s.branches }) (roomFreed_only (s.modBranch b f)) rfl rfl

/-- The word reaches an engine that holds the bus: the run goes on, told, without a byte reserved for it (R103). -/
theorem tellEnd_onBus_engine (ho : (s.branch b).op = some o) (hbus : ¬ (s.branch b).OffBus) (cause : EndCause) :
    (s.tellEnd b cause).branch b = (s.branch b).toldToEnd cause ∧
      (∀ c, c ≠ b → ((s.tellEnd b cause).branch c).unstalled = (s.branch c).unstalled) ∧
      { s.tellEnd b cause with branches := s.branches, freeCount := s.freeCount } = s := by
  rw [tellEnd_onBus ho hbus]
  exact roomFreed_behind s b (toldToEnd_phase_ne_stall cause (s.branch b))

/-- The word reaches an engine off the bus: the run ends at once, and a write of which no byte has gone out is answered with the
cause's status (R83, R103). -/
theorem tellEnd_offBus_ends (ho : (s.branch b).op = some o) (hoff : (s.branch b).OffBus) (cause : EndCause) :
    ((s.tellEnd b cause).branch b).op = none ∧ ∀ rt, o.tag? = some rt → (s.branch b).progress = Progress.none →
      (s.tellEnd b cause).HasRecord b { rt := rt, status := cause.status, body := .completion o.offset } := by
  rw [tellEnd_offBus ho hoff]
  obtain ⟨hnone, _, _⟩ := endRun_engine (status := endStatus o (s.branch b).progress cause) (stuck := false) ho
  refine ⟨hnone, fun rt htag hfresh => ?_⟩
  rw [hfresh, endStatus_of_unacked allAcked_none]
  exact endRun_hasRecord ho htag (causeStatus_ne cause).1

/-- The progress that the acknowledge of the byte in hand makes (R92). -/
def Branch.ackedProgress (br : Branch) : Progress :=
  { br.progress with
    addressAcked := decide (br.phase = .address) || br.progress.addressAcked
    subaddressDone := br.progress.subaddressDone + (if br.phase = .subaddress then 1 else 0)
    dataDone := br.progress.dataDone + (if br.phase = .writeData then 1 else 0) }

/-- An engine told to end makes STOP behind the byte in hand (R103). -/
def Branch.stopsBehindAck (br : Branch) : Branch :=
  { br with phase := .stop, stopReason := .done, stretchCounter := 0, progress := br.ackedProgress }

theorem ackAddress_told (htold : (s.branch b).told = some cause) (hphase : (s.branch b).phase = .address) :
    s.ackAddress b o = s.modBranch b Branch.stopsBehindAck := by
  unfold State.ackAddress
  dsimp only
  rw [htold, Option.isSome_some, if_pos rfl, modBranch_modBranch]
  refine modBranch_congr ?_
  unfold Branch.stopsBehindAck Branch.ackedProgress
  rw [hphase]
  rfl

theorem ackSubaddress_told {br : Branch} (htold : br.told = some cause) (hphase : br.phase = .subaddress) :
    br.ackSubaddress o = br.stopsBehindAck := by
  unfold Branch.ackSubaddress Branch.stopsBehindAck Branch.ackedProgress
  dsimp only
  rw [htold, hphase]
  simp [Branch.makeStop]

theorem ackData_told {br : Branch} (htold : br.told = some cause) (hphase : br.phase = .writeData) :
    br.ackData o = br.stopsBehindAck := by
  unfold Branch.ackData Branch.stopsBehindAck Branch.ackedProgress
  dsimp only
  rw [htold, hphase]
  simp [Branch.makeStop]

theorem exec_byteAck_told (ho : (s.branch b).op = some o) (htold : (s.branch b).told = some cause)
    (hphase : (s.branch b).phase ∈ ([.address, .subaddress, .writeData] : List Phase)) :
    exec (.byteAck b) s = .next (s.modBranch b Branch.stopsBehindAck).endEvent := by
  show execByteAck b s = _
  unfold execByteAck
  rw [ho]
  dsimp only
  simp only [List.mem_cons, List.not_mem_nil, or_false] at hphase
  rcases hphase with h | h | h
  · rw [h]
    dsimp only
    rw [ackAddress_told htold h]
  · rw [h]
    dsimp only
    rw [modBranch_congr (ackSubaddress_told htold h)]
  · rw [h]
    dsimp only
    rw [modBranch_congr (ackData_told htold h)]

/-- A byte received is not offered, and the engine makes STOP (R103). -/
theorem receiveData_told (htold : (s.branch b).told = some cause) (i : Fin 16) (n : Nat) (byte : Byte) :
    s.receiveData b o i n byte = (s.modBranch b fun x =>
      Branch.makeStop { x with progress := { x.progress with reserved := false } } .done).roomFreed := by
  unfold State.receiveData
  dsimp only
  rw [htold]
  rfl

/-- The engine stays told behind the byte received, and makes STOP with nothing offered (R103). -/
theorem exec_readByte_told {byte : Byte} {i : Fin 16} {n : Nat} {first : Bool} (ho : (s.branch b).op = some o)
    (htold : (s.branch b).told = some cause) (hbody : o.body = .readPiece i n first) (hphase : (s.branch b).phase = .readData) :
    ∃ t, exec (.readByteReceived b byte) s = .next (State.endEvent t) ∧ (t.branch b).phase = .stop ∧
      (t.branch b).op = some o ∧ (t.branch b).told = some cause ∧
      { t with branches := s.branches, freeCount := s.freeCount } = s := by
  have hexec := exec_readByte ho hbody hphase byte
  rw [receiveData_told htold] at hexec
  obtain ⟨hmine, _, honly⟩ := roomFreed_behind s b (f := fun x =>
    Branch.makeStop { x with progress := { x.progress with reserved := false } } .done) nofun
  refine ⟨_, hexec, ?_, ?_, ?_, honly⟩ <;> rw [hmine]
  · rfl
  · exact ho
  · exact htold

/-! ## The STOP and the loss that end the run (R103; log 14) -/

theorem ownStop_told (ho : (s.branch b).op = some o) (htold : (s.branch b).told = some cause)
    (hphase : (s.branch b).phase = .stop) :
    s.ownStop b = (s.modBranch b Branch.seeStop).endRun b (endStatus o (s.branch b).progress cause) false := by
  unfold State.ownStop
  dsimp only
  rw [ho]
  dsimp only
  rw [if_pos hphase, htold]

theorem exec_runEnd_told (ho : (s.branch b).op = some o) (htold : (s.branch b).told = some cause)
    (hphase : (s.branch b).phase = .stop) : exec (.runEnd b) s = .next (s.ownStop b).endEvent := by
  have hruns : (s.branch b).runEnds = true := by
    unfold Branch.runEnds
    rw [ho]
    simp [hphase, htold]
  exact congrArg Host.Outcome.next (if_pos hruns)

theorem loseArbitration_told (ho : (s.branch b).op = some o) (htold : (s.branch b).told = some cause)
    (hphase : (s.branch b).phase = .stop) :
    s.loseArbitration b = (s.modBranch b Branch.release).endRun b (endStatus o (s.branch b).progress cause) false := by
  unfold State.loseArbitration
  dsimp only
  rw [ho]
  dsimp only
  rw [if_pos (by rw [hphase]; rfl), htold]

theorem release_bus (br : Branch) : br.release.bus = .busyOther := by
  unfold Branch.release Branch.seeOther
  split
  · assumption
  · rfl

theorem release_op (br : Branch) : br.release.op = br.op := by
  unfold Branch.release Branch.seeOther
  split <;> rfl

/-- State t comes of the end of the run of operation o that branch b was told to end for a cause: a write of which every byte has
been acknowledged (`acked`) ends OK, any other run with the cause's status (R83, R103). -/
structure ToldRunEnded (s : State) (b : Fin 4) (o : Operation) (acked : Bool) (cause : EndCause) (bus : Bus) (t : State) :
    Prop where
  op : (t.branch b).op = none
  told : (t.branch b).told = none
  bus : (t.branch b).bus = bus
  record : ∀ rt, o.tag? = some rt → t.HasRecord b
    { rt := rt, status := if acked then .ok else cause.status, body := .completion o.offset }
  faultKept : ∀ data, o.body = .posted data → acked = true ∨ cause.status = .aborted → t.fault = s.fault
  faultSet : ∀ data, o.body = .posted data → acked = false → cause.status = .branchReset →
    t.fault ≠ none ∧ t.flag .writeFailed = true
  groups : ∀ rt data m, o.body = .timed rt data m → acked = false → cause.status = .aborted → t.groups = s.groups
  only : t.withRun s = s

/-- The end of the run behind a change f of the engine's bus watch. -/
theorem endRun_told {f : Branch → Branch} (ho : (f (s.branch b)).op = some o) (p : Progress) (cause : EndCause) :
    ToldRunEnded s b o (o.allAcked p) cause (f (s.branch b)).bus
      ((s.modBranch b f).endRun b (endStatus o p cause) false) := by
  have hop : ((s.modBranch b f).branch b).op = some o := by rwa [branch_modBranch_same]
  obtain ⟨hnone, htold, hbus⟩ := endRun_engine (status := endStatus o p cause) (stuck := false) hop
  rw [branch_modBranch_same] at hbus
  have hstatus : endStatus o p cause = if o.allAcked p then .ok else cause.status := by
    cases h : o.allAcked p with
    | true => exact endStatus_of_acked h
    | false => exact endStatus_of_unacked h
  exact {
    op := hnone
    told := htold
    bus := hbus
    record := fun rt htag => by
      rw [← hstatus]
      exact endRun_hasRecord hop htag endStatus_ne_dataNack
    faultKept := fun data hbody h => by
      refine endRun_fault_kept hop hbody ?_
      rw [hstatus]
      rcases h with h | h
      · rw [h]
        exact .inl rfl
      · rw [h]
        split
        · exact .inl rfl
        · exact .inr rfl
    faultSet := fun data hbody hacked hreset => by
      refine endRun_fault_set hop hbody ?_
      rw [hstatus, hacked, if_neg Bool.false_ne_true, hreset]
      decide
    groups := fun rt data m hbody hacked haborted => by
      rw [hstatus, hacked, if_neg Bool.false_ne_true, haborted]
      exact endRun_groups hop hbody
    only := withRun_trans (endRun_only _ b _ _) rfl }

end

/-- Settles O42: the word by the engine's phase, the byte in hand, and the two ways in which the run ends. -/
theorem runsToldToEnd : Obligations.RunsToldToEnd := by
  unfold Obligations.RunsToldToEnd
  constructor
  · intro s b o cause ho told
    have hon (hbus : ¬ (s.branch b).OffBus) : told ((s.branch b).toldToEnd cause).phase := by
      obtain ⟨hmine, hothers, honly⟩ := tellEnd_onBus_engine ho hbus cause
      refine ⟨?_, ?_, ?_, ?_, hothers, honly⟩ <;> rw [hmine]
      · exact ho
      · rfl
      · rfl
    refine ⟨fun hphase => ?_, fun hphase => ?_, fun p hp hphase => ?_, fun hphase => ?_⟩
    · -- START and RESTART show STOP at once
      have hstop : ((s.branch b).toldToEnd cause).phase = .stop := if_pos hphase
      rw [← hstop]
      exact hon (not_offBus (by rcases hphase with h | h <;> rw [h] <;> decide))
    · -- STALL reads one more byte
      have hread : ((s.branch b).toldToEnd cause).phase = .readData := by
        unfold Branch.toldToEnd
        rw [hphase]
        rfl
      rw [← hread]
      exact hon (not_offBus (by rw [hphase]; decide))
    · -- any other phase on the bus stays
      obtain ⟨hstays, hbus⟩ := toldToEnd_phase_stays (by rwa [hphase]) cause
      rw [← hphase, ← hstays]
      exact hon hbus
    · -- off the bus the run ends at once
      obtain ⟨hnone, hrecord⟩ := tellEnd_offBus_ends ho hphase cause
      refine ⟨hnone, tellEnd_only s b cause, ?_⟩
      intro rt data hbody hfresh r
      exact List.mem_append.1 (hrecord rt (tag_of_confirmed hbody) hfresh)
  · intro s b o cause ho htold
    refine ⟨fun hphase => ?_, fun hphase => ?_, fun byte i n first hbody hphase => ?_, ?_⟩
    · exact ⟨(s.branch b).ackedProgress, (exec_byteAck_told ho htold hphase).trans
          (congrArg (fun t : State => Host.Outcome.next t.endEvent) (modBranch_congr rfl)), rfl, rfl, rfl⟩
    · exact congrArg Host.Outcome.next (if_pos ⟨by rw [ho]; rfl, .inr (.inl hphase)⟩)
    · exact exec_readByte_told ho htold hbody hphase
    · intro hphase reached ended ends
      have hends {c : Instr} {bus : Bus} {t : State} (hexec : exec c s = .next t.endEvent)
          (h : ToldRunEnded s b o (o.allAcked (s.branch b).progress) cause bus t) : ends c bus := by
        have hacked (hwrite : o.isRead = false) : o.allAcked (s.branch b).progress = true ↔ reached := allAcked_iff hwrite
        have hunacked (hwrite : o.isRead = false) (hn : ¬ reached) : o.allAcked (s.branch b).progress = false :=
          Bool.eq_false_iff.2 fun ha => hn ((hacked hwrite).1 ha)
        refine ⟨t, hexec, h.op, h.told, h.bus, fun rt htag => ⟨fun hr => ?_, fun hn => ?_⟩,
          fun data hbody => ⟨fun hr => ?_, fun hn => ?_⟩, fun rt data m hbody hn => ?_, h.only⟩
        · have hrecord := h.record rt htag
          rwa [(hacked (isRead_of_tag htag)).2 hr] at hrecord
        · have hrecord := h.record rt htag
          rwa [hunacked (isRead_of_tag htag) hn] at hrecord
        · exact h.faultKept data hbody (hr.imp_left (hacked (isRead_of_posted hbody)).2)
        · exact h.faultSet data hbody (hunacked (isRead_of_posted hbody) hn)
        · exact h.groups rt data m hbody (hunacked (isRead_of_tag (tag_of_timed hbody)) hn)
      constructor
      · have h := endRun_told (s := s) (b := b) (f := Branch.seeStop) ho (s.branch b).progress cause
        rw [← ownStop_told ho htold hphase] at h
        exact hends (exec_runEnd_told ho htold hphase) h
      · have h := endRun_told (s := s) (b := b) (f := Branch.release) ((release_op _).trans ho) (s.branch b).progress cause
        rw [← loseArbitration_told ho htold hphase, release_bus] at h
        exact hends rfl h

end Sys2Proof.Machine
end

section
/-! SUPPORT. The engines hold their operations (R87): a lemma per operation, `State.EnginesHold.<operation>`, in the order of the
definitions, up to the runs of the engines. -/

namespace Sys2Proof.Machine

/-! ## One engine -/

/-- The engine holds an operation exactly in the phases that hold one (R87). -/
def Branch.Holds (br : Branch) : Prop := br.op.isSome = br.phase.holdsOperation

section
variable {br : Branch} {o : Operation}

theorem holds_of_op (ho : br.op.isSome = true) (hphase : br.phase.holdsOperation = true) : br.Holds := ho.trans hphase.symm

theorem holds_of_none (ho : br.op = none) (hphase : br.phase.holdsOperation = false) : br.Holds :=
  (congrArg Option.isSome ho).trans hphase.symm

theorem Branch.Holds.isSome (h : br.Holds) (hphase : br.phase.holdsOperation = true) : br.op.isSome = true := h.trans hphase

theorem Branch.Holds.op_none (h : br.Holds) (hphase : br.phase.holdsOperation = false) : br.op = none :=
  Option.isSome_eq_false_iff.1 (h.trans hphase) |> Option.isNone_iff_eq_none.1

theorem isSome_of_op (ho : br.op = some o) : br.op.isSome = true := congrArg Option.isSome ho

theorem beginAttempt_holds (ho : br.op.isSome = true) (o : Operation) : (br.beginAttempt o).Holds := by
  unfold Branch.beginAttempt
  split
  · split
    · exact holds_of_op ho rfl
    · exact holds_of_op ho rfl
  · exact holds_of_op ho rfl

theorem beginPause_holds (ho : br.op.isSome = true) (o : Operation) : (br.beginPause o).Holds := by
  unfold Branch.beginPause
  split
  · exact beginAttempt_holds ho o
  · exact holds_of_op ho rfl

/-- An engine without an operation waits for its answers, or is IDLE (R104). -/
theorem settle_holds (ho : br.op = none) : br.settle.Holds := by
  refine holds_of_none ho ?_
  unfold Branch.settle
  dsimp only
  split <;> rfl

theorem afterRun_holds (ho : br.op = none) (stuck : Bool) : (br.afterRun stuck).Holds := by
  unfold Branch.afterRun
  split
  · exact holds_of_none ho rfl
  · exact settle_holds ho

theorem endClear_holds (ho : br.op = none) (stopMade : Bool) : (br.endClear stopMade).Holds := by
  unfold Branch.endClear
  dsimp only
  split
  · exact settle_holds ho
  · exact holds_of_none ho rfl

theorem toldToEnd_holds (h : br.Holds) (ho : br.op.isSome = true) (cause : EndCause) : (br.toldToEnd cause).Holds := by
  refine holds_of_op ho ?_
  unfold Branch.toldToEnd
  dsimp only
  split
  · rfl
  · split
    · rfl
    · exact h.symm.trans ho

theorem makeStop_holds (ho : br.op.isSome = true) (reason : StopReason) : (br.makeStop reason).Holds := holds_of_op ho rfl

theorem toWriteData_holds (ho : br.op.isSome = true) (o : Operation) : (br.toWriteData o).Holds := by
  unfold Branch.toWriteData
  split
  · exact makeStop_holds ho _
  · exact holds_of_op ho rfl

theorem ackSubaddress_holds (h : br.Holds) (ho : br.op.isSome = true) (o : Operation) : (br.ackSubaddress o).Holds := by
  unfold Branch.ackSubaddress
  dsimp only
  split
  · exact makeStop_holds ho .done
  · split
    · exact h
    · split
      · exact holds_of_op ho rfl
      · refine toWriteData_holds ?_ o
        exact ho

theorem ackData_holds (h : br.Holds) (ho : br.op.isSome = true) (o : Operation) : (br.ackData o).Holds := by
  unfold Branch.ackData
  dsimp only
  split
  · exact makeStop_holds ho .done
  · split
    · exact h
    · exact makeStop_holds ho .done

end

/-! ## Changes of the state -/

section
variable {s t : State}

theorem State.EnginesHold.branch (h : s.EnginesHold) (b : Fin 4) : (s.branch b).Holds := h b

/-- A change that keeps every branch but for its Issue Queue. -/
theorem State.EnginesHold.ofUngranted (h : s.EnginesHold) (hb : ∀ c, (t.branch c).ungranted = (s.branch c).ungranted) :
    t.EnginesHold := fun c => by
  have hop : (t.branch c).op = (s.branch c).op := (congrArg Branch.op (hb c) :)
  have hphase : (t.branch c).phase = (s.branch c).phase := (congrArg Branch.phase (hb c) :)
  rw [hop, hphase]
  exact h c

/-- A change outside the branches. -/
theorem State.EnginesHold.same (h : s.EnginesHold) (hb : t.branches = s.branches) : t.EnginesHold :=
  h.ofUngranted fun c => congrArg (fun v : Vector Branch 4 => v[c.val].ungranted) hb

theorem State.EnginesHold.modBranch (h : s.EnginesHold) {b : Fin 4} {f : Branch → Branch} (hf : (f (s.branch b)).Holds) :
    (s.modBranch b f).EnginesHold := fun c => by
  by_cases hc : c = b
  · subst hc
    rw [branch_modBranch_same]
    exact hf
  · rw [branch_modBranch_ne _ _ _ _ hc]
    exact h c

/-- A change of a branch that leaves its operation and its phase. -/
theorem State.EnginesHold.keep (h : s.EnginesHold) {b : Fin 4} {f : Branch → Branch}
    (hop : (f (s.branch b)).op = (s.branch b).op) (hphase : (f (s.branch b)).phase = (s.branch b).phase) :
    (s.modBranch b f).EnginesHold := h.modBranch (by unfold Branch.Holds; rw [hop, hphase]; exact h b)

theorem State.EnginesHold.freed (h : s.EnginesHold) (hf : Freed s t) : t.EnginesHold := h.ofUngranted hf.branches

theorem State.EnginesHold.foldl {α : Type} {f : State → α → State}
    (hf : ∀ (u : State) (x : α), u.EnginesHold → (f u x).EnginesHold) (xs : List α) (h : s.EnginesHold) :
    (xs.foldl f s).EnginesHold := by
  induction xs generalizing s with
  | nil => exact h
  | cons x xs ih => exact ih (hf s x h)

/-! ## Flags, free choices, groups, answers -/

theorem State.EnginesHold.setFlag (h : s.EnginesHold) (f : EventFlag) : (s.setFlag f).EnginesHold :=
  h.same (congrArg State.branches (setFlag_only s f) :)

theorem State.EnginesHold.raiseNotice (h : s.EnginesHold) : s.raiseNotice.EnginesHold :=
  h.same (congrArg State.branches (raiseNotice_only s) :)

theorem State.EnginesHold.wakeUp (h : s.EnginesHold) : s.wakeUp.EnginesHold :=
  h.same (congrArg State.branches (wakeUp_only s) :)

theorem State.EnginesHold.pick {α : Type} (h : s.EnginesHold) {xs : List α} {x : α} (hp : s.pick xs = some (x, t)) :
    t.EnginesHold := h.same (congrArg State.branches (pick_only s xs x t hp) :)

theorem State.EnginesHold.withGroups (h : s.EnginesHold) (ho : t.withGroups s = s) : t.EnginesHold :=
  h.same (congrArg State.branches ho :)

theorem State.EnginesHold.recordFault (h : s.EnginesHold) (b : Fin 4) (o : Operation) (status : Status) :
    (s.recordFault b o status).EnginesHold := h.same (congrArg State.branches (recordFault_only s b o status) :)

/-- An IDLE engine goes to POSTING, and holds no operation in either (R80, R87). -/
theorem State.EnginesHold.addAnswer (h : s.EnginesHold) (b : Fin 4) (r : Record) : (s.addAnswer b r).EnginesHold := by
  unfold State.addAnswer
  split
  · exact h
  · by_cases hidle : (s.branch b).phase = .idle
    · refine h.modBranch (holds_of_none ?_ ?_)
      · exact (h.branch b).op_none (by rw [hidle]; rfl)
      · exact congrArg Phase.holdsOperation (if_pos hidle)
    · exact h.keep rfl (if_neg hidle)

/-! ## Stalls, freed slots, polls -/

theorem State.EnginesHold.endStalls (h : s.EnginesHold) (fuel : Nat) : (s.endStalls fuel).EnginesHold := by
  induction fuel generalizing s with
  | zero => exact h
  | succ n ih =>
    unfold State.endStalls
    split
    · split
      · exact h
      · rename_i b s' hp
        have hstall : (s.branch b).phase = .stall := of_decide_eq_true (List.mem_filter.1 (pick_mem s _ _ _ hp)).2
        have hb : s'.branch b = s.branch b := (congrArg (fun t : State => t.branch b) (pick_only s _ _ _ hp) :)
        have hop : (s'.branch b).op.isSome = true := by
          rw [hb]
          exact (h.branch b).isSome (by rw [hstall]; rfl)
        exact ih ((h.pick hp).modBranch (holds_of_op hop rfl))
    · exact h

theorem State.EnginesHold.roomFreed (h : s.EnginesHold) : s.roomFreed.EnginesHold := h.endStalls 4

theorem State.EnginesHold.grantPass (h : s.EnginesHold) : s.grantPass.EnginesHold := h.ofUngranted (grantPass_ungranted s)

theorem State.EnginesHold.attemptPoll (h : s.EnginesHold) (b : Fin 4) : (s.attemptPoll b).EnginesHold :=
  h.ofUngranted (attemptPoll_ungranted s b)

theorem State.EnginesHold.trigger (h : s.EnginesHold) (b : Fin 4) : (s.trigger b).EnginesHold := by
  unfold State.trigger
  dsimp only
  split
  · exact h
  · split
    · split
      · split
        · exact h
        · exact h.attemptPoll b
      · exact h
    · split
      · exact h
      · exact h

theorem State.EnginesHold.levelTrigger (h : s.EnginesHold) (b : Fin 4) : (s.levelTrigger b).EnginesHold := by
  unfold State.levelTrigger
  split
  · exact h.trigger b
  · exact h

theorem State.EnginesHold.modAttn (h : s.EnginesHold) (b : Fin 4) (f : Attn → Attn) : (s.modAttn b f).EnginesHold := h

theorem State.EnginesHold.writeAttnFields (h : s.EnginesHold) (b : Fin 4) (store : Attn → Attn) :
    (s.writeAttnFields b store).EnginesHold := by
  unfold State.writeAttnFields
  dsimp only
  split
  · exact (h.modAttn b _).levelTrigger b
  · exact h.modAttn b _

theorem State.EnginesHold.claims (h : s.EnginesHold) : s.claims.EnginesHold := h.ofUngranted (claims_ungranted s)

theorem State.EnginesHold.endHoldoff (h : s.EnginesHold) (b : Fin 4) : (s.endHoldoff b).EnginesHold :=
  h.ofUngranted (endHoldoff_ungranted s b)

theorem State.EnginesHold.freeIfDone (h : s.EnginesHold) (i : Fin 16) : (s.freeIfDone i).EnginesHold :=
  h.ofUngranted (freeIfDone_ungranted s i)

/-! ## Entries that end -/

theorem State.EnginesHold.endEntry (h : s.EnginesHold) (i : Fin 16) (st : EntryState) (status : Status) :
    (s.endEntry i st status).EnginesHold := by
  unfold State.endEntry
  split
  · exact h
  · exact h.ofUngranted (dropQueued_ungranted _ i _)

/-! ## What follows at once -/

theorem State.EnginesHold.takeOp (h : s.EnginesHold) (b : Fin 4) (o : Operation) (rest : List Operation) :
    (s.takeOp b o rest).EnginesHold := by
  have ht := h.modBranch (b := b) (f := fun br => Branch.beginAttempt
    { br with queue := rest, op := some o, retryCount := 0, lastCause := .absent, told := none } o) (beginAttempt_holds rfl o)
  unfold State.takeOp
  dsimp only
  split
  · exact ht
  · exact ht

theorem State.EnginesHold.takeNext (h : s.EnginesHold) (b : Fin 4) : (s.takeNext b).EnginesHold := by
  unfold State.takeNext
  split
  · exact h
  · exact (h.takeOp b _ _).freed (slotFreed_freed _ b)

/-- An engine leaves POSTING with its last answer, and holds no operation in IDLE either (R81, R87). -/
theorem State.EnginesHold.postNext (h : s.EnginesHold) (b : Fin 4) : (s.postNext b).EnginesHold := by
  unfold State.postNext
  split
  · exact h
  · rename_i r rest _
    have hpushed : (s.pushRecord r).EnginesHold := h
    by_cases hlast : (s.branch b).phase = .posting ∧ rest = []
    · refine hpushed.modBranch (holds_of_none ?_ ?_)
      · exact (h.branch b).op_none (by rw [hlast.1]; rfl)
      · exact congrArg Phase.holdsOperation (if_pos hlast)
    · exact hpushed.keep rfl (if_neg hlast)

theorem State.EnginesHold.follow (h : s.EnginesHold) (f : Follow) : (s.follow f).EnginesHold := by
  cases f with
  | take b => exact h.takeNext b
  | post b => exact h.postNext b
  | judge => exact h.freed (judge_freed s)

theorem State.EnginesHold.settleIn (h : s.EnginesHold) (fuel : Nat) : (s.settleIn fuel).EnginesHold := by
  induction fuel generalizing s with
  | zero => exact h
  | succ n ih =>
    unfold State.settleIn
    split
    · exact h
    · rename_i hp; exact ih ((h.pick hp).follow _)

theorem State.EnginesHold.settle (h : s.EnginesHold) : s.settle.EnginesHold := h.settleIn _

theorem State.EnginesHold.beginFrame (h : s.EnginesHold) : s.beginFrame.EnginesHold :=
  h.same (congrArg State.branches (beginFrame_only s) :)

theorem State.EnginesHold.quiesce (h : s.EnginesHold) : s.quiesce.EnginesHold :=
  h.same (congrArg State.branches (quiesce_only s) :)

theorem State.EnginesHold.endEvent (h : s.EnginesHold) : s.endEvent.EnginesHold := h.settle.beginFrame.settle.quiesce

/-! ## Runs of the engines -/

theorem State.EnginesHold.handOn (h : s.EnginesHold) (b : Fin 4) (o : Operation) (status : Status) (dataDone : Nat) :
    (s.handOn b o status dataDone).EnginesHold := by
  unfold State.handOn
  split
  · exact h.ofUngranted (pieceEnd_ungranted s _ o _ _ status)
  · split
    · exact h
    · exact h.recordFault b o status
  · exact h.addAnswer b _
  · dsimp only
    split
    · exact h.addAnswer b _
    · exact (h.addAnswer b _).withGroups (reportMember_only _ _ _)

/-- The engine drops its operation, and goes to no phase that holds one (R104, R108). -/
theorem State.EnginesHold.endRun (h : s.EnginesHold) (b : Fin 4) (status : Status) (stuck : Bool) :
    (s.endRun b status stuck).EnginesHold := by
  cases ho : (s.branch b).op with
  | none =>
    unfold State.endRun
    rw [ho]
    exact h
  | some o =>
    rw [endRun_eq ho]
    have hdropped : (s.modBranch b Branch.dropOp).EnginesHold := h.modBranch (holds_of_none rfl rfl)
    have hnone : ((s.handedOn b o status).branch b).op = none := by
      have hkept := handOn_unposted (s.modBranch b Branch.dropOp) b o status (s.branch b).progress.dataDone b
      rw [branch_modBranch_same] at hkept
      exact (congrArg Branch.op hkept :)
    exact ((hdropped.handOn b o status _).modBranch (afterRun_holds hnone stuck)).roomFreed

theorem State.EnginesHold.tellEnd (h : s.EnginesHold) (b : Fin 4) (cause : EndCause) : (s.tellEnd b cause).EnginesHold := by
  cases ho : (s.branch b).op with
  | none =>
    unfold State.tellEnd
    dsimp only
    rw [ho]
    exact h
  | some o =>
    by_cases hoff : (s.branch b).OffBus
    · rw [tellEnd_offBus ho hoff]
      exact h.endRun b _ _
    · rw [tellEnd_onBus ho hoff]
      exact (h.modBranch (toldToEnd_holds (h.branch b) (isSome_of_op ho) cause)).roomFreed

theorem State.EnginesHold.abandon (h : s.EnginesHold) (i : Fin 16) (status : Status) : (s.abandon i status).EnginesHold := by
  have htold {u : State} (hu : u.EnginesHold) (b : Fin 4) : (u.tellUnwanted i b).EnginesHold := by
    unfold State.tellUnwanted
    split
    · exact hu
    · split
      · exact hu.tellEnd b _
      · exact hu
  unfold State.abandon
  split
  · exact h
  · exact ((htold (h.endEntry i _ status) _).freed (slotFreed_freed _ _)).roomFreed

theorem State.EnginesHold.expire (h : s.EnginesHold) (i : Fin 16) : (s.expire i).EnginesHold := by
  unfold State.expire
  split
  · exact h
  · rename_i e _
    have hextended : (s.extendDeadline i e).EnginesHold := State.EnginesHold.setFlag (s := s.setEntry i _) h _
    split
    · split
      · exact hextended
      · exact (h.abandon i _).setFlag _
    · exact h

theorem State.EnginesHold.afterLoss (h : s.EnginesHold) {b : Fin 4} (ho : (s.branch b).op.isSome = true) (o : Operation) :
    (s.afterLoss b o).EnginesHold := by
  unfold State.afterLoss
  split
  · exact h.endRun b _ _
  · exact State.EnginesHold.roomFreed (h.modBranch (holds_of_op ho rfl))

theorem seeOther_phase (br : Branch) : br.seeOther.phase = br.phase := by
  unfold Branch.seeOther
  split <;> rfl

theorem seeOther_op (br : Branch) : br.seeOther.op = br.op := by
  unfold Branch.seeOther
  split <;> rfl

theorem release_phase (br : Branch) : br.release.phase = br.phase := seeOther_phase br

theorem State.EnginesHold.loseArbitration (h : s.EnginesHold) (b : Fin 4) : (s.loseArbitration b).EnginesHold := by
  have hr : (s.modBranch b Branch.release).EnginesHold := h.keep (release_op _) (release_phase _)
  unfold State.loseArbitration
  dsimp only
  split
  · exact h
  · rename_i o ho
    have hlost (f : Branch → Branch) (hf : ∀ br, (f br).op = br.op ∧ (f br).phase = br.phase) :
        (((s.modBranch b Branch.release).modBranch b f).afterLoss b o).EnginesHold := by
      refine (hr.keep (hf _).1 (hf _).2).afterLoss ?_ o
      rw [branch_modBranch_same, (hf _).1, branch_modBranch_same, release_op]
      exact isSome_of_op ho
    split
    · split
      · exact hr.endRun b _ _
      · split
        · split
          · exact hr.endRun b _ _
          · exact hr.endRun b _ _
          · exact hlost _ fun _ => ⟨rfl, rfl⟩
        · exact hlost _ fun _ => ⟨rfl, rfl⟩
    · exact h

theorem State.EnginesHold.otherStart (h : s.EnginesHold) (b : Fin 4) : (s.otherStart b).EnginesHold := by
  unfold State.otherStart
  dsimp only
  split
  · rename_i hwaits
    refine h.modBranch (holds_of_op ?_ rfl)
    rw [seeOther_op]
    exact (h.branch b).isSome (by rcases hwaits with hp | hp <;> rw [hp] <;> rfl)
  · split
    · exact h.loseArbitration b
    · split
      · exact h
      · refine h.keep ?_ ?_
        · dsimp only
          split
          · exact seeOther_op _
          · rfl
        · dsimp only
          split
          · exact seeOther_phase _
          · rfl

theorem State.EnginesHold.ownStart (h : s.EnginesHold) (b : Fin 4) : (s.ownStart b).EnginesHold := by
  unfold State.ownStart
  split
  · rename_i hphase
    refine h.modBranch (holds_of_op ?_ rfl)
    exact (h.branch b).isSome (by rcases hphase with hp | hp <;> rw [hp] <;> rfl)
  · exact h

theorem State.EnginesHold.leaveBusyOther (h : s.EnginesHold) (b : Fin 4) : (s.leaveBusyOther b).EnginesHold := by
  unfold State.leaveBusyOther
  split
  · exact h
  · rename_i ho
    split
    · exact h.modBranch (beginAttempt_holds (isSome_of_op ho) _)
    · exact h

theorem State.EnginesHold.otherStop (h : s.EnginesHold) (b : Fin 4) : (s.otherStop b).EnginesHold := by
  unfold State.otherStop
  split
  · exact h
  · exact ((h.loseArbitration b).keep (f := Branch.seeStop) rfl rfl).leaveBusyOther b

theorem State.EnginesHold.ownStop (h : s.EnginesHold) (b : Fin 4) : (s.ownStop b).EnginesHold := by
  have hs : (s.modBranch b Branch.seeStop).EnginesHold := h.keep rfl rfl
  unfold State.ownStop
  dsimp only
  split
  · exact h
  · rename_i o ho
    split
    · split
      · exact hs.endRun b _ _
      · split
        · exact hs.endRun b _ _
        · exact hs.endRun b _ _
        · split
          · exact hs.endRun b _ _
          · refine hs.modBranch (beginPause_holds ?_ o)
            rw [branch_modBranch_same]
            exact isSome_of_op ho
    · exact h

/-! ## Bytes and clocks -/

section
variable {b : Fin 4} {o : Operation}

theorem State.EnginesHold.beginReadByte (h : s.EnginesHold) (ho : (s.branch b).op.isSome = true) (i : Fin 16) :
    (s.beginReadByte b i o).EnginesHold := by
  refine h.modBranch (holds_of_op ho ?_)
  dsimp only
  split <;> rfl

theorem State.EnginesHold.ackAddress (h : s.EnginesHold) (ho : (s.branch b).op.isSome = true) :
    (s.ackAddress b o).EnginesHold := by
  have ha : (s.modBranch b fun br => { br with
    stretchCounter := 0, progress := { br.progress with addressAcked := true } }).EnginesHold := h.keep rfl rfl
  have hop : ((s.modBranch b fun br => { br with
    stretchCounter := 0, progress := { br.progress with addressAcked := true } }).branch b).op.isSome = true := by
    rw [branch_modBranch_same]
    exact ho
  unfold State.ackAddress
  dsimp only
  split
  · exact ha.modBranch (makeStop_holds hop _)
  · split
    · split
      · exact ha.beginReadByte hop _
      · exact ha
    · split
      · exact ha.modBranch (toWriteData_holds hop o)
      · exact ha.modBranch (holds_of_op hop rfl)

/-- The engine goes on to the next byte, or makes STOP (R93). -/
theorem State.EnginesHold.afterByte (h : s.EnginesHold) (ho : (s.branch b).op.isSome = true) (i : Fin 16) (ack : Bool) :
    (s.afterByte b i o ack).EnginesHold := by
  unfold State.afterByte
  split
  · exact h.beginReadByte ho i
  · exact h.modBranch (makeStop_holds ho _)

theorem roomFreed_op (u : State) (b : Fin 4) : (u.roomFreed.branch b).op = (u.branch b).op := (roomFreed_engine u b).2

theorem State.EnginesHold.receiveData (h : s.EnginesHold) (ho : (s.branch b).op.isSome = true) (i : Fin 16) (length : Nat)
    (byte : Byte) : (s.receiveData b o i length byte).EnginesHold := by
  have hstep {u : State} (hu : u.EnginesHold) (huo : (u.branch b).op.isSome = true) :
      (u.modBranch b Branch.byteDone).EnginesHold ∧ ((u.modBranch b Branch.byteDone).branch b).op.isSome = true :=
    ⟨hu.keep rfl rfl, by rw [branch_modBranch_same]; exact huo⟩
  have hstored : (s.storeByte i byte).EnginesHold ∧ ((s.storeByte i byte).branch b).op.isSome = true := by
    unfold State.storeByte
    split
    · exact ⟨h, ho⟩
    · exact ⟨h, ho⟩
  unfold State.receiveData
  dsimp only
  split
  · exact State.EnginesHold.roomFreed (h.modBranch (makeStop_holds ho .done))
  · cases (s.branch b).progress.reserved && s.byteWanted i (o.offset + (s.branch b).progress.dataDone)
    · obtain ⟨hd, hdo⟩ := hstep h ho
      refine State.EnginesHold.afterByte hd.roomFreed ?_ i _
      exact (congrArg Option.isSome (roomFreed_op _ b)).trans hdo
    · obtain ⟨hd, hdo⟩ := hstep hstored.1 hstored.2
      exact State.EnginesHold.afterByte hd hdo i _

end

theorem State.EnginesHold.judgeClock (h : s.EnginesHold) (b : Fin 4) : (s.judgeClock b).EnginesHold := by
  have hf := h.setFlag .branchStuck
  unfold State.judgeClock
  dsimp only
  split
  · split
    · rename_i hclearing
      refine hf.modBranch (endClear_holds ?_ false)
      rw [setFlag_branch]
      exact (h.branch b).op_none (by rw [hclearing]; rfl)
    · split
      · exact hf
      · exact hf.endRun b _ _
  · exact h

theorem State.EnginesHold.judgeBusy (h : s.EnginesHold) (b : Fin 4) : (s.judgeBusy b).EnginesHold := by
  unfold State.judgeBusy
  split
  · refine State.EnginesHold.setFlag ?_ _
    exact h.keep rfl rfl
  · exact h

end

end Sys2Proof.Machine
end

section
/-! SUPPORT. The engines hold their operations through the Release Unit, the resets, the management space, Intake, the end of a send and
every step. -/

namespace Sys2Proof.Machine

section
variable {s t : State}

/-! ## The Release Unit -/

theorem State.EnginesHold.markDue (h : s.EnginesHold) : s.markDue.EnginesHold :=
  h.same (congrArg State.branches (markDue_only s) :)

theorem State.EnginesHold.insertEntry (h : s.EnginesHold) (x : ReleaseEntry) : (s.insertEntry x).EnginesHold :=
  State.EnginesHold.markDue (s := { s with releaseQueue := settleWaiting (insertRelease s.stamp x s.releaseQueue) }) h

theorem State.EnginesHold.releaseRow (h : s.EnginesHold) (row : Instr) : (s.releaseRow row).EnginesHold := by
  unfold State.releaseRow
  split
  · split
    · exact h
    · rename_i ht; exact ((h.freed (judgeHead_freed ht)).freed (judge_freed _)).endEvent
  · exact h

theorem State.EnginesHold.expireEach (h : s.EnginesHold) (due : List (Fin 16)) (fuel : Nat) :
    (s.expireEach due fuel).EnginesHold := by
  induction fuel generalizing s due with
  | zero => exact h
  | succ n ih =>
    unfold State.expireEach
    split
    · exact h
    · rename_i i s' hp; exact ih ((h.pick hp).expire i) _
    · rename_i s' hp
      refine ih ?_ due
      cases ht : s'.judgeHead with
      | none => exact h.pick hp
      | some u => exact (h.pick hp).freed (judgeHead_freed ht)

theorem State.EnginesHold.writeStamp (h : s.EnginesHold) (value : Stamp) : (s.writeStamp value).EnginesHold :=
  State.EnginesHold.expireEach
    (State.EnginesHold.markDue (s := { s with stamp := value, tickTimer := 0, tickLength := s.tickMicros }) h) _ _

/-! ## Resets -/

theorem State.EnginesHold.emptyQueue (h : s.EnginesHold) (b : Fin 4) :
    (s.modBranch b fun br => { br with queue := [] }).EnginesHold := h.keep rfl rfl

theorem State.EnginesHold.removeByReset (h : s.EnginesHold) (b : Fin 4) (o : Operation) : (s.removeByReset b o).EnginesHold := by
  unfold State.removeByReset
  split
  · exact h
  · exact h.recordFault b o _
  · exact h.addAnswer b _
  · exact (h.addAnswer b _).withGroups (reportMember_only _ _ _)

theorem State.EnginesHold.resetQueue (h : s.EnginesHold) (b : Fin 4) : (s.resetQueue b).EnginesHold := by
  have h1 := State.EnginesHold.foldl (f := fun t i => t.endEntry i .closing .branchReset) (fun _ i hu => hu.endEntry i _ _)
    (s.gatheringOn b) h
  have hf {u : State} (hu : u.EnginesHold) : ({ u with fault := none } : State).EnginesHold := hu
  exact State.EnginesHold.foldl (f := fun t o => t.removeByReset b o) (fun _ o hu => hu.removeByReset b o)
    (s.branch b).queue (hf (h1.emptyQueue b))

/-- A reset begins the clear of an engine that holds nothing, and tells one that holds an operation to end its run (R108). -/
theorem State.EnginesHold.resetEngine (h : s.EnginesHold) (b : Fin 4) : (s.resetEngine b).EnginesHold := by
  unfold State.resetEngine
  dsimp only
  split
  · exact h
  · split
    · refine State.EnginesHold.tellEnd ?_ b _
      exact h.keep rfl rfl
    · rename_i hnone
      split
      · exact h.keep rfl rfl
      · refine h.modBranch (holds_of_none ?_ rfl)
        exact Option.not_isSome_iff_eq_none.1 hnone

theorem State.EnginesHold.branchReset (h : s.EnginesHold) (b : Fin 4) : (s.branchReset b).EnginesHold :=
  ((h.resetQueue b).resetEngine b).grantPass.roomFreed

theorem State.EnginesHold.enableBranch (h : s.EnginesHold) (b : Fin 4) : (s.enableBranch b).EnginesHold := by
  unfold State.enableBranch
  split
  · exact h
  · by_cases hphase : (s.branch b).phase = .disabled
    · have hnone : (s.branch b).op = none := (h.branch b).op_none (by rw [hphase]; rfl)
      refine h.modBranch ?_
      rw [if_pos hphase]
      exact settle_holds hnone
    · refine h.modBranch ?_
      rw [if_neg hphase]
      exact h.branch b

theorem State.EnginesHold.disableBranch (h : s.EnginesHold) (b : Fin 4) : (s.disableBranch b).EnginesHold := by
  unfold State.disableBranch
  split
  · refine State.EnginesHold.branchReset ?_ b
    exact h.keep rfl rfl
  · exact h

theorem State.EnginesHold.writeBranchControl (h : s.EnginesHold) (b : Fin 4) (enabled : Bool) (rate : Rate) :
    (s.writeBranchControl b enabled rate).EnginesHold := by
  have hr : (s.modBranch b fun br => { br with rate := rate }).EnginesHold := h.keep rfl rfl
  unfold State.writeBranchControl
  dsimp only
  split
  · exact hr.enableBranch b
  · exact hr.disableBranch b

theorem State.EnginesHold.abortQueue (h : s.EnginesHold) (b : Fin 4) : (s.abortQueue b).EnginesHold := by
  refine State.EnginesHold.foldl (f := fun t o => t.removeByOffline b o) (fun u o hu => ?_) _ (h.emptyQueue b)
  unfold State.removeByOffline
  split
  · exact hu
  · exact hu
  · exact hu.addAnswer b _
  · exact hu.addAnswer b _

theorem State.EnginesHold.enterOffline (h : s.EnginesHold) : s.enterOffline.EnginesHold := by
  have h0 : ({ s with opState := .offline } : State).EnginesHold := h
  have h1 := State.EnginesHold.foldl (f := fun t i => t.endEntry i .abandoned .aborted) (fun _ i hu => hu.endEntry i _ _)
    (sixteen.filter (State.abortable { s with opState := .offline })) h0
  have h2 := State.EnginesHold.foldl (f := fun t b => t.abortQueue b) (fun _ b hu => hu.abortQueue b) four h1
  have h3 {u : State} (hu : u.EnginesHold) (v : Vector Attn 4) : ({ u.idleGroups with attns := v } : State).EnginesHold := hu
  exact (State.EnginesHold.foldl (f := fun t b => t.tellEnd b .aborted) (fun _ b hu => hu.tellEnd b _) four
    (h3 h2 _)).grantPass.roomFreed

/-- After a reset every engine is DISABLED, and holds nothing (R86, R88). -/
theorem resetTo_enginesHold (straps : Straps) (opState : OpState) (holdIn : Bool) (inputs : Vector Bool 4)
    (pending : List Instr) (freeCount : Nat) :
    (State.resetTo straps opState holdIn inputs pending freeCount).EnginesHold := fun b => by
  have hb : (State.resetTo straps opState holdIn inputs pending freeCount).branch b = Branch.reset :=
    Vector.getElem_replicate b.isLt
  rw [hb]
  rfl

/-! ## Register writes -/

/-- The engines hold their operations in the state that a word leaves, when it is applied. -/
def WordOutcome.EnginesHold : WordOutcome → Prop
  | .applied t => t.EnginesHold
  | .stops _ => True

theorem State.EnginesHold.writeState (h : s.EnginesHold) (v : Nat) : (s.writeState v).EnginesHold := by
  unfold State.writeState
  split
  · split
    · exact h
    · exact h
    · exact h
  · split
    · exact h
    · trivial
    · exact h
  · trivial
  · split
    · exact h.enterOffline
    · exact h.enterOffline
    · exact h
  · trivial
  · exact h

theorem State.EnginesHold.writeResetCommand (h : s.EnginesHold) (v : Nat) : (s.writeResetCommand v).EnginesHold := by
  unfold State.writeResetCommand
  split
  · exact h
  · exact h
  · exact h.branchReset 0
  · exact h.branchReset 1
  · exact h.branchReset 2
  · exact h.branchReset 3
  · trivial

theorem State.EnginesHold.writeNoticeMask (h : s.EnginesHold) (w : Word) : (s.writeNoticeMask w).EnginesHold := by
  have hm : ({ s with noticeMask := w.setWidth 11 } : State).EnginesHold := h
  unfold State.writeNoticeMask
  dsimp only
  split
  · exact hm.raiseNotice
  · exact hm

theorem State.EnginesHold.writeNoticeArm (h : s.EnginesHold) (w : Word) : (s.writeNoticeArm w).EnginesHold := by
  have hm : ({ s with noticeArm := w.getLsbD 0 } : State).EnginesHold := h
  unfold State.writeNoticeArm
  dsimp only
  split
  · exact hm.raiseNotice
  · exact hm

theorem byteField_enginesHold {w : Word} {store : Byte → State} (h : ∀ x, (store x).EnginesHold) :
    (byteField w store).EnginesHold := by
  unfold byteField
  split
  · trivial
  · exact h _

theorem State.EnginesHold.writeControl (h : s.EnginesHold) (b : Fin 4) (w : Word) : (s.writeControl b w).EnginesHold := by
  unfold State.writeControl
  split
  · trivial
  · exact h.writeBranchControl b _ _

theorem State.EnginesHold.writeAttnWord (h : s.EnginesHold) (b : Fin 4) (w : Word) : (s.writeAttnWord b w).EnginesHold := by
  have hc (mode : AttnMode) : (s.writeAttnControl b (w.getLsbD 0) mode (w.getLsbD 3)).EnginesHold :=
    (h.modAttn b _).levelTrigger b
  unfold State.writeAttnWord
  split
  · exact hc _
  · exact hc _
  · trivial

theorem State.EnginesHold.writeAttnSize (h : s.EnginesHold) (b : Fin 4) (w : Word) : (s.writeAttnSize b w).EnginesHold := by
  unfold State.writeAttnSize
  dsimp only
  split
  · trivial
  · exact h.writeAttnFields b _

theorem State.EnginesHold.writeGroupCommand (h : s.EnginesHold) (g : Fin 7) (v : Nat) :
    (s.writeGroupCommand g v).EnginesHold := by
  have hg (f : Group → Group) : (s.modGroup g f).EnginesHold := h
  unfold State.writeGroupCommand
  split
  · unfold State.openGroup
    by_cases hs : (s.group g).state = .idle
    · rw [if_pos hs]
      exact hg _
    · rw [if_neg hs]
      trivial
  · unfold State.closeGroup
    by_cases hs : (s.group g).state = .collecting
    · rw [if_pos hs]
      exact (hg _).withGroups (fireIfComplete_only _ g)
    · rw [if_neg hs]
      trivial
  · exact hg _
  · trivial

/-- Every word by its register: those that end entries, runs or clears by their own lemmas, and the rest change neither an engine's
operation nor its phase. -/
theorem State.EnginesHold.writeWord (h : s.EnginesHold) (x : Register) (w : Word) : (s.writeWord x w).EnginesHold := by
  cases x with
  | state => exact h.writeState _
  | resetCommand => exact h.writeResetCommand _
  | commitLimit =>
    exact State.EnginesHold.grantPass (s := { s with commitLimit := max 64 (min 1023 w.toNat) }) h
  | timeoutClass c =>
    simp only [State.writeWord]
    split
    · trivial
    · exact h
  | tickShift =>
    simp only [State.writeWord]
    split
    · trivial
    · exact h
  | stamp => exact h.writeStamp w
  | lateWindow =>
    simp only [State.writeWord]
    split
    · trivial
    · exact h
  | noticeMask => exact h.writeNoticeMask w
  | noticeArm => exact h.writeNoticeArm w
  | fault word =>
    simp only [State.writeWord]
    split
    · exact h
    · exact h
  | branchControl b => exact h.writeControl b w
  | branchGap b =>
    have hs (x : Byte) : (s.modBranch b fun br => { br with gap := x }).EnginesHold := h.keep rfl rfl
    exact byteField_enginesHold hs
  | branchPause b =>
    have hs (x : Byte) : (s.modBranch b fun br => { br with retryPause := x }).EnginesHold := h.keep rfl rfl
    exact byteField_enginesHold hs
  | branchStretch b =>
    refine byteField_enginesHold fun _ => State.EnginesHold.judgeClock ?_ b
    exact h.keep rfl rfl
  | branchBusy b =>
    refine byteField_enginesHold fun _ => State.EnginesHold.judgeBusy ?_ b
    exact h.keep rfl rfl
  | attnControl b => exact h.writeAttnWord b w
  | attnPlace b => exact h.writeAttnFields b _
  | attnSize b => exact h.writeAttnSize b w
  | groupCommand g => exact h.writeGroupCommand g _
  | groupAction g =>
    simp only [State.writeWord, State.writeGroupAction]
    split
    · exact h
    · trivial
  | groupWidth g =>
    simp only [State.writeWord, State.writeGroupWidth]
    split
    · trivial
    · exact h
  | _ => exact h

theorem State.EnginesHold.writeWords (h : s.EnginesHold) (address k : Nat) (words : List Word) :
    (s.writeWords address k words).state.EnginesHold := by
  induction words generalizing s k with
  | nil => exact h
  | cons w rest ih =>
    unfold State.writeWords
    split
    · exact h
    · rename_i x _
      split
      · exact h
      · rename_i u hu
        have hw := h.writeWord x w
        rw [hu] at hw
        refine ih ?_ (k + 1)
        unfold State.betweenWords
        split
        · exact hw
        · exact State.EnginesHold.settle hw

theorem State.EnginesHold.mgmtWrite (h : s.EnginesHold) (rt : ReqTag) (bridgeNumber : BitVec 3) (address : Nat)
    (words : List Word) : (s.mgmtWrite rt bridgeNumber address words).EnginesHold :=
  State.EnginesHold.writeWords
    (s := ({ s with bridgeNumber := bridgeNumber, intake := [] } : State).pushRecord (mgmtCompletion rt .ok 0 []))
    h address 0 words

theorem State.EnginesHold.mgmtRead (h : s.EnginesHold) (rt : ReqTag) (address words : Nat) :
    (s.mgmtRead rt address words).EnginesHold := by
  have hread (u : State) (x : Register) (hu : u.EnginesHold) : (u.readEffect x).EnginesHold := by
    unfold State.readEffect
    split
    · exact hu.keep rfl rfl
    · exact hu
  unfold State.mgmtRead
  split
  · exact h
  · exact State.EnginesHold.foldl (f := State.readEffect) hread _ h

/-! ## Reception and decisions -/

theorem State.EnginesHold.placeFrame (h : s.EnginesHold) (f : Frame) : (s.placeFrame f).EnginesHold := by
  unfold State.placeFrame
  split
  · exact State.EnginesHold.wakeUp (s := { s with intake := s.intake ++ [f] }) h
  · exact h.setFlag _

theorem State.EnginesHold.scan (h : s.EnginesHold) (bytes : List Byte) (fuel : Nat) : (s.scan bytes fuel).EnginesHold := by
  induction fuel generalizing s bytes with
  | zero => exact h
  | succ n ih =>
    unfold State.scan
    split
    · exact h
    · split
      · exact ih h _
      · split
        · dsimp only
          split
          · exact h
          · split
            · exact ih (h.placeFrame _) _
            · exact ih (h.setFlag _) _
        · exact h

theorem State.EnginesHold.receive (h : s.EnginesHold) (bytes : List Byte) : (s.receive bytes).EnginesHold := h.scan _ _

/-- The engines hold their operations in the state that a decision leaves, when it takes the frame. -/
def Decision.EnginesHold : Decision → Prop
  | .refuse _ => True
  | .answer t => t.EnginesHold
  | .accept t => t.EnginesHold

theorem State.EnginesHold.createEntry (h : s.EnginesHold) (i : Fin 16) (owner : SplitOwner) (r : Route) (start length : Nat) :
    (s.createEntry i owner r start length).EnginesHold := h.ofUngranted (createEntry_ungranted s i owner r start length)

theorem State.EnginesHold.decideRead (h : s.EnginesHold) (rt : ReqTag) (ldn : Byte) (offset length : Nat) :
    (s.decideRead rt ldn offset length).EnginesHold := by
  unfold State.decideRead
  split
  · trivial
  · split
    · trivial
    · split
      · trivial
      · exact h.createEntry _ _ _ _ _

theorem State.EnginesHold.decideWrite (h : s.EnginesHold) (rt : ReqTag) (body : OpBody) (ldn : Byte) (offset count : Nat) :
    (s.decideWrite rt body ldn offset count).EnginesHold := by
  unfold State.decideWrite
  split
  · trivial
  · split
    · trivial
    · exact h.keep rfl rfl

theorem State.EnginesHold.decideConfirmed (h : s.EnginesHold) (rt : ReqTag) (ldn : Byte) (offset : Nat) (data : List Byte) :
    (s.decideConfirmed rt ldn offset data).EnginesHold := by
  unfold State.decideConfirmed
  split
  · trivial
  · exact h.decideWrite rt _ ldn offset _

theorem State.EnginesHold.addMember (h : s.EnginesHold) (member : Option (Fin 7 × Byte)) : (s.addMember member).EnginesHold := by
  unfold State.addMember
  split
  · exact h
  · exact h

theorem State.EnginesHold.decideTimedWrite (h : s.EnginesHold) (rt : ReqTag) (stamp : Stamp) (group ldn : Byte) (offset : Nat)
    (data : List Byte) : (s.decideTimedWrite rt stamp group ldn offset data).EnginesHold := by
  unfold State.decideTimedWrite
  split
  · trivial
  · split
    · trivial
    · split
      · trivial
      · split
        · trivial
        · split
          · trivial
          · exact (h.addMember _).insertEntry _

theorem State.EnginesHold.decideTimedLatch (h : s.EnginesHold) (rt : ReqTag) (stamp : Stamp) (lines : BitVec 4)
    (action : LatchAction) (width : BitVec 16) : (s.decideTimedLatch rt stamp lines action width).EnginesHold := by
  unfold State.decideTimedLatch
  split
  · trivial
  · split
    · trivial
    · split
      · trivial
      · exact h.insertEntry _

theorem State.EnginesHold.cancelTarget (h : s.EnginesHold) (target : ReqTag) : (s.cancelTarget target).2.EnginesHold := by
  have hq (x : ReleaseEntry) : ({ s with
    releaseQueue := s.releaseQueue.filter fun y => !(y.rt == x.rt) } : State).EnginesHold := h
  unfold State.cancelTarget
  split
  · split
    · exact h.abandon _ _
    · exact h
  · split
    · exact (hq _).withGroups (cancelMember_only _ _)
    · split
      · exact h
      · exact h

theorem State.EnginesHold.decideRequest (h : s.EnginesHold) (rt : ReqTag) (request : Request) :
    (s.decideRequest rt request).EnginesHold := by
  cases request with
  | read ldn offset length => exact h.decideRead rt ldn offset length
  | write ldn offset data => exact h.decideWrite rt _ ldn offset _
  | writeConfirmed ldn offset data => exact h.decideConfirmed rt ldn offset data
  | timedWrite stamp group ldn offset data => exact h.decideTimedWrite rt stamp group ldn offset data
  | timedLatch stamp lines action width => exact h.decideTimedLatch rt stamp lines action width
  | cancel target =>
    have hp (r : Record) : (s.pushRecord r).EnginesHold := h
    exact (hp _).cancelTarget _
  | mgmtRead address words => exact h.mgmtRead rt address words
  | mgmtWrite bridgeNumber address words => exact h.mgmtWrite rt bridgeNumber address words
  | table command operand => exact h

theorem State.EnginesHold.decideFrame (h : s.EnginesHold) (f : Frame) : (s.decideFrame f).EnginesHold := by
  unfold State.decideFrame
  split
  · trivial
  · split
    · trivial
    · exact h.decideRequest _ _

theorem State.EnginesHold.takeHead (h : s.EnginesHold) {f : Frame} {rest : List Frame} (ht : s.takeHead f rest = some t) :
    t.EnginesHold := by
  have hs : ({ s with intake := rest } : State).EnginesHold := h
  have hd := hs.decideFrame f
  unfold State.takeHead at ht
  dsimp only at ht
  split at ht
  · rename_i u hu
    cases ht
    rw [hu] at hd
    exact hd
  · rename_i u hu
    split at ht
    · cases ht
      rw [hu] at hd
      exact hd
    · cases ht
  · split at ht
    · cases ht
      exact hs
    · cases ht

theorem State.EnginesHold.takeRow (h : s.EnginesHold) (row : Instr) : (s.takeRow row).EnginesHold := by
  unfold State.takeRow
  split
  · exact h
  · split
    · split
      · exact h
      · rename_i ht; exact (h.takeHead ht).endEvent
    · exact h

/-! ## The end of a send -/

theorem State.EnginesHold.splitSent (h : s.EnginesHold) (i : Fin 16) (n : Nat) (final : Bool) :
    (s.splitSent i n final).EnginesHold := by
  have hset (e : SplitEntry) : (s.setEntry i (some e)).EnginesHold := h
  unfold State.splitSent
  split
  · exact h
  · refine State.EnginesHold.freeIfDone (State.EnginesHold.roomFreed ?_) i
    split
    · exact hset _
    · exact (hset _).grantPass

theorem State.EnginesHold.endSend (h : s.EnginesHold) (f : InFlight) : (s.endSend f).EnginesHold := by
  have hidle : ({ s with sending := none } : State).EnginesHold := h
  unfold State.endSend
  dsimp only
  split
  · exact resetTo_enginesHold _ _ _ _ _ _
  · exact hidle
  · exact hidle
  · exact hidle.splitSent _ _ _

/-! ## Every command -/

/-- The engines hold their operations in the next state of an outcome, when it gives one. -/
def HoldingOutcome : Host.Outcome State Fault Refusal → Prop
  | .next t => t.EnginesHold
  | .fault _ => True
  | .refused _ => True

/-- A step that is taken under a condition, and changes nothing without it (log 1). -/
theorem State.EnginesHold.nextIf (h : s.EnginesHold) {p : Prop} [Decidable p] (ht : p → t.EnginesHold) :
    HoldingOutcome (.next (if p then t else s)) := by
  split
  · rename_i hp; exact ht hp
  · exact h

theorem State.EnginesHold.gapElapsed (h : s.EnginesHold) (b : Fin 4) : HoldingOutcome (execGapElapsed b s) := by
  unfold execGapElapsed
  split
  · exact h
  · rename_i ho
    exact h.nextIf fun _ => h.modBranch (holds_of_op (isSome_of_op ho) rfl)

theorem State.EnginesHold.pauseElapsed (h : s.EnginesHold) (b : Fin 4) : HoldingOutcome (execPauseElapsed b s) := by
  unfold execPauseElapsed
  split
  · exact h
  · rename_i o ho
    have hop : (s.branch b).endPause.op.isSome = true := isSome_of_op ho
    exact h.nextIf fun _ => h.modBranch (beginAttempt_holds hop o)

theorem State.EnginesHold.busStartSeen (h : s.EnginesHold) (b : Fin 4) (party : Party) :
    HoldingOutcome (execBusStartSeen b party s) := by
  cases party with
  | self => exact h.ownStart b
  | other => exact (h.otherStart b).endEvent

theorem State.EnginesHold.busStopSeen (h : s.EnginesHold) (b : Fin 4) (party : Party) :
    HoldingOutcome (execBusStopSeen b party s) := by
  cases party with
  | self => exact (h.ownStop b).endEvent
  | other => exact (h.otherStop b).endEvent

theorem State.EnginesHold.byteAck (h : s.EnginesHold) (b : Fin 4) : HoldingOutcome (execByteAck b s) := by
  unfold execByteAck
  split
  · exact h
  · rename_i o ho
    have hop := isSome_of_op ho
    have hsub : (s.modBranch b fun br => br.ackSubaddress o).EnginesHold := h.modBranch (ackSubaddress_holds (h.branch b) hop o)
    have hdata : (s.modBranch b fun br => br.ackData o).EnginesHold := h.modBranch (ackData_holds (h.branch b) hop o)
    split
    · exact (h.ackAddress hop).endEvent
    · exact (h.ackAddress hop).endEvent
    · exact (h.ackAddress hop).endEvent
    · exact hsub.endEvent
    · exact hdata.endEvent
    · exact h

/-- A NACK makes STOP in an engine that holds an operation (R97, R98). -/
theorem State.EnginesHold.nack (h : s.EnginesHold) (b : Fin 4) (phases : Prop) [Decidable phases] (f : Branch → Branch)
    (hf : ∀ br, (f br).op = br.op ∧ (f br).phase = .stop) :
    HoldingOutcome (.next (if (s.branch b).op.isSome ∧ phases then s.modBranch b f else s)) := by
  refine h.nextIf fun hp => h.modBranch (holds_of_op ?_ ?_)
  · rw [(hf _).1]
    exact hp.1
  · rw [(hf _).2]
    rfl

theorem State.EnginesHold.readByteReceived (h : s.EnginesHold) (b : Fin 4) (byte : Byte) :
    HoldingOutcome (execReadByteReceived b byte s) := by
  unfold execReadByteReceived
  split
  · exact h
  · rename_i ho
    split
    · exact h.nextIf fun _ => (h.receiveData (isSome_of_op ho) _ _ byte).endEvent
    · exact h

theorem State.EnginesHold.clockStuck (h : s.EnginesHold) (b : Fin 4) (held : Nat) :
    HoldingOutcome (execClockStuck b held s) := by
  have hs : (s.modBranch b fun br => { br with stretchCounter := held }).EnginesHold := h.keep rfl rfl
  exact h.nextIf fun _ => (hs.judgeClock b).endEvent

theorem State.EnginesHold.busClearEnd (h : s.EnginesHold) (b : Fin 4) (stopMade : Bool) :
    HoldingOutcome (execBusClearEnd b stopMade s) := by
  refine h.nextIf fun hclearing => State.EnginesHold.endEvent (h.modBranch (endClear_holds ?_ stopMade))
  exact (h.branch b).op_none (by rw [hclearing]; rfl)

theorem State.EnginesHold.busyLimitExceeded (h : s.EnginesHold) (b : Fin 4) :
    HoldingOutcome (execBusyLimitExceeded b s) := by
  have hs : (s.modBranch b fun x => { x with
    busyTimer := max x.busyTimer (x.busyLimit.toNat * 1000 + 1) }).EnginesHold := h.keep rfl rfl
  exact h.nextIf fun _ => (hs.judgeBusy b).endEvent

theorem State.EnginesHold.sendEnd (h : s.EnginesHold) : HoldingOutcome (execSendEnd s) := by
  unfold execSendEnd
  split
  · exact h
  · exact (h.endSend _).endEvent

theorem State.EnginesHold.stampAdvance (h : s.EnginesHold) : HoldingOutcome (execStampAdvance s) := by
  refine State.EnginesHold.endEvent (State.EnginesHold.markDue ?_)
  exact h

theorem State.EnginesHold.attentionTrigger (h : s.EnginesHold) (b : Fin 4) : HoldingOutcome (execAttentionTrigger b s) := by
  have ht := (h.modAttn b fun a => { a with line := false }).trigger b
  unfold execAttentionTrigger
  dsimp only [HoldingOutcome]
  split
  · exact ht
  · split
    · exact ht.wakeUp.endEvent
    · exact ht.endEvent

/-- Every command keeps the engines holding: the rows of Intake by what a frame can do, every other by its own meaning. -/
theorem State.EnginesHold.exec (h : s.EnginesHold) (c : Instr) : HoldingOutcome (exec c s) := by
  cases c with
  | frameArrival bytes => exact (h.receive bytes).endEvent
  | syncReceived => exact (h.receive _).endEvent
  | engineTakeOperation b => exact h.nextIf fun _ => (h.takeNext b).endEvent
  | gapElapsed b => exact h.gapElapsed b
  | busStartSeen b party => exact h.busStartSeen b party
  | busStopSeen b party => exact h.busStopSeen b party
  | arbitrationLoss b => exact (h.loseArbitration b).endEvent
  | addressNack b => exact h.nack b _ _ fun _ => ⟨rfl, rfl⟩
  | dataNack b => exact h.nack b _ _ fun _ => ⟨rfl, rfl⟩
  | byteAck b => exact h.byteAck b
  | readByteReceived b byte => exact h.readByteReceived b byte
  | pauseElapsed b => exact h.pauseElapsed b
  | clockStuck b held => exact h.clockStuck b held
  | busClearEnd b stopMade => exact h.busClearEnd b stopMade
  | busyLimitExceeded b => exact h.busyLimitExceeded b
  | runEnd b => exact h.nextIf fun _ => (h.ownStop b).endEvent
  | answerPosted b => exact h.nextIf fun _ => (h.postNext b).endEvent
  | deadlineExpiry place => exact h.nextIf fun _ => (h.expire place).endEvent
  | frameSendBegin => exact h.nextIf fun _ => h.beginFrame.endEvent
  | sendEnd => exact h.sendEnd
  | holdInAssert => exact h
  | holdInRelease => exact State.EnginesHold.endEvent (s := { s with holdIn := false }) h
  | stampAdvance => exact h.stampAdvance
  | releaseTimedWrite => exact h.releaseRow _
  | releaseBranchOff => exact h.releaseRow _
  | releaseTimedLatch => exact h.releaseRow _
  | offlineAbortAnswer => exact h.releaseRow _
  | pulseEnd line => exact h
  | attentionTrigger b => exact h.attentionTrigger b
  | attentionLineRise b => exact h
  | holdoffEnd b => exact h.nextIf fun _ => (h.endHoldoff b).endEvent
  | wakeTimeEnd =>
    have hw : ({ s with opState := .active, wakeTimer := 0 } : State).EnginesHold := h
    exact h.nextIf fun _ => hw.claims.endEvent
  | coldReset straps => exact resetTo_enginesHold _ _ _ _ _ _
  | _ => exact h.takeRow _

/-! ## Every step -/

theorem State.EnginesHold.tick (h : s.EnginesHold) : s.tick.EnginesHold := fun b => by
  have hb : s.tick.branch b = (s.branch b).tick := getElem_mapAll _ _ _ b.isLt
  rw [hb]
  exact h b

theorem State.EnginesHold.idle (h : s.EnginesHold) : HoldingOutcome (idle s) := by
  unfold Machine.idle
  split
  · rename_i hp; exact (h.pick hp).exec _
  · exact h.tick

theorem State.EnginesHold.step (h : s.EnginesHold) : HoldingOutcome (step s) := by
  have hs (q : List Instr) : ({ s with pending := q } : State).EnginesHold := h
  unfold Machine.step
  split
  · exact h.idle
  · exact (hs _).exec _

end

/-- Settles O57: an engine takes an operation with a phase that holds one, and drops it with one that holds none. -/
theorem enginesHoldTheirOperations : Obligations.EnginesHoldTheirOperations := by
  intro s t h ht
  have hs := h.step
  rwa [ht] at hs

end Sys2Proof.Machine
end

section
/-! SUPPORT. The bytes that an engine sends, the acknowledges that it gives and those that it gets. -/

namespace Sys2Proof.Machine

/-! ## The bytes of an address and of a subaddress (R92, R93) -/

theorem ofNat16_lowByte (n : Nat) : (BitVec.ofNat 16 n).extractLsb' 0 8 = BitVec.ofNat 8 n := by
  apply BitVec.eq_of_toNat_eq
  simp only [BitVec.extractLsb'_toNat, BitVec.toNat_ofNat, Nat.shiftRight_zero]
  omega

theorem ofNat16_highByte (n : Nat) : (BitVec.ofNat 16 n).extractLsb' 8 8 = BitVec.ofNat 8 (n / 256) := by
  apply BitVec.eq_of_toNat_eq
  simp only [BitVec.extractLsb'_toNat, BitVec.toNat_ofNat, Nat.shiftRight_eq_div_pow]
  omega

section
variable {br : Branch} {o : Operation}

theorem subaddress_one (h : o.width = 1) : o.subaddress = [BitVec.ofNat 8 o.offset] := by
  unfold Operation.subaddress bytes16
  rw [h, ofNat16_lowByte]
  rfl

theorem subaddress_two (h : o.width = 2) : o.subaddress = [BitVec.ofNat 8 (o.offset / 256), BitVec.ofNat 8 o.offset] := by
  unfold Operation.subaddress bytes16
  rw [h, ofNat16_lowByte, ofNat16_highByte]
  rfl

theorem sends_address (ho : br.op = some o) (h : br.phase = .address) :
    br.sends = some (o.addressByte br.progress.readDirection) := by
  unfold Branch.sends
  rw [ho, h]

theorem sends_subaddress (ho : br.op = some o) (h : br.phase = .subaddress) :
    br.sends = o.subaddress[br.progress.subaddressDone]? := by
  unfold Branch.sends
  rw [ho, h]

theorem sends_writeData (ho : br.op = some o) (h : br.phase = .writeData) : br.sends = o.data[br.progress.dataDone]? := by
  unfold Branch.sends
  rw [ho, h]

theorem sends_none (h : br.phase ∉ ([.address, .subaddress, .writeData] : List Phase)) : br.sends = none := by
  simp only [List.mem_cons, List.not_mem_nil, or_false, not_or] at h
  unfold Branch.sends
  split
  · rfl
  · split
    · exact absurd ‹_› h.1
    · exact absurd ‹_› h.2.1
    · exact absurd ‹_› h.2.2
    · rfl

theorem addressByte_eq (o : Operation) (reading : Bool) :
    o.addressByte reading = o.busAddress ++ (if reading then 1#1 else 0#1) := by
  cases reading <;> rfl

theorem makeStart_readDirection (br : Branch) (o : Operation) :
    (br.makeStart o).progress.readDirection = (o.isRead && decide (o.width = 0)) := rfl

/-- The engine gives ACK after each byte but the last, and NACK when told to end (R93, R103). -/
theorem givesAck_iff (n : Nat) : br.givesAck n = true ↔ br.told = none ∧ br.progress.dataDone + 1 < n := by
  unfold Branch.givesAck
  simp

end

/-! ## Acknowledges of the bytes sent -/

section
variable {s : State} {b : Fin 4} {o : Operation}

theorem exec_byteAck_address (ho : (s.branch b).op = some o)
    (hphase : (s.branch b).phase ∈ ([.start, .address, .restart] : List Phase)) :
    exec (.byteAck b) s = .next (s.ackAddress b o).endEvent := by
  show execByteAck b s = _
  unfold execByteAck
  rw [ho]
  simp only [List.mem_cons, List.not_mem_nil, or_false] at hphase
  rcases hphase with h | h | h <;> rw [h]

theorem exec_byteAck_subaddress (ho : (s.branch b).op = some o) (hphase : (s.branch b).phase = .subaddress) :
    exec (.byteAck b) s = .next (s.modBranch b fun br => br.ackSubaddress o).endEvent := by
  show execByteAck b s = _
  unfold execByteAck
  rw [ho, hphase]

theorem exec_byteAck_data (ho : (s.branch b).op = some o) (hphase : (s.branch b).phase = .writeData) :
    exec (.byteAck b) s = .next (s.modBranch b fun br => br.ackData o).endEvent := by
  show execByteAck b s = _
  unfold execByteAck
  rw [ho, hphase]

/-- A subaddress byte with others behind it (R92, R93). -/
theorem ackSubaddress_next {br : Branch} (htold : br.told = none) (hmore : br.progress.subaddressDone + 1 < o.width.val) :
    br.ackSubaddress o = { br with
      stretchCounter := 0, progress := { br.progress with subaddressDone := br.progress.subaddressDone + 1 } } := by
  unfold Branch.ackSubaddress
  dsimp only
  rw [htold]
  exact if_pos hmore

/-- Behind the last subaddress byte of a piece the engine makes its repeated START, for reading (R93). -/
theorem ackSubaddress_restart {br : Branch} (htold : br.told = none) (hread : o.isRead = true)
    (hlast : br.progress.subaddressDone + 1 = o.width.val) : br.ackSubaddress o = { br with
      phase := .restart, stretchCounter := 0
      progress := { br.progress with subaddressDone := br.progress.subaddressDone + 1, readDirection := true } } := by
  have hnomore : ¬ br.progress.subaddressDone + 1 < o.width.val := Nat.not_lt.2 hlast.ge
  unfold Branch.ackSubaddress
  dsimp only
  rw [htold, hread]
  exact if_neg hnomore

/-! ## The byte behind a byte of a piece -/

/-- Behind a byte received, the engine that was not told to end goes on as the acknowledge it gives says (R93, R94). -/
theorem receiveData_afterByte (htold : (s.branch b).told = none) (i : Fin 16) (n : Nat) (byte : Byte) :
    ∃ u : State, s.receiveData b o i n byte = u.afterByte b i o ((s.branch b).givesAck n) := by
  unfold State.receiveData
  dsimp only
  rw [htold]
  exact ⟨_, rfl⟩

theorem beginReadByte_phase (u : State) (b : Fin 4) (i : Fin 16) (o : Operation) :
    ((u.beginReadByte b i o).branch b).phase = .readData ∨ ((u.beginReadByte b i o).branch b).phase = .stall := by
  unfold State.beginReadByte
  dsimp only
  rw [branch_modBranch_same]
  dsimp only
  split
  · exact .inr rfl
  · exact .inl rfl

theorem afterByte_phase (u : State) (b : Fin 4) (i : Fin 16) (o : Operation) (ack : Bool) :
    (ack = false → ((u.afterByte b i o ack).branch b).phase = .stop) ∧
    (ack = true → ((u.afterByte b i o ack).branch b).phase = .readData ∨
      ((u.afterByte b i o ack).branch b).phase = .stall) := by
  cases ack with
  | false =>
    refine ⟨fun _ => ?_, nofun⟩
    exact (congrArg Branch.phase (branch_modBranch_same u b fun br => br.makeStop .done) :)
  | true => exact ⟨nofun, fun _ => beginReadByte_phase u b i o⟩

/-- After a NACK the engine makes STOP, and after an ACK it reads on or asks for room (R93, R94, R103). -/
theorem exec_readByte_phase {i : Fin 16} {n : Nat} {first : Bool} (ho : (s.branch b).op = some o)
    (hbody : o.body = .readPiece i n first) (hphase : (s.branch b).phase = .readData) (byte : Byte) :
    ∃ t, exec (.readByteReceived b byte) s = .next (State.endEvent t) ∧
      ((s.branch b).givesAck n = false → (t.branch b).phase = .stop) ∧
      ((s.branch b).givesAck n = true → (t.branch b).phase = .readData ∨ (t.branch b).phase = .stall) := by
  cases htold : (s.branch b).told with
  | none =>
    refine ⟨_, exec_readByte ho hbody hphase byte, ?_⟩
    obtain ⟨u, hu⟩ := receiveData_afterByte (o := o) htold i n byte
    rw [hu]
    exact afterByte_phase u b i o _
  | some cause =>
    obtain ⟨t, hexec, hstop, _⟩ := exec_readByte_told (byte := byte) ho htold hbody hphase
    refine ⟨t, hexec, fun _ => hstop, fun hack => ?_⟩
    cases (givesAck_iff n).1 hack |>.1.symm.trans htold

end

/-- Settles O36: the bytes by the engine's phase, the direction by its START, and the acknowledge behind each byte received. -/
theorem bytesOnTheBus : Obligations.BytesOnTheBus := by
  unfold Obligations.BytesOnTheBus
  refine ⟨fun br o ho => ⟨fun h => ?_, fun h hcall hwrite => ?_, fun h hwidth hdone => ?_, fun h hwidth hdone => ?_,
    fun h hwidth hdone => ?_, fun h => sends_writeData ho h, sends_none⟩, makeStart_readDirection, ?_,
    fun br n => givesAck_iff n, ?_⟩
  · rw [sends_address ho h, addressByte_eq]
  · rw [sends_address ho h, addressByte_eq, hcall, hwrite]
    rfl
  · rw [sends_subaddress ho h, subaddress_one hwidth, hdone]
    rfl
  · rw [sends_subaddress ho h, subaddress_two hwidth, hdone]
    rfl
  · rw [sends_subaddress ho h, subaddress_two hwidth, hdone]
    rfl
  · intro s b o ho hread htold hphase hlast
    refine ⟨_, exec_byteAck_subaddress ho hphase, ?_⟩
    rw [branch_modBranch_same, ackSubaddress_restart htold hread hlast]
    exact ⟨rfl, ho, rfl⟩
  · intro s b byte o i n first ho hbody hphase
    exact exec_readByte_phase ho hbody hphase byte

end Sys2Proof.Machine
end

section
/-! SUPPORT. What an acknowledge or a NACK of a byte sent does to the engine, for writes and for pieces. -/

namespace Sys2Proof.Machine

/-! ## The address byte (R92, R93) -/

/-- The engine with its address byte acknowledged (R92). -/
def Branch.addressDone (br : Branch) : Branch :=
  { br with stretchCounter := 0, progress := { br.progress with addressAcked := true } }

section
variable {s : State} {b : Fin 4} {o : Operation}

theorem ackAddress_write (htold : (s.branch b).told = none) (hdir : (s.branch b).progress.readDirection = false)
    (hwidth : o.width = 0) : s.ackAddress b o = s.modBranch b fun br => br.addressDone.toWriteData o := by
  unfold State.ackAddress
  dsimp only
  rw [htold, hdir, if_neg (by decide), if_neg (by decide), if_pos hwidth, modBranch_modBranch]
  rfl

/-- With a subaddress to send, its bytes follow the address byte (R92, R93). -/
theorem ackAddress_subaddress (htold : (s.branch b).told = none) (hdir : (s.branch b).progress.readDirection = false)
    (hwidth : o.width ≠ 0) :
    s.ackAddress b o = s.modBranch b fun br => { br.addressDone with phase := .subaddress } := by
  unfold State.ackAddress
  dsimp only
  rw [htold, hdir, if_neg (by decide), if_neg (by decide), if_neg hwidth, modBranch_modBranch]
  rfl

/-- The read address byte of a piece asks for room for the first data byte (R93, R94). -/
theorem ackAddress_read {i : Fin 16} {n : Nat} {first : Bool} (hbody : o.body = .readPiece i n first)
    (htold : (s.branch b).told = none) (hdir : (s.branch b).progress.readDirection = true) :
    s.ackAddress b o = (s.modBranch b Branch.addressDone).beginReadByte b i o := by
  unfold State.ackAddress
  dsimp only
  rw [htold, hdir, if_neg (by decide), if_pos rfl, hbody]
  rfl

/-! ## The data of a write (R92) -/

/-- A write of no data goes to STOP, any other to its first data byte (R92). -/
theorem toWriteData_eq {br : Branch} (hcounter : br.stretchCounter = 0) (o : Operation) : br.toWriteData o =
    if o.data = [] then { br with phase := .stop, stopReason := .done } else { br with phase := .writeData } := by
  unfold Branch.toWriteData
  cases o.data with
  | nil =>
    unfold Branch.makeStop
    rw [← hcounter]
    rfl
  | cons x xs => rfl

/-- Behind the last subaddress byte of a write its data follow (R92). -/
theorem ackSubaddress_toData {br : Branch} (htold : br.told = none) (hwrite : o.isRead = false)
    (hlast : ¬ br.progress.subaddressDone + 1 < o.width.val) : br.ackSubaddress o = Branch.toWriteData { br with
      stretchCounter := 0, progress := { br.progress with subaddressDone := br.progress.subaddressDone + 1 } } o := by
  unfold Branch.ackSubaddress
  dsimp only
  rw [htold, hwrite]
  exact if_neg hlast

theorem ackData_eq {br : Branch} (htold : br.told = none) (o : Operation) : br.ackData o =
    let acked := { br with stretchCounter := 0, progress := { br.progress with dataDone := br.progress.dataDone + 1 } }
    if br.progress.dataDone + 1 < o.data.length then acked else { acked with phase := .stop, stopReason := .done } := by
  unfold Branch.ackData
  dsimp only
  rw [htold]
  rfl

/-! ## Room for a data byte of a piece (R94) -/

theorem addressDone_occupancy (s : State) (b : Fin 4) : (s.modBranch b Branch.addressDone).occupancy = s.occupancy :=
  Nat.add_right_cancel (occupancy_modBranch s b Branch.addressDone)

/-- The engine behind its read address byte: what it asks for depends on whether its entry wants the byte, and on the room. -/
theorem beginReadByte_addressDone (s : State) (b : Fin 4) (i : Fin 16) (o : Operation) {wanted room : Bool}
    (hwanted : s.byteWanted i (o.offset + (s.branch b).progress.dataDone) = wanted)
    (hroom : decide (s.occupancy < 512) = room) :
    (s.modBranch b Branch.addressDone).beginReadByte b i o = s.modBranch b fun br =>
      { br with
        phase := if wanted && !room then .stall else .readData, stretchCounter := 0
        progress := { br.progress with addressAcked := true, reserved := wanted && room } } := by
  have hposition : (s.branch b).addressDone.progress.dataDone = (s.branch b).progress.dataDone := rfl
  have hentry (position : Nat) : (s.modBranch b Branch.addressDone).byteWanted i position = s.byteWanted i position := rfl
  unfold State.beginReadByte
  dsimp only
  rw [addressDone_occupancy, branch_modBranch_same, hposition, hentry, hwanted, modBranch_modBranch]
  refine modBranch_congr ?_
  rw [show decide (s.occupancy < Config.bufferBytes) = room from hroom]
  rfl

/-! ## NACKs (R97, R98) -/

theorem exec_addressNack (ho : (s.branch b).op = some o)
    (hphase : (s.branch b).phase ∈ ([.start, .address, .restart] : List Phase)) :
    exec (.addressNack b) s = .next (s.modBranch b fun br =>
      { br with
        phase := .stop, stopReason := .addressNack, stretchCounter := 0
        retryCount := br.retryCount + 1, lastCause := .addressNack }) := by
  simp only [List.mem_cons, List.not_mem_nil, or_false] at hphase
  exact congrArg Host.Outcome.next (if_pos ⟨isSome_of_op ho, hphase⟩)

theorem exec_dataNack (ho : (s.branch b).op = some o)
    (hphase : (s.branch b).phase = .subaddress ∨ (s.branch b).phase = .writeData) :
    exec (.dataNack b) s = .next (s.modBranch b fun br =>
      { br with phase := .stop, stopReason := .dataNack, stretchCounter := 0 }) :=
  congrArg Host.Outcome.next (if_pos ⟨isSome_of_op ho, hphase⟩)

theorem isRead_of_piece {i : Fin 16} {n : Nat} {first : Bool} (hbody : o.body = .readPiece i n first) : o.isRead = true := by
  unfold Operation.isRead
  rw [hbody]

end

/-- Two changes of a branch that agree on it end the event in the same way. -/
theorem next_modBranch_congr {s : State} {b : Fin 4} {f g : Branch → Branch} (h : f (s.branch b) = g (s.branch b)) :
    (.next (s.modBranch b f).endEvent : Host.Outcome State Fault Refusal) = .next (s.modBranch b g).endEvent := by
  rw [modBranch_congr h]

/-- Settles O39: the acknowledge by the byte that the engine sends, and the two NACKs. -/
theorem acksAndNacks : Obligations.AcksAndNacks := by
  unfold Obligations.AcksAndNacks
  refine ⟨fun s b o ho hwrite htold hdir => ⟨fun hphase => ?_, fun hphase => ?_, fun hphase => ?_⟩,
    fun s b o ho => ⟨exec_addressNack ho, exec_dataNack ho⟩⟩
  · rw [exec_byteAck_address ho hphase]
    by_cases hwidth : o.width = 0
    · rw [ackAddress_write htold hdir hwidth]
      refine next_modBranch_congr ?_
      rw [toWriteData_eq rfl]
      exact (if_pos hwidth).symm
    · rw [ackAddress_subaddress htold hdir hwidth]
      refine next_modBranch_congr ?_
      exact (if_neg hwidth).symm
  · rw [exec_byteAck_subaddress ho hphase]
    refine next_modBranch_congr ?_
    by_cases hmore : (s.branch b).progress.subaddressDone + 1 < o.width.val
    · rw [ackSubaddress_next htold hmore]
      exact (if_pos hmore).symm
    · rw [ackSubaddress_toData htold hwrite hmore, toWriteData_eq rfl]
      exact (if_neg hmore).symm
  · rw [exec_byteAck_data ho hphase]
    exact next_modBranch_congr (ackData_eq htold o)

/-- Settles O40: the subaddress bytes of a piece, its repeated START, and the room for its first data byte. -/
theorem readsAskForRoom : Obligations.ReadsAskForRoom := by
  intro s b o i n first ho hbody htold
  have hread := isRead_of_piece hbody
  refine ⟨fun hphase hdir hwidth => ?_, fun hphase hmore => ?_, fun hphase hlast => ?_, fun hphase hdir => ?_⟩
  · rw [exec_byteAck_address ho hphase, ackAddress_subaddress htold hdir hwidth]
    rfl
  · rw [exec_byteAck_subaddress ho hphase]
    exact next_modBranch_congr (ackSubaddress_next htold hmore)
  · rw [exec_byteAck_subaddress ho hphase]
    exact next_modBranch_congr (ackSubaddress_restart htold hread hlast)
  · intro ready e he hg
    rw [exec_byteAck_address ho hphase, ackAddress_read hbody htold hdir]
    refine ⟨fun hnext hroom => ?_, fun hnext hfull => ?_, fun hheld => ?_⟩
    · rw [beginReadByte_addressDone s b i o ((byteWanted_iff he _).2 ⟨hg, hnext⟩) (decide_eq_true hroom)]
      rfl
    · rw [beginReadByte_addressDone s b i o ((byteWanted_iff he _).2 ⟨hg, hnext⟩) (decide_eq_false (Nat.not_lt.2 hfull))]
      rfl
    · rw [beginReadByte_addressDone s b i o (wanted := false)
        (Bool.eq_false_iff.2 fun hw => hheld ((byteWanted_iff he _).1 hw).2) rfl]
      rfl

end Sys2Proof.Machine
end

section
/-! SUPPORT. Waiting for the bus: how an attempt begins, and what a START and a STOP on the lines do to the engine. -/

namespace Sys2Proof.Machine

/-! ## An attempt begins, or waits (R90, R91) -/

section
variable {br : Branch} {o : Operation}

theorem beginAttempt_busy (h : br.bus ≠ .free) (o : Operation) :
    br.beginAttempt o = { br with phase := .busyOther, progress := Progress.none } := if_neg h

theorem beginAttempt_gap (hfree : br.bus = .free) (hgap : br.gapTimer < br.gap.toNat) (o : Operation) :
    br.beginAttempt o = { br with phase := .gap, progress := Progress.none } :=
  (if_pos hfree).trans (if_neg (Nat.not_le.2 hgap))

theorem beginAttempt_starts (hfree : br.bus = .free) (hgap : br.gap.toNat ≤ br.gapTimer) (o : Operation) :
    br.beginAttempt o = br.makeStart o := (if_pos hfree).trans (if_pos hgap)

theorem beginAttempt_keeps (br : Branch) (o : Operation) : (br.beginAttempt o).op = br.op ∧
    (br.beginAttempt o).retryCount = br.retryCount ∧ (br.beginAttempt o).gapTimer = br.gapTimer ∧
    (br.beginAttempt o).queue = br.queue ∧ (br.beginAttempt o).lastCause = br.lastCause := by
  unfold Branch.beginAttempt
  split
  · split
    · exact ⟨rfl, rfl, rfl, rfl, rfl⟩
    · exact ⟨rfl, rfl, rfl, rfl, rfl⟩
  · exact ⟨rfl, rfl, rfl, rfl, rfl⟩

/-- Behind a STOP the gap runs from 0, so that an attempt waits for it unless GAP is 0 (R90, R91). -/
theorem beginAttempt_seeStop_gap (h : br.gap ≠ 0) (o : Operation) :
    br.seeStop.beginAttempt o = { br.seeStop with phase := .gap, progress := Progress.none } :=
  beginAttempt_gap (br := br.seeStop) rfl (Nat.pos_of_ne_zero fun h0 => h (BitVec.eq_of_toNat_eq h0)) o

theorem beginAttempt_seeStop_starts (h : br.gap = 0) (o : Operation) : br.seeStop.beginAttempt o = br.seeStop.makeStart o :=
  beginAttempt_starts (br := br.seeStop) rfl (Nat.le_of_eq (congrArg BitVec.toNat h)) o

theorem beginPause_waits (h : br.retryPause ≠ 0) (o : Operation) : br.beginPause o =
    { br with phase := .pause, pauseTimer := 0, pauseLength := br.retryPause.toNat * 16, progress := Progress.none } := if_neg h

theorem beginPause_attempts (h : br.retryPause = 0) (o : Operation) : br.beginPause o = br.beginAttempt o := if_pos h

/-! ## Another party on the bus (R89, R95) -/

theorem seeOther_takes (h : br.bus ≠ .busyOther) :
    br.seeOther = { br with bus := .busyOther, busyTimer := 0, busyFlagged := false } := if_neg h

/-- An address NACK with retries left ends no run (R97). -/
theorem nackEnds_eq_false {k : Nat} (hcount : k ≤ o.retryLimit.val)
    (hpersist : o.persist = true ∨ ∀ i n first, o.body = .readPiece i n first → first = true) : o.nackEnds k = false := by
  unfold Operation.nackEnds
  rw [decide_eq_false (Nat.not_lt.2 hcount), Bool.or_false]
  split
  · rename_i i n first hbody
    rcases hpersist with h | h
    · rw [h]
      exact Bool.and_false _
    · rw [h i n first hbody]
      rfl
  · rfl

end

/-! ## The steps -/

section
variable {s : State} {b : Fin 4} {o : Operation}

theorem exec_gapElapsed (ho : (s.branch b).op = some o) (hphase : (s.branch b).phase = .gap) :
    exec (.gapElapsed b) s =
      .next (s.modBranch b fun br => Branch.makeStart { br with gapTimer := max br.gapTimer br.gap.toNat } o) := by
  show execGapElapsed b s = _
  unfold execGapElapsed
  rw [ho]
  exact congrArg Host.Outcome.next (if_pos hphase)

theorem exec_pauseElapsed (ho : (s.branch b).op = some o) (hphase : (s.branch b).phase = .pause) :
    exec (.pauseElapsed b) s = .next (s.modBranch b fun br => br.endPause.beginAttempt o) := by
  show execPauseElapsed b s = _
  unfold execPauseElapsed
  rw [ho]
  exact congrArg Host.Outcome.next (if_pos hphase)

/-- No arbitration is lost by an engine that runs no transfer (R95). -/
theorem loseArbitration_off (h : (s.branch b).op = none ∨ (s.branch b).phase.transfers = false) : s.loseArbitration b = s := by
  unfold State.loseArbitration
  dsimp only
  split
  · rfl
  · rename_i o ho
    rcases h with h | h
    · exact absurd (h.symm.trans ho) nofun
    · rw [h]
      rfl

theorem otherStart_watched (hphase : (s.branch b).phase ∈ ([.idle, .posting, .disabled, .pause, .clearing] : List Phase))
    (hbus : (s.branch b).bus = .free) : s.otherStart b = s.modBranch b fun br =>
      { br with bus := .busyOther, busyTimer := 0, busyFlagged := false, stretchCounter := 0 } := by
  have hoff : ¬ ((s.branch b).phase = .gap ∨ (s.branch b).phase = .start) ∧ ¬ (s.branch b).phase.transfers = true ∧
      (s.branch b).phase ≠ .stall := by
    generalize (s.branch b).phase = p at hphase
    revert p
    decide
  obtain ⟨hwaits, htransfers, hstall⟩ := hoff
  unfold State.otherStart
  dsimp only
  rw [if_neg hwaits, if_neg htransfers, if_neg hstall]
  refine modBranch_congr ?_
  rw [if_pos hbus, seeOther_takes (by rw [hbus]; decide)]

/-- An engine that is about to START, or waits for the gap, waits behind the other party's (R90; log 12). -/
theorem otherStart_waits (hphase : (s.branch b).phase = .gap ∨ (s.branch b).phase = .start)
    (hbus : (s.branch b).bus ≠ .busyOther) : s.otherStart b = s.modBranch b fun br =>
      { br with
        bus := .busyOther, busyTimer := 0, busyFlagged := false, phase := .busyOther, progress := Progress.none
        stretchCounter := 0 } := by
  unfold State.otherStart
  dsimp only
  rw [if_pos hphase]
  refine modBranch_congr ?_
  rw [seeOther_takes hbus]

/-- A STOP that ends no transfer of the engine frees the bus, and an operation in BUSY_OTHER goes on (R89, R90). -/
theorem otherStop_frees (hoff : (s.branch b).op = none ∨ (s.branch b).phase.transfers = false)
    (hstall : (s.branch b).phase ≠ .stall) :
    s.otherStop b = (s.modBranch b Branch.seeStop).leaveBusyOther b := by
  unfold State.otherStop
  rw [if_neg hstall, loseArbitration_off hoff]

theorem leaveBusyOther_none (h : (s.branch b).op = none) : s.leaveBusyOther b = s := by
  unfold State.leaveBusyOther
  rw [h]

theorem otherStop_busyOther (ho : (s.branch b).op = some o) (hphase : (s.branch b).phase = .busyOther) :
    s.otherStop b = s.modBranch b fun br => br.seeStop.beginAttempt o := by
  rw [otherStop_frees (.inr (by rw [hphase]; rfl)) (by rw [hphase]; decide)]
  unfold State.leaveBusyOther
  rw [branch_modBranch_same]
  have hop : (s.branch b).seeStop.op = some o := ho
  have hstill : (s.branch b).seeStop.phase = .busyOther := hphase
  rw [hop]
  dsimp only
  rw [if_pos hstill, modBranch_modBranch]

/-- The STOP behind an address NACK with retries left begins the retry pause (R97). -/
theorem ownStop_pause (ho : (s.branch b).op = some o) (hphase : (s.branch b).phase = .stop) (htold : (s.branch b).told = none)
    (hreason : (s.branch b).stopReason = .addressNack) (hgoes : o.nackEnds (s.branch b).retryCount = false) :
    s.ownStop b = s.modBranch b fun br => br.seeStop.beginPause o := by
  unfold State.ownStop
  dsimp only
  rw [ho]
  dsimp only
  rw [if_pos hphase, htold, hreason]
  dsimp only
  rw [hgoes, if_neg (by decide), modBranch_modBranch]

end

/-- Settles O37: the two waits that elapse, then a START and a STOP by each party. -/
theorem waitsForTheBus : Obligations.WaitsForTheBus := by
  intro s b freed started
  refine ⟨fun o ho hphase => exec_gapElapsed ho hphase, fun o ho hphase => ?_,
    fun hphase => congrArg Host.Outcome.next (if_pos hphase),
    fun hphase hbus => congrArg (fun t : State => Host.Outcome.next t.endEvent) (otherStart_watched hphase hbus),
    fun hphase hbus => congrArg (fun t : State => Host.Outcome.next t.endEvent) (otherStart_waits hphase hbus),
    fun hnone hstall => ?_, fun o ho hphase => ?_, fun o ho hphase htold hreason hcount hpersist => ?_⟩
  · -- PAUSE_ELAPSED
    obtain ⟨hop, hcount, htimer, _⟩ := beginAttempt_keeps (s.branch b).endPause o
    refine ⟨_, exec_pauseElapsed ho hphase, ?_, ?_, fun hbus => ?_, fun hfree => ?_,
      fun c hc => branch_modBranch_ne _ _ _ _ hc, rfl⟩
    · rw [branch_modBranch_same, hop]
      exact ho
    · rw [branch_modBranch_same, hcount]
      rfl
    · rw [branch_modBranch_same, beginAttempt_busy (br := (s.branch b).endPause) hbus]
    · rw [branch_modBranch_same, htimer]
      refine ⟨if_pos hfree, fun hgap => ?_, fun hgap => ?_⟩
      · rw [beginAttempt_starts (br := (s.branch b).endPause) hfree hgap]
        exact ⟨rfl, rfl⟩
      · rw [beginAttempt_gap (br := (s.branch b).endPause) hfree hgap]
  · -- a STOP seen by an engine without an operation
    have hstop : s.otherStop b = s.modBranch b freed := by
      rw [otherStop_frees (.inl hnone) hstall]
      exact leaveBusyOther_none (by rw [branch_modBranch_same]; exact hnone)
    exact congrArg (fun t : State => Host.Outcome.next t.endEvent) hstop
  · -- a STOP that an operation in BUSY_OTHER has waited for
    refine ⟨fun hgap => ?_, fun hgap => ?_⟩
    · refine congrArg (fun t : State => Host.Outcome.next t.endEvent) ((otherStop_busyOther ho hphase).trans ?_)
      exact modBranch_congr (beginAttempt_seeStop_gap hgap o)
    · refine congrArg (fun t : State => Host.Outcome.next t.endEvent) ((otherStop_busyOther ho hphase).trans ?_)
      exact modBranch_congr (beginAttempt_seeStop_starts hgap o)
  · -- the engine's own STOP behind an address NACK
    have hstop := ownStop_pause ho hphase htold hreason (nackEnds_eq_false hcount hpersist)
    have hexec {f : Branch → Branch} (hf : (s.branch b).seeStop.beginPause o = f (s.branch b)) :
        exec (.busStopSeen b .self) s = .next (s.modBranch b f).endEvent :=
      congrArg (fun t : State => Host.Outcome.next t.endEvent) (hstop.trans (modBranch_congr hf))
    refine ⟨fun hpause => hexec (beginPause_waits (br := (s.branch b).seeStop) hpause o), fun hpause hgap => hexec ?_,
      fun hpause hgap => hexec ?_⟩
    · exact (beginPause_attempts (br := (s.branch b).seeStop) hpause o).trans (beginAttempt_seeStop_gap hgap o)
    · exact (beginPause_attempts (br := (s.branch b).seeStop) hpause o).trans (beginAttempt_seeStop_starts hgap o)

end Sys2Proof.Machine
end

section
/-! SUPPORT. The end of a run in full: the engine and the other branches behind it, and what the outcome of a write reaches. -/

namespace Sys2Proof.Machine

/-! ## The branches behind a run's end (R104) -/

section
variable {s : State} {b c : Fin 4} {o : Operation} {status : Status} {stuck : Bool}

theorem afterRun_phase_ne_stall (br : Branch) (stuck : Bool) : (br.afterRun stuck).phase ≠ .stall := by
  unfold Branch.afterRun Branch.settle
  split
  · nofun
  · dsimp only
    split <;> nofun

/-- The engine goes on as the outcome has left its answer list; the room that the end frees is not for it. -/
theorem endRun_mine (ho : (s.branch b).op = some o) :
    (s.endRun b status stuck).branch b = ((s.handedOn b o status).branch b).afterRun stuck := by
  rw [endRun_eq ho, roomFreed_branch_unstalled _ (by rw [branch_modBranch_same]; exact afterRun_phase_ne_stall _ _),
    branch_modBranch_same]

theorem addAnswer_branch_ne (s : State) (r : Record) (h : c ≠ b) : (s.addAnswer b r).branch c = s.branch c := by
  unfold State.addAnswer
  split
  · rfl
  · exact branch_modBranch_ne _ _ _ _ h

theorem recordFault_branch (s : State) (b : Fin 4) (o : Operation) (status : Status) (c : Fin 4) :
    (s.recordFault b o status).branch c = s.branch c :=
  (congrArg (fun t : State => t.branch c) (recordFault_only s b o status) :)

theorem handOn_others (s : State) (o : Operation) (status : Status) (n : Nat) (h : c ≠ b) :
    ((s.handOn b o status n).branch c).ungranted = (s.branch c).ungranted := by
  unfold State.handOn
  split
  · exact pieceEnd_ungranted s _ o _ _ status c
  · split
    · rfl
    · rw [recordFault_branch]
  · rw [addAnswer_branch_ne _ _ h]
  · dsimp only
    split
    · rw [addAnswer_branch_ne _ _ h]
    · rw [reportMember_branch, addAnswer_branch_ne _ _ h]

theorem endRun_others (ho : (s.branch b).op = some o) (h : c ≠ b) :
    ((s.endRun b status stuck).branch c).unstalled = (s.branch c).unstalled := by
  rw [endRun_eq ho, roomFreed_unstalled, branch_modBranch_ne _ _ _ _ h]
  refine (unstalled_of_ungranted (handOn_others _ o status _ h)).trans ?_
  rw [branch_modBranch_ne _ _ _ _ h]

/-! ## The answer of a write (R78, R80, R81) -/

theorem addAnswer_posted {r : Record} (h : (s.branch b).answers = [] ∧ s.responseQueue.length < 16) :
    s.addAnswer b r = s.pushRecord r := by
  refine if_pos ?_
  rw [h.1, (recordRoom_iff s).2 h.2]
  rfl

theorem addAnswer_listed {r : Record} (h : (s.branch b).answers ≠ [] ∨ 16 ≤ s.responseQueue.length) :
    s.addAnswer b r = s.modBranch b fun br =>
      { br with answers := br.answers ++ [r], phase := if br.phase = .idle then .posting else br.phase } := by
  refine if_neg fun hposted => ?_
  obtain ⟨hempty, hroom⟩ := Bool.and_eq_true_iff.1 hposted
  rcases h with h | h
  · exact h (List.isEmpty_iff.1 hempty)
  · exact Nat.not_lt.2 h ((recordRoom_iff s).1 hroom)

/-- An answer reaches the list alone of an engine that is not IDLE (R80). -/
theorem addAnswer_engine (s : State) (b : Fin 4) (r : Record) (h : (s.branch b).phase ≠ .idle) :
    ∃ answers, (s.addAnswer b r).branch b = { s.branch b with answers := answers } := by
  unfold State.addAnswer
  split
  · exact ⟨_, rfl⟩
  · refine ⟨(s.branch b).answers ++ [r], ?_⟩
    rw [branch_modBranch_same, if_neg h]

/-! ## The outcome of a write, kind by kind (R76, R78, R79) -/

theorem handOn_posted_kept {data : List Byte} (hbody : o.body = .posted data) (h : status = .ok ∨ status = .aborted)
    (s : State) (b : Fin 4) (n : Nat) : s.handOn b o status n = s := by
  unfold State.handOn
  rw [hbody]
  exact if_pos h

theorem handOn_posted_fault {data : List Byte} (hbody : o.body = .posted data) (h : ¬ (status = .ok ∨ status = .aborted))
    (s : State) (b : Fin 4) (n : Nat) : s.handOn b o status n = s.recordFault b o status := by
  unfold State.handOn
  rw [hbody]
  exact if_neg h

theorem handOn_confirmed {rt : ReqTag} {data : List Byte} (hbody : o.body = .confirmed rt data) (s : State) (b : Fin 4)
    (n : Nat) : s.handOn b o status n = s.addAnswer b (completion rt status (answerOffset o status n)) := by
  unfold State.handOn
  rw [hbody]

theorem handOn_timed {rt : ReqTag} {data : List Byte} {member : Option (Fin 7 × Byte)}
    (hbody : o.body = .timed rt data member) (h : status ≠ .aborted) (s : State) (b : Fin 4) (n : Nat) :
    s.handOn b o status n =
      (s.addAnswer b (completion rt status (answerOffset o status n))).reportMember member (decide (status = .ok)) := by
  unfold State.handOn
  rw [hbody]
  exact if_neg h

/-- What the outcome of a write with a tag does to the branches and to the Response Queue is its answer (R78). -/
theorem handOn_tagged {rt : ReqTag} (htag : o.tag? = some rt) (s : State) (b : Fin 4) (status : Status) (n : Nat) :
    (s.handOn b o status n).responseQueue =
      (s.addAnswer b (completion rt status (answerOffset o status n))).responseQueue ∧
    ∀ c, (s.handOn b o status n).branch c = (s.addAnswer b (completion rt status (answerOffset o status n))).branch c := by
  unfold Operation.tag? at htag
  unfold State.handOn
  split at htag
  · rename_i hbody
    cases htag
    rw [hbody]
    exact ⟨rfl, fun _ => rfl⟩
  · rename_i hbody
    cases htag
    rw [hbody]
    dsimp only
    split
    · exact ⟨rfl, fun _ => rfl⟩
    · exact ⟨reportMember_responseQueue _ _ _, reportMember_branch _ _ _⟩
  · cases htag
  · cases htag

/-- State t, but with the fields of s that the outcome of a write can reach. -/
def State.withOutcome (t s : State) : State :=
  { t.withGroups s with branches := s.branches, responseQueue := s.responseQueue, fault := s.fault }

theorem handOn_write_only (hwrite : o.isRead = false) (s : State) (b : Fin 4) (status : Status) (n : Nat) :
    (s.handOn b o status n).withOutcome s = s := by
  have hanswer (r : Record) : (s.addAnswer b r).withOutcome s = s :=
    lift (fun t : State => { t.withGroups s with fault := s.fault }) (addAnswer_only s b r) rfl rfl
  unfold State.handOn
  split
  · rename_i hbody
    exact absurd ((isRead_of_piece hbody).symm.trans hwrite) nofun
  · split
    · rfl
    · exact lift (fun t : State => { t with
        groups := s.groups, lines := s.lines, branches := s.branches, responseQueue := s.responseQueue })
        (recordFault_only s b o status) rfl rfl
  · exact hanswer _
  · dsimp only
    split
    · exact hanswer _
    · exact lift (fun t : State => { t with
        branches := s.branches, responseQueue := s.responseQueue, fault := s.fault, groups := s.groups, lines := s.lines
        flags := s.flags, noticeArm := s.noticeArm, noticePending := s.noticePending })
        (reportMember_only (s.addAnswer b _) _ _) rfl (hanswer _)

theorem handOn_write_engine (hwrite : o.isRead = false) (s : State) (b : Fin 4) (status : Status) (n : Nat)
    (h : (s.branch b).phase ≠ .idle) : ∃ answers, (s.handOn b o status n).branch b = { s.branch b with answers := answers } := by
  unfold State.handOn
  split
  · rename_i hbody
    exact absurd ((isRead_of_piece hbody).symm.trans hwrite) nofun
  · split
    · exact ⟨_, rfl⟩
    · exact ⟨_, recordFault_branch s b o status b⟩
  · exact addAnswer_engine s b _ h
  · dsimp only
    split
    · exact addAnswer_engine s b _ h
    · rw [reportMember_branch]
      exact addAnswer_engine s b _ h

/-! ## The fault record (R76, R77) -/

theorem recordFault_fault (s : State) (b : Fin 4) (o : Operation) (status : Status) :
    (s.fault = none → (s.recordFault b o status).fault = some ⟨b, o.busAddress, o.ldn, o.offset, status, false⟩) ∧
    (∀ r, s.fault = some r → (s.recordFault b o status).fault = some { r with more := true }) := by
  have hset (f : FaultRecord) : (({ s with fault := some f } : State).setFlag .writeFailed).fault = some f :=
    (congrArg State.fault (setFlag_only { s with fault := some f } .writeFailed) :)
  unfold State.recordFault
  refine ⟨fun h => ?_, fun r h => ?_⟩
  · rw [h]
    exact hset _
  · rw [h]
    exact hset _

/-! ## The report of a member (R150) -/

theorem setFlag_withAnswers (s : State) (f : EventFlag) (x : Vector Branch 4) (q : List Record) :
    ({ s with branches := x, responseQueue := q } : State).setFlag f =
      { s.setFlag f with branches := x, responseQueue := q } := by
  unfold State.setFlag State.raiseNotice State.flag
  dsimp only
  split
  · rfl
  · split
    · split <;> rfl
    · rfl

theorem fireIfComplete_withAnswers (s : State) (g : Fin 7) (x : Vector Branch 4) (q : List Record) :
    ({ s with branches := x, responseQueue := q } : State).fireIfComplete g =
      { s.fireIfComplete g with branches := x, responseQueue := q } := by
  have hgroup : ({ s with branches := x, responseQueue := q } : State).group g = s.group g := rfl
  unfold State.fireIfComplete
  dsimp only
  rw [hgroup]
  split
  · split
    · rfl
    · exact setFlag_withAnswers (s.modGroup g fun y => { y with state := .idle }) .groupFailed x q
  · rfl

/-- The report of a member looks neither at the branches nor at the Response Queue. -/
theorem reportMember_withAnswers (s : State) (member : Option (Fin 7 × Byte)) (ok : Bool) (x : Vector Branch 4)
    (q : List Record) : ({ s with branches := x, responseQueue := q } : State).reportMember member ok =
      { s.reportMember member ok with branches := x, responseQueue := q } := by
  cases member with
  | none => rfl
  | some m =>
    obtain ⟨g, generation⟩ := m
    have hgroup : ({ s with branches := x, responseQueue := q } : State).group g = s.group g := rfl
    unfold State.reportMember State.memberReport
    dsimp only
    rw [hgroup]
    split
    · exact fireIfComplete_withAnswers
        (s.modGroup g fun y => if ok then { y with done := y.done + 1 } else { y with failed := y.failed + 1 }) g x q
    · rfl

/-- A member's outcome is counted by a group that still collects, which does not fire (R150, R152). -/
theorem reportMember_collecting {g : Fin 7} (hstate : (s.group g).state = .collecting)
    (hopen : (s.group g).done + (s.group g).failed < (s.group g).members) (ok : Bool) :
    (s.reportMember (some (g, (s.group g).generation)) ok).group g =
      if ok then { s.group g with done := (s.group g).done + 1 } else { s.group g with failed := (s.group g).failed + 1 } := by
  have hcounts : (s.group g).counts (s.group g).generation = true :=
    decide_eq_true ⟨by rw [hstate]; decide, rfl, hopen⟩
  unfold State.reportMember State.memberReport
  dsimp only
  rw [if_pos hcounts]
  unfold State.fireIfComplete
  dsimp only
  rw [group_modGroup_same, if_neg, group_modGroup_same]
  rintro ⟨harmed, _⟩
  cases ok with
  | false => exact absurd (hstate.symm.trans harmed) nofun
  | true => exact absurd (hstate.symm.trans harmed) nofun

/-- The groups, lines and flags behind the outcome of a timed write are those of its report (R79). -/
theorem handOn_timed_report {rt : ReqTag} {data : List Byte} {member : Option (Fin 7 × Byte)}
    (hbody : o.body = .timed rt data member) (h : status ≠ .aborted) (s : State) (b : Fin 4) (n : Nat) :
    (s.handOn b o status n).groups = (s.reportMember member (decide (status = .ok))).groups ∧
      (s.handOn b o status n).lines = (s.reportMember member (decide (status = .ok))).lines ∧
      (s.handOn b o status n).flags = (s.reportMember member (decide (status = .ok))).flags := by
  rw [handOn_timed hbody h]
  set r := completion rt status (answerOffset o status n)
  have hanswered : s.addAnswer b r =
      { s with branches := (s.addAnswer b r).branches, responseQueue := (s.addAnswer b r).responseQueue } :=
    congrArg (fun t : State => { t with
      branches := (s.addAnswer b r).branches, responseQueue := (s.addAnswer b r).responseQueue }) (addAnswer_only s b r)
  rw [hanswered, reportMember_withAnswers]
  exact ⟨rfl, rfl, rfl⟩

end

end Sys2Proof.Machine
end

section
/-! SUPPORT. What the end of a run hands on: the engine, the answer and the fault record of a write, and the entry of a piece. -/

namespace Sys2Proof.Machine

/-! ## The engine behind a run (R104, R108) -/

theorem afterRun_eq (br : Branch) (stuck : Bool) : ∃ rate counter, br.afterRun stuck =
    { br with
      phase := if br.resetting || stuck then .clearing else if br.answers = [] then .idle else .posting
      rateInUse := rate, stretchCounter := counter } := by
  unfold Branch.afterRun
  split
  · exact ⟨_, _, rfl⟩
  · refine ⟨br.rateInUse, br.stretchCounter, ?_⟩
    unfold Branch.settle
    cases br.answers <;> rfl

section
variable {u : State} {b : Fin 4} {o : Operation} {status : Status} {stuck : Bool}

/-- The engine of a write's branch has dropped the write, and goes on by RESETTING, a stuck clock and its answer list. -/
theorem endRun_write_engine (ho : (u.branch b).op = some o) (hwrite : o.isRead = false) :
    ∃ answers rate counter, (u.endRun b status stuck).branch b = { (u.branch b).dropOp with
      answers := answers
      phase := if (u.branch b).resetting || stuck then .clearing else if answers = [] then .idle else .posting
      rateInUse := rate, stretchCounter := counter } := by
  have hbusy : ((u.modBranch b Branch.dropOp).branch b).phase ≠ .idle := by
    rw [branch_modBranch_same]
    nofun
  obtain ⟨answers, hanswers⟩ := handOn_write_engine hwrite (u.modBranch b Branch.dropOp) b status
    (u.branch b).progress.dataDone hbusy
  rw [branch_modBranch_same] at hanswers
  obtain ⟨rate, counter, hafter⟩ := afterRun_eq { (u.branch b).dropOp with answers := answers } stuck
  refine ⟨answers, rate, counter, ?_⟩
  rw [endRun_mine ho]
  unfold State.handedOn
  rw [hanswers]
  exact hafter

/-- The end of a write's run reaches its outcome and the branches alone. -/
theorem endRun_write_only (ho : (u.branch b).op = some o) (hwrite : o.isRead = false) :
    { (u.endRun b status stuck).withOutcome u with freeCount := u.freeCount } = u := by
  have hhanded : (u.handedOn b o status).withOutcome u = u :=
    lift (fun t : State => { t with branches := u.branches })
      (handOn_write_only hwrite (u.modBranch b Branch.dropOp) b status (u.branch b).progress.dataDone) rfl rfl
  have hfree : (u.handedOn b o status).freeCount = u.freeCount := (congrArg State.freeCount hhanded :)
  exact lift (fun t : State => { t.withOutcome u with freeCount := u.freeCount }) (endRun_handedOn ho) rfl
    ((congrArg (fun t : State => { t with freeCount := u.freeCount }) hhanded :))

/-! ## The answer (R78, R80, R81) -/

/-- A confirmed or timed write is answered: in the Response Queue when that has room and the list is empty, else in the list. -/
theorem endRun_answer (ho : (u.branch b).op = some o) {rt : ReqTag} (htag : o.tag? = some rt) :
    ((u.branch b).answers = [] ∧ u.responseQueue.length < 16 →
      (u.endRun b status stuck).responseQueue = u.responseQueue ++
        [completion rt status (answerOffset o status (u.branch b).progress.dataDone)] ∧
      ((u.endRun b status stuck).branch b).answers = []) ∧
    ((u.branch b).answers ≠ [] ∨ 16 ≤ u.responseQueue.length →
      (u.endRun b status stuck).responseQueue = u.responseQueue ∧
      ((u.endRun b status stuck).branch b).answers = (u.branch b).answers ++
        [completion rt status (answerOffset o status (u.branch b).progress.dataDone)]) := by
  obtain ⟨hrecords, hbranch⟩ := handOn_tagged htag (u.modBranch b Branch.dropOp) b status (u.branch b).progress.dataDone
  have hqueue : (u.endRun b status stuck).responseQueue = _ :=
    (congrArg State.responseQueue (endRun_handedOn ho) :).trans hrecords
  have hlist := (congrArg Branch.answers (endRun_mine (status := status) (stuck := stuck) ho)).trans
    (((afterRun_keeps _ stuck).2.2.2).trans (congrArg Branch.answers (hbranch b)))
  have hdropped : ((u.modBranch b Branch.dropOp).branch b).answers = (u.branch b).answers := by
    rw [branch_modBranch_same]
    rfl
  rw [hqueue, hlist]
  refine ⟨fun h => ?_, fun h => ?_⟩
  · rw [addAnswer_posted (by rw [hdropped]; exact h), branch_pushRecord, hdropped]
    exact ⟨rfl, h.1⟩
  · rw [addAnswer_listed (by rw [hdropped]; exact h), branch_modBranch_same, hdropped]
    exact ⟨rfl, rfl⟩

theorem endRun_answered (ho : (u.branch b).op = some o) {rt : ReqTag} (htag : o.tag? = some rt) :
    (u.endRun b status stuck).HasRecord b
      (completion rt status (answerOffset o status (u.branch b).progress.dataDone)) := by
  obtain ⟨hposted, hlisted⟩ := endRun_answer (status := status) (stuck := stuck) ho htag
  unfold State.HasRecord
  by_cases h : (u.branch b).answers = [] ∧ u.responseQueue.length < 16
  · obtain ⟨hqueue, hlist⟩ := hposted h
    rw [hqueue, hlist]
    simp
  · obtain ⟨hqueue, hlist⟩ := hlisted (by rw [not_and_or] at h; exact h.imp id Nat.le_of_not_lt)
    rw [hqueue, hlist]
    simp

/-! ## The fault record and the groups (R76, R77, R79) -/

/-- State t comes of state u by the outcome of posted write o: handed to the fault record, with WRITE_FAILED, when it failed. -/
structure PostedEnded (u : State) (b : Fin 4) (o : Operation) (status : Status) (t : State) : Prop where
  records : t.responseQueue = u.responseQueue
  groups : t.groups = u.groups
  kept : status = .ok ∨ status = .aborted → t.fault = u.fault ∧ t.flags = u.flags
  failed : ¬ (status = .ok ∨ status = .aborted) → t.flag .writeFailed = true ∧
    (u.fault = none → t.fault = some ⟨b, o.busAddress, o.ldn, o.offset, status, false⟩) ∧
    (∀ r, u.fault = some r → t.fault = some { r with more := true })

theorem endRun_posted (ho : (u.branch b).op = some o) {data : List Byte} (hbody : o.body = .posted data) :
    PostedEnded u b o status (u.endRun b status stuck) := by
  have hhanded := endRun_handedOn (status := status) (stuck := stuck) ho
  have hrecords := (congrArg State.responseQueue hhanded :)
  have hgroups := (congrArg State.groups hhanded :)
  have hfault := (congrArg State.fault hhanded :)
  have hflags := (congrArg State.flags hhanded :)
  by_cases h : status = .ok ∨ status = .aborted
  · have hsame : u.handedOn b o status = u.modBranch b Branch.dropOp := handOn_posted_kept hbody h _ b _
    rw [hsame] at hrecords hgroups hfault hflags
    exact ⟨hrecords, hgroups, fun _ => ⟨hfault, hflags⟩, fun hn => absurd h hn⟩
  · have hsame : u.handedOn b o status = (u.modBranch b Branch.dropOp).recordFault b o status :=
      handOn_posted_fault hbody h _ b _
    have honly := recordFault_only (u.modBranch b Branch.dropOp) b o status
    obtain ⟨hnone, hsome⟩ := recordFault_fault (u.modBranch b Branch.dropOp) b o status
    obtain ⟨_, hfailed⟩ := recordFault_sets (u.modBranch b Branch.dropOp) b o status
    rw [hsame] at hrecords hgroups hfault
    refine ⟨hrecords.trans (congrArg State.responseQueue honly :), hgroups.trans (congrArg State.groups honly :),
      fun hk => absurd hk h, fun _ => ⟨?_, fun hf => hfault.trans (hnone hf), fun r hf => hfault.trans (hsome r hf)⟩⟩
    have hflag := (congrArg (fun t : State => t.flag .writeFailed) hhanded :)
    rw [hsame] at hflag
    exact hflag.trans hfailed

/-- The report of a member does not look at the branches. -/
theorem reportMember_modBranch (s : State) (b : Fin 4) (f : Branch → Branch) (member : Option (Fin 7 × Byte)) (ok : Bool) :
    (s.modBranch b f).reportMember member ok = { s.reportMember member ok with
      branches := (s.modBranch b f).branches, responseQueue := s.responseQueue } :=
  reportMember_withAnswers s member ok (s.modBranch b f).branches s.responseQueue

/-- A timed write reports its outcome to its group, unless it was aborted (R79, R110). -/
theorem endRun_timed (ho : (u.branch b).op = some o) {rt : ReqTag} {data : List Byte} {member : Option (Fin 7 × Byte)}
    (hbody : o.body = .timed rt data member) (h : status ≠ .aborted) :
    (u.endRun b status stuck).groups = (u.reportMember member (decide (status = .ok))).groups ∧
      (u.endRun b status stuck).lines = (u.reportMember member (decide (status = .ok))).lines ∧
      (u.endRun b status stuck).flags = (u.reportMember member (decide (status = .ok))).flags := by
  have hhanded := endRun_handedOn (status := status) (stuck := stuck) ho
  obtain ⟨hgroups, hlines, hflags⟩ := handOn_timed_report hbody h (u.modBranch b Branch.dropOp) b
    (u.branch b).progress.dataDone
  rw [reportMember_modBranch] at hgroups hlines hflags
  exact ⟨(congrArg State.groups hhanded :).trans hgroups, (congrArg State.lines hhanded :).trans hlines,
    (congrArg State.flags hhanded :).trans hflags⟩

/-- A group that still collects counts the outcome of its member's run (R150). -/
theorem endRun_member (ho : (u.branch b).op = some o) {rt : ReqTag} {data : List Byte} {g : Fin 7}
    (hbody : o.body = .timed rt data (some (g, (u.group g).generation))) (hstate : (u.group g).state = .collecting)
    (hopen : (u.group g).done + (u.group g).failed < (u.group g).members) (h : status ≠ .aborted) :
    (u.endRun b status stuck).group g = if status = .ok then { u.group g with done := (u.group g).done + 1 }
      else { u.group g with failed := (u.group g).failed + 1 } := by
  obtain ⟨hgroups, _⟩ := endRun_timed (stuck := stuck) ho hbody h
  have hcounted := reportMember_collecting hstate hopen (decide (status = .ok))
  simp only [decide_eq_true_eq] at hcounted
  rw [← hcounted]
  exact congrArg (fun v : Vector Group 7 => v[g.val]) hgroups

/-! ## The entry of a piece (R53 to R56) -/

/-- What the end of a piece's run leaves of its entry, given what the outcome did to it: freed slots only append pieces, and none to an
entry that no longer gathers. -/
theorem endRun_entry {i : Fin 16} {n : Nat} {first : Bool} {e e1 : SplitEntry} (ho : (u.branch b).op = some o)
    (hbody : o.body = .readPiece i n first) (he : u.entry i = some e)
    (hsettled : ((u.modBranch b Branch.dropOp).settlePiece i e o n first status).entry i = some e1)
    (hunsent : e1.finalSent = false) :
    ∃ e' more, (u.endRun b status stuck).entry i = some e' ∧ e'.ungranted = e1.ungranted ∧ e'.pieces = e1.pieces ++ more ∧
      (∀ p ∈ more, p.state = .queued) ∧ (e1.state ≠ .gathering → e' = e1) := by
  set w : State := (u.modBranch b Branch.dropOp).settlePiece i e o n first status
  have hhanded : u.handedOn b o status = (w.slotFreed e.route.branch).freeIfDone i := by
    unfold State.handedOn State.handOn
    rw [hbody]
    dsimp only
    unfold State.pieceEnd
    rw [entry_modBranch, he]
  obtain ⟨e', more, he', hpieces, hqueued⟩ := slotFreed_appends w e.route.branch i e1 hsettled
  have hungranted : e'.ungranted = e1.ungranted := by
    have h := (slotFreed_freed w e.route.branch).entries i
    rw [he', hsettled] at h
    exact Option.some.inj h
  have hentry := (congrArg (fun t : State => t.entry i) (endRun_handedOn (status := status) (stuck := stuck) ho) :)
  rw [hhanded, freeIfDone_unsent he' ((congrArg SplitEntry.finalSent hungranted :).trans hunsent)] at hentry
  exact ⟨e', more, hentry.trans he', hungranted, hpieces, hqueued, fun hstate =>
    Option.some.inj (he'.symm.trans (slotFreed_still hsettled hstate _))⟩

/-- A piece whose bytes are all stored, or whose run is OK, is HELD or released, and its read goes on (R53). -/
theorem endRun_piece_goesOn {i : Fin 16} {n : Nat} {first : Bool} {e : SplitEntry} (ho : (u.branch b).op = some o)
    (hbody : o.body = .readPiece i n first) (he : u.entry i = some e) (hstate : e.state = .gathering ∨ e.state = .delivering)
    (hunsent : e.finalSent = false) (hdone : status = .ok ∨ o.offset + n ≤ e.start + e.received) :
    ∃ e', (u.endRun b status stuck).entry i = some e' ∧ e'.state = e.state ∧ e'.held = e.held ∧ e'.received = e.received ∧
      ∀ p ∈ e'.pieces, p.state ≠ .active := by
  have hsettled : ((u.modBranch b Branch.dropOp).settlePiece i e o n first status).entry i = some e.holdActive := by
    rw [settlePiece_goesOn hstate hdone, entry_setEntry_same]
  obtain ⟨e', more, he', hungranted, hpieces, hqueued, _⟩ := endRun_entry (stuck := stuck) ho hbody he hsettled hunsent
  refine ⟨e', he', (congrArg SplitEntry.state hungranted :), (congrArg SplitEntry.held hungranted :),
    (congrArg SplitEntry.received hungranted :), fun p hp => ?_⟩
  rw [hpieces] at hp
  rcases List.mem_append.1 hp with hp | hp
  · exact holdActive_inactive hp
  · rw [hqueued p hp]
    decide

end

/-! ## The STOP that ends a run -/

section
variable {s : State} {b : Fin 4} {o : Operation}

/-- The STOP ends a run that was not told to end with what it closes (R92, R97, R98). -/
theorem ownStop_ends (ho : (s.branch b).op = some o) (hphase : (s.branch b).phase = .stop) (htold : (s.branch b).told = none)
    (hends : (s.branch b).StopEnds o) :
    s.ownStop b = (s.modBranch b Branch.seeStop).endRun b (s.branch b).stopReason.runStatus false := by
  unfold State.ownStop
  dsimp only
  rw [ho]
  dsimp only
  rw [if_pos hphase, htold]
  dsimp only
  cases hreason : (s.branch b).stopReason with
  | done => rfl
  | dataNack => rfl
  | addressNack =>
    rcases hends with h | h
    · exact absurd hreason h
    · dsimp only
      rw [if_pos h]
      rfl

theorem nackEnds_of_exhausted {k : Nat} (h : o.retryLimit.val < k) : o.nackEnds k = true := by
  unfold Operation.nackEnds
  rw [decide_eq_true h, Bool.or_true]

end

/-- Settles O44: the run of a write ends behind its STOP, and the head of an answer list is posted. -/
theorem runEndsHandOn : Obligations.RunEndsHandOn := by
  unfold Obligations.RunEndsHandOn
  refine ⟨fun s b o st ho hwrite hphase htold hreason => ?_, fun s b r rest hanswers => ⟨fun hroom => ?_, fun hfull => ?_⟩⟩
  · have hends : (s.branch b).StopEnds o ∧ (s.branch b).stopReason.runStatus = st ∧ st ≠ .aborted := by
      rcases hreason with ⟨h, hst⟩ | ⟨h, hst⟩ | ⟨h, hcount, hst⟩
      · exact ⟨.inl (by rw [h]; decide), by rw [h, hst]; rfl, by rw [hst]; decide⟩
      · exact ⟨.inl (by rw [h]; decide), by rw [h, hst]; rfl, by rw [hst]; decide⟩
      · exact ⟨.inr (nackEnds_of_exhausted hcount), by rw [h, hst]; rfl, by rw [hst]; decide⟩
    obtain ⟨hstop, hstatus, haborted⟩ := hends
    have hop : ((s.modBranch b Branch.seeStop).branch b).op = some o := by
      rw [branch_modBranch_same]
      exact ho
    have hrun := ownStop_ends ho hphase htold hstop
    rw [hstatus] at hrun
    obtain ⟨answers, rate, counter, hengine⟩ := endRun_write_engine (status := st) (stuck := false) hop hwrite
    have honly := endRun_write_only (status := st) (stuck := false) hop hwrite
    have hposted := fun data hbody => endRun_posted (status := st) (stuck := false) (data := data) hop hbody
    rw [← hrun, branch_modBranch_same] at hengine
    rw [← hrun] at honly
    refine ⟨s.ownStop b, exec_runEnd_piece ho hphase hstop, ?_⟩
    rw [hengine]
    refine ⟨rfl, rfl, rfl, rfl, rfl, rfl, ?_, fun rt htag => ?_, fun data hbody => ?_, fun rt data member hbody => ?_,
      fun rt data g hbody hstate hopen => ?_, fun c hc => ?_, ?_, ?_, ?_, ?_, ownStop_only s b⟩
    · exact congrArg (fun p : Bool => if p = true then Phase.clearing else _) (Bool.or_false _)
    · have hanswer := endRun_answer (status := st) (stuck := false) hop htag
      rw [← hrun, hengine, branch_modBranch_same] at hanswer
      exact hanswer
    · have hp := hposted data hbody
      rw [← hrun] at hp
      refine ⟨hp.records, hp.groups, fun hok => hp.kept (.inl hok), fun hok => hp.failed ?_⟩
      exact not_or.2 ⟨hok, haborted⟩
    · have ht := endRun_timed (stuck := false) hop hbody haborted
      rw [← hrun, reportMember_modBranch] at ht
      exact ht
    · rw [hrun]
      exact endRun_member (u := s.modBranch b Branch.seeStop) hop hbody hstate hopen haborted
    · rw [hrun, endRun_others hop hc, branch_modBranch_ne _ _ _ _ hc]
    · exact (congrArg State.split honly :)
    · exact (congrArg State.attns honly :)
    · exact (congrArg State.opState honly :)
    · exact (congrArg State.releaseQueue honly :)
  · have hmay : s.mayPost b = true := mayPost_iff.2 ⟨by rw [hanswers]; nofun, hroom⟩
    have hpost : s.postNext b = (s.pushRecord r).modBranch b fun br =>
        { br with answers := rest, phase := if br.phase = .posting ∧ rest = [] then .idle else br.phase } := by
      unfold State.postNext
      rw [hanswers]
    exact congrArg Host.Outcome.next ((if_pos hmay).trans (congrArg State.endEvent hpost))
  · refine congrArg Host.Outcome.next (if_neg fun hmay => ?_)
    exact Nat.not_lt.2 hfull (mayPost_iff.1 hmay).2

end Sys2Proof.Machine
end

section
/-! SUPPORT. A loss of arbitration: the engine that waits for the bus, and the run that ends. -/

namespace Sys2Proof.Machine

section
variable {s : State} {b : Fin 4} {o : Operation} {br : Branch} {status : Status} {f : Branch → Branch}

/-- The lines released, the bus is the winner's and the transfer's place is given back (R94, R95). -/
theorem release_eq (br : Branch) : ∃ timer flagged, br.release = { br with
    bus := .busyOther, busyTimer := timer, busyFlagged := flagged, stretchCounter := 0
    progress := { br.progress with reserved := false } } := by
  unfold Branch.release
  by_cases h : br.bus = .busyOther
  · refine ⟨br.busyTimer, br.busyFlagged, ?_⟩
    rw [show br.seeOther = br from if_pos h, ← h]
  · exact ⟨0, false, by rw [seeOther_takes h]⟩

/-! ## What a loss does, by the engine's phase and STOP REASON (R95, R97, R98) -/

/-- The branch behind a loss that counts a failed attempt (R95). -/
def Branch.lossCounted (br : Branch) : Branch :=
  { br.release with retryCount := br.release.retryCount + 1, lastCause := .arbitration }

/-- The branch behind a loss on the STOP after an address NACK, which has counted already (R97). -/
def Branch.lossAtNack (br : Branch) : Branch := { br.release with lastCause := .arbitration }

theorem loseArbitration_transfer (ho : (s.branch b).op = some o) (htold : (s.branch b).told = none)
    (hphase : (s.branch b).phase ∈ ([.start, .address, .subaddress, .writeData, .restart, .readData] : List Phase)) :
    s.loseArbitration b = (s.modBranch b Branch.lossCounted).afterLoss b o := by
  obtain ⟨htransfers, hstop⟩ : (s.branch b).phase.transfers = true ∧ (s.branch b).phase ≠ .stop := by
    generalize (s.branch b).phase = p at hphase
    revert p
    decide
  unfold State.loseArbitration
  dsimp only
  rw [ho]
  dsimp only
  rw [if_pos htransfers, htold]
  dsimp only
  rw [if_neg hstop, modBranch_modBranch]
  rfl

theorem loseArbitration_atNack (ho : (s.branch b).op = some o) (htold : (s.branch b).told = none)
    (hphase : (s.branch b).phase = .stop) (hreason : (s.branch b).stopReason = .addressNack) :
    s.loseArbitration b = (s.modBranch b Branch.lossAtNack).afterLoss b o := by
  unfold State.loseArbitration
  dsimp only
  rw [ho]
  dsimp only
  rw [if_pos (by rw [hphase]; rfl), htold]
  dsimp only
  rw [if_pos hphase, hreason]
  dsimp only
  rw [modBranch_modBranch]
  rfl

/-- The status of a run whose STOP is lost behind its last byte or a data NACK (R95, R98; log 15). -/
def Operation.lostStopStatus (o : Operation) (reason : StopReason) : Status :=
  if reason = .dataNack then .dataNack else if o.isRead then .arbExhausted else .ok

theorem loseArbitration_stop (ho : (s.branch b).op = some o) (htold : (s.branch b).told = none)
    (hphase : (s.branch b).phase = .stop) (hreason : (s.branch b).stopReason ≠ .addressNack) :
    s.loseArbitration b = (s.modBranch b Branch.release).endRun b (o.lostStopStatus (s.branch b).stopReason) false := by
  unfold State.loseArbitration Operation.lostStopStatus
  dsimp only
  rw [ho]
  dsimp only
  rw [if_pos (by rw [hphase]; rfl), htold]
  dsimp only
  rw [if_pos hphase]
  cases h : (s.branch b).stopReason with
  | done => rfl
  | dataNack => rfl
  | addressNack => exact absurd h hreason

/-! ## The engine that waits (R95) -/

theorem afterLoss_waits (h : (f (s.branch b)).retryCount ≤ o.retryLimit.val) : (s.modBranch b f).afterLoss b o =
    (s.modBranch b fun x => { f x with phase := .busyOther, progress := Progress.none }).roomFreed := by
  unfold State.afterLoss
  rw [if_neg (by rw [branch_modBranch_same]; exact Nat.not_lt.2 h), modBranch_modBranch]

theorem afterLoss_ends (h : o.retryLimit.val < (f (s.branch b)).retryCount) :
    (s.modBranch b f).afterLoss b o = (s.modBranch b f).endRun b .arbExhausted false := by
  unfold State.afterLoss
  rw [if_pos (by rwa [branch_modBranch_same])]

/-- State t comes of a loss behind which the operation waits for the bus, its attempts counted. -/
structure LossWaits (s : State) (b : Fin 4) (o : Operation) (count : Nat) (t : State) : Prop where
  phase : (t.branch b).phase = .busyOther
  op : (t.branch b).op = some o
  retryCount : (t.branch b).retryCount = count
  lastCause : (t.branch b).lastCause = .arbitration
  bus : (t.branch b).bus = .busyOther
  progress : (t.branch b).progress = Progress.none
  queue : (t.branch b).queue = (s.branch b).queue
  others : ∀ c, c ≠ b → (t.branch c).unstalled = (s.branch c).unstalled
  only : { t with branches := s.branches, freeCount := s.freeCount } = s

/-- An engine that has released the bus, with the attempts and LAST CAUSE of its loss, waits while the attempts are not spent. -/
theorem afterLoss_lossWaits (hf : ∃ timer flagged count, f (s.branch b) = { s.branch b with
      bus := .busyOther, busyTimer := timer, busyFlagged := flagged, stretchCounter := 0
      progress := { (s.branch b).progress with reserved := false }, retryCount := count, lastCause := .arbitration })
    (ho : (s.branch b).op = some o) (h : (f (s.branch b)).retryCount ≤ o.retryLimit.val) :
    LossWaits s b o (f (s.branch b)).retryCount ((s.modBranch b f).afterLoss b o) := by
  obtain ⟨timer, flagged, count, hf⟩ := hf
  rw [afterLoss_waits h]
  obtain ⟨hmine, hothers, honly⟩ :=
    roomFreed_behind s b (f := fun x => { f x with phase := .busyOther, progress := Progress.none }) nofun
  rw [hf] at hmine ⊢
  exact {
    phase := by rw [hmine]
    op := by rw [hmine]; exact ho
    retryCount := by rw [hmine]
    lastCause := by rw [hmine]
    bus := by rw [hmine]
    progress := by rw [hmine]
    queue := by rw [hmine]
    others := hothers
    only := honly }

theorem lossCounted_eq (br : Branch) : ∃ timer flagged, br.lossCounted = { br with
    bus := .busyOther, busyTimer := timer, busyFlagged := flagged, stretchCounter := 0
    progress := { br.progress with reserved := false }, retryCount := br.retryCount + 1, lastCause := .arbitration } := by
  obtain ⟨timer, flagged, h⟩ := release_eq br
  exact ⟨timer, flagged, by unfold Branch.lossCounted; rw [h]⟩

theorem lossAtNack_eq (br : Branch) : ∃ timer flagged, br.lossAtNack = { br with
    bus := .busyOther, busyTimer := timer, busyFlagged := flagged, stretchCounter := 0
    progress := { br.progress with reserved := false }, retryCount := br.retryCount, lastCause := .arbitration } := by
  obtain ⟨timer, flagged, h⟩ := release_eq br
  exact ⟨timer, flagged, by unfold Branch.lossAtNack; rw [h]⟩

/-! ## The run that ends (R95, R98) -/

/-- State t comes of the end of a confirmed write's run, answered with a status and a position, the bus the winner's. -/
structure ConfirmedEnded (s : State) (b : Fin 4) (rt : ReqTag) (status : Status) (position : Nat) (t : State) : Prop where
  op : (t.branch b).op = none
  bus : (t.branch b).bus = .busyOther
  retryCount : (t.branch b).retryCount = 0
  record : t.HasRecord b (completion rt status position)
  others : ∀ c, c ≠ b → (t.branch c).unstalled = (s.branch c).unstalled
  only : { t with branches := s.branches, responseQueue := s.responseQueue, freeCount := s.freeCount } = s

theorem endRun_confirmed {u : State} {rt : ReqTag} {data : List Byte} (ho : (u.branch b).op = some o)
    (hbody : o.body = .confirmed rt data) (hbus : (u.branch b).bus = .busyOther) :
    ConfirmedEnded u b rt status (answerOffset o status (u.branch b).progress.dataDone) (u.endRun b status false) := by
  have htag : o.tag? = some rt := tag_of_confirmed hbody
  obtain ⟨answers, rate, counter, hengine⟩ :=
    endRun_write_engine (status := status) (stuck := false) ho (isRead_of_tag htag)
  have hanswer := addAnswer_only (u.modBranch b Branch.dropOp) b
    (completion rt status (answerOffset o status (u.branch b).progress.dataDone))
  rw [← handOn_confirmed hbody] at hanswer
  exact {
    op := by rw [hengine]; rfl
    bus := by rw [hengine]; exact hbus
    retryCount := by rw [hengine]; rfl
    record := endRun_answered ho htag
    others := fun c hc => endRun_others ho hc
    only := lift (fun t : State => { t with
      branches := u.branches, responseQueue := u.responseQueue, freeCount := u.freeCount }) (endRun_handedOn ho) rfl
      ((congrArg (fun t : State => { t with branches := u.branches, freeCount := u.freeCount }) hanswer :)) }

theorem ConfirmedEnded.behind {rt : ReqTag} {position : Nat} {t : State}
    (h : ConfirmedEnded (s.modBranch b f) b rt status position t) : ConfirmedEnded s b rt status position t :=
  { h with
    others := fun c hc => (h.others c hc).trans (by rw [branch_modBranch_ne _ _ _ _ hc])
    only := (congrArg (fun t : State => { t with branches := s.branches }) h.only :) }

end

/-- Settles O38: by the phase in which the loss meets the engine, and on a STOP by what it closes. -/
theorem arbitrationLost : Obligations.ArbitrationLost := by
  unfold Obligations.ArbitrationLost
  intro s b o ho htold waits ends
  obtain ⟨timer, flagged, hreleased⟩ := release_eq (s.branch b)
  obtain ⟨timer1, flagged1, hcounted⟩ := lossCounted_eq (s.branch b)
  obtain ⟨timer2, flagged2, hnack⟩ := lossAtNack_eq (s.branch b)
  have hwaits {count : Nat} {t : State} (heq : s.loseArbitration b = t) (h : LossWaits s b o count t) : waits count :=
    ⟨t, by rw [← heq]; rfl, h.phase, h.op, h.retryCount, h.lastCause, h.bus, h.progress, h.queue, h.others, h.only⟩
  have hends {rt : ReqTag} {st : Status} {position : Nat} {t : State} (heq : s.loseArbitration b = t)
      (h : ConfirmedEnded s b rt st position t) : ends rt st position :=
    ⟨t, by rw [← heq]; rfl, h.op, h.bus, h.retryCount, List.mem_append.1 h.record, h.others, h.only⟩
  -- The run ends behind a change f of the engine that has released the bus and kept its operation.
  have hended {f : Branch → Branch} {st : Status} {rt : ReqTag} {data : List Byte} (hop : (f (s.branch b)).op = some o)
      (hbus : (f (s.branch b)).bus = .busyOther) (hdone : (f (s.branch b)).progress.dataDone = (s.branch b).progress.dataDone)
      (hbody : o.body = .confirmed rt data) : ConfirmedEnded s b rt st (answerOffset o st (s.branch b).progress.dataDone)
        ((s.modBranch b f).endRun b st false) := by
    have h := (endRun_confirmed (u := s.modBranch b f) (b := b) (status := st) (by rwa [branch_modBranch_same]) hbody
      (by rwa [branch_modBranch_same])).behind
    rwa [branch_modBranch_same, hdone] at h
  refine ⟨fun hphase => ⟨fun hleft => ?_, fun rt data hspent hbody => ?_⟩, fun hphase =>
    ⟨fun rt data hreason hbody => ?_, fun rt data hreason hbody => ?_, fun hreason hleft => ?_,
      fun rt data hreason hspent hbody => ?_, fun i n first e hreason hbody he hstate hunsent hall => ?_⟩⟩
  · have h := afterLoss_lossWaits (f := Branch.lossCounted) ⟨timer1, flagged1, _, hcounted⟩ ho (by rw [hcounted]; exact hleft)
    rw [hcounted] at h
    exact hwaits (loseArbitration_transfer ho htold hphase) h
  · refine hends ((loseArbitration_transfer ho htold hphase).trans (afterLoss_ends (by rw [hcounted]; exact hspent))) ?_
    exact hended (by rw [hcounted]; exact ho) (by rw [hcounted]) (by rw [hcounted]) hbody
  · have hstop := loseArbitration_stop ho htold hphase (by rw [hreason]; decide)
    have hok : o.lostStopStatus (s.branch b).stopReason = .ok := by
      unfold Operation.lostStopStatus
      rw [hreason, isRead_of_tag (tag_of_confirmed hbody)]
      rfl
    rw [hok] at hstop
    exact hends hstop (hended (by rw [hreleased]; exact ho) (by rw [hreleased]) (by rw [hreleased]) hbody)
  · have hstop := loseArbitration_stop ho htold hphase (by rw [hreason]; decide)
    rw [hreason] at hstop
    exact hends hstop (hended (by rw [hreleased]; exact ho) (by rw [hreleased]) (by rw [hreleased]) hbody)
  · have h := afterLoss_lossWaits (f := Branch.lossAtNack) ⟨timer2, flagged2, _, hnack⟩ ho (by rw [hnack]; exact hleft)
    rw [hnack] at h
    exact hwaits (loseArbitration_atNack ho htold hphase hreason) h
  · refine hends ((loseArbitration_atNack ho htold hphase hreason).trans (afterLoss_ends (by rw [hnack]; exact hspent))) ?_
    exact hended (by rw [hnack]; exact ho) (by rw [hnack]) (by rw [hnack]) hbody
  · have hstop := loseArbitration_stop ho htold hphase (by rw [hreason]; decide)
    have hop : ((s.modBranch b Branch.release).branch b).op = some o := by
      rw [branch_modBranch_same, release_op]
      exact ho
    obtain ⟨e', he', hkept⟩ := endRun_piece_goesOn (status := o.lostStopStatus (s.branch b).stopReason) (stuck := false)
      hop hbody he hstate hunsent (.inr hall)
    obtain ⟨hnone, _, hbus⟩ := endRun_engine (status := o.lostStopStatus (s.branch b).stopReason) (stuck := false) hop
    rw [branch_modBranch_same, release_bus] at hbus
    obtain ⟨hestate, hheld, hreceived, hpieces⟩ := hkept
    rw [← hstop] at he' hnone hbus
    exact ⟨s.loseArbitration b, e', rfl, hnone, hbus, he', hestate, hheld, hreceived, hpieces, loseArbitration_only s b⟩

end Sys2Proof.Machine
end

section
/-! SUPPORT. What follows a run's end only adds to the event flags. -/

namespace Sys2Proof.Machine

/-! ## Flags set stay set (R171) -/

/-- Every event flag that is set in state s is set in state t. -/
structure FlagsKept (s t : State) : Prop where
  kept : ∀ f, s.flag f = true → t.flag f = true

section
variable {s t u : State}

theorem FlagsKept.refl (s : State) : FlagsKept s s := ⟨fun _ h => h⟩

theorem FlagsKept.trans (h : FlagsKept s t) (k : FlagsKept t u) : FlagsKept s u :=
  ⟨fun f hf => k.kept f (h.kept f hf)⟩

theorem FlagsKept.of_flags (h : t.flags = s.flags) : FlagsKept s t :=
  ⟨fun f hf => by
    unfold State.flag
    rw [h]
    exact hf⟩

theorem FlagsKept.after (k : FlagsKept t u) (h : t.flags = s.flags) : FlagsKept s u := (FlagsKept.of_flags h).trans k

theorem setFlag_flagsKept (s : State) (f : EventFlag) : FlagsKept s (s.setFlag f) := by
  refine ⟨fun g hg => ?_⟩
  unfold State.setFlag
  split
  · exact hg
  · have hmore : ({ s with flags := s.flags ||| f.mask } : State).flag g = true := by
      unfold State.flag at hg ⊢
      rw [BitVec.getLsbD_or, hg, Bool.true_or]
    dsimp only
    split
    · exact (raiseNotice_flag _ g).trans hmore
    · exact hmore

/-! ## Groups and the Release Queue -/

theorem reportMember_flagsKept (s : State) (member : Option (Fin 7 × Byte)) (ok : Bool) :
    FlagsKept s (s.reportMember member ok) := by
  have hfire (s : State) (g : Fin 7) : FlagsKept s (s.fireIfComplete g) := by
    unfold State.fireIfComplete
    dsimp only
    split
    · split
      · exact FlagsKept.of_flags rfl
      · exact (setFlag_flagsKept (s.modGroup g _) .groupFailed).after rfl
    · exact FlagsKept.refl s
  unfold State.reportMember
  split
  · exact FlagsKept.refl s
  · unfold State.memberReport
    split
    · exact (hfire (s.modGroup _ _) _).after rfl
    · exact FlagsKept.refl s

theorem headWaits_flagsKept {e : ReleaseEntry} {rest : List ReleaseEntry} (h : s.headWaits e rest = some t) :
    FlagsKept s t := by
  unfold State.headWaits at h
  split at h
  · cases h
  · cases h
    exact (setFlag_flagsKept { s with releaseQueue := { e with waiting := true } :: rest } .releaseSlip).after rfl

theorem judgeWrite_flagsKept {e : ReleaseEntry} {rest : List ReleaseEntry} {member : Option (Fin 7 × Byte)} {route : Route}
    {offset : Nat} {data : List Byte} (h : s.judgeWrite e rest member route offset data = some t) : FlagsKept s t := by
  unfold State.judgeWrite at h
  split at h
  · split at h
    · cases h
      exact FlagsKept.of_flags rfl
    · exact headWaits_flagsKept h
  · split at h
    · cases h
      exact (reportMember_flagsKept (({ s with releaseQueue := rest } : State).pushRecord (completion e.rt .branchOff offset)) member
          false).after rfl
    · exact headWaits_flagsKept h

theorem judgeLatch_flagsKept {e : ReleaseEntry} {rest : List ReleaseEntry} {lines : BitVec 4} {action : LatchAction}
    {width : BitVec 16} (h : s.judgeLatch e rest lines action width = some t) : FlagsKept s t := by
  unfold State.judgeLatch at h
  split at h
  · cases h
    exact FlagsKept.of_flags rfl
  · exact headWaits_flagsKept h

theorem judgeHead_flagsKept (h : s.judgeHead = some t) : FlagsKept s t := by
  unfold State.judgeHead at h
  split at h
  · cases h
  · split at h
    · unfold State.abortHead at h
      split at h
      · cases h
        exact FlagsKept.of_flags rfl
      · cases h
    · split at h
      · split at h
        · exact judgeWrite_flagsKept h
        · exact judgeLatch_flagsKept h
      · cases h

theorem judgeRun_flagsKept (fuel : Nat) (s : State) : FlagsKept s (s.judgeRun fuel) := by
  induction fuel generalizing s with
  | zero => exact FlagsKept.refl s
  | succ n ih =>
    unfold State.judgeRun
    split
    · exact FlagsKept.refl s
    · rename_i h
      exact (judgeHead_flagsKept h).trans (ih _)

theorem grantPass_flagsKept (s : State) : FlagsKept s s.grantPass :=
  FlagsKept.of_flags (congrArg State.flags (grantPass_only s) :)

theorem pick_flagsKept {α : Type} {xs : List α} {x : α} (h : s.pick xs = some (x, t)) : FlagsKept s t :=
  FlagsKept.of_flags (congrArg State.flags (pick_only s xs x t h) :)

/-- The takers of a freed slot keep the flags (R48, R72, R137). -/
theorem slotFreedIn_flagsKept (b : Fin 4) (fuel : Nat) (s : State) : FlagsKept s (s.slotFreedIn b fuel) := by
  induction fuel generalizing s with
  | zero => exact grantPass_flagsKept s
  | succ n ih =>
    obtain ⟨x, s', hp, h | ⟨t, ht, h⟩ | ⟨_, t, ht, h⟩⟩ := slotFreedIn_turn s b n
    · rw [h]
      exact (pick_flagsKept hp).trans (grantPass_flagsKept s')
    · rw [h]
      have hj : s'.judgeHead = some t := by
        unfold State.headTakesSlot at ht
        split at ht
        · exact ht
        · cases ht
      exact (pick_flagsKept hp).trans ((judgeHead_flagsKept hj).trans ((judgeRun_flagsKept _ t).trans (ih _)))
    · rw [h]
      obtain ⟨f, rest, o, _, _, _, rfl⟩ := intakeTakesSlot_write ht
      exact (pick_flagsKept hp).trans ((ih _).after rfl)

/-! ## Polls and entries -/

theorem attemptPoll_flagsKept (s : State) (b : Fin 4) : FlagsKept s (s.attemptPoll b) := by
  have hunroutable : FlagsKept s (s.pollUnroutable b) :=
    (setFlag_flagsKept (s.modAttn b _) .attnNoRoute).after rfl
  unfold State.attemptPoll
  dsimp only
  split
  · exact hunroutable
  · split
    · exact hunroutable
    · split
      · exact FlagsKept.of_flags rfl
      · exact FlagsKept.of_flags (congrArg State.flags (createEntry_only (s.modAttn b _) _ _ _ _ _) :)

theorem claimOver_flagsKept (bs : List (Fin 4)) (s : State) : FlagsKept s (s.claimOver bs) := by
  induction bs generalizing s with
  | nil => exact FlagsKept.refl s
  | cons b rest ih =>
    unfold State.claimOver
    split
    · exact (attemptPoll_flagsKept s b).trans (ih _)
    · exact ih s

theorem claims_flagsKept (s : State) : FlagsKept s s.claims := by
  unfold State.claims
  split
  · exact claimOver_flagsKept four s
  · exact FlagsKept.refl s

theorem endHoldoff_flagsKept (s : State) (b : Fin 4) : FlagsKept s (s.endHoldoff b) := by
  unfold State.endHoldoff
  dsimp only
  split
  · exact (attemptPoll_flagsKept (s.modAttn b _) b).after rfl
  · split <;> exact FlagsKept.of_flags rfl

theorem pollFreed_flagsKept (s : State) (b : Fin 4) : FlagsKept s (s.pollFreed b) := by
  unfold State.pollFreed
  dsimp only
  split
  · exact (claims_flagsKept (s.modAttn b _)).after rfl
  · split
    · rename_i s2 hp
      exact ((pick_flagsKept hp).trans ((endHoldoff_flagsKept s2 b).trans (claims_flagsKept _))).after rfl
    · rename_i s2 hp
      exact ((pick_flagsKept hp).trans ((claims_flagsKept s2).trans (endHoldoff_flagsKept _ b))).after rfl
    · exact FlagsKept.of_flags rfl

theorem freeIfDone_flagsKept (s : State) (i : Fin 16) : FlagsKept s (s.freeIfDone i) := by
  unfold State.freeIfDone
  split
  · exact FlagsKept.refl s
  · split
    · unfold State.freeEntry
      split
      · exact FlagsKept.refl s
      · dsimp only
        split
        · exact (claims_flagsKept { s.setEntry i none with ageOrder := _ }).after rfl
        · exact (pollFreed_flagsKept { s.setEntry i none with ageOrder := _ } _).after rfl
    · exact FlagsKept.refl s

theorem pieceEnd_flagsKept (s : State) (i : Fin 16) (o : Operation) (n : Nat) (first : Bool) (status : Status) :
    FlagsKept s (s.pieceEnd i o n first status) := by
  unfold State.pieceEnd
  split
  · exact FlagsKept.refl s
  · exact ((slotFreedIn_flagsKept _ _ _).trans (freeIfDone_flagsKept _ i)).after
      (congrArg State.flags (settlePiece_only s i _ o n first status) :)

/-! ## The end of a run (R104) -/

theorem recordFault_flagsKept (s : State) (b : Fin 4) (o : Operation) (status : Status) :
    FlagsKept s (s.recordFault b o status) :=
  (setFlag_flagsKept { s with fault := _ } .writeFailed).after rfl

theorem addAnswer_flagsKept (s : State) (b : Fin 4) (r : Record) : FlagsKept s (s.addAnswer b r) :=
  FlagsKept.of_flags (congrArg State.flags (addAnswer_only s b r) :)

theorem handOn_flagsKept (s : State) (b : Fin 4) (o : Operation) (status : Status) (n : Nat) :
    FlagsKept s (s.handOn b o status n) := by
  unfold State.handOn
  split
  · exact pieceEnd_flagsKept s _ o _ _ status
  · split
    · exact FlagsKept.refl s
    · exact recordFault_flagsKept s b o status
  · exact addAnswer_flagsKept s b _
  · dsimp only
    split
    · exact addAnswer_flagsKept s b _
    · exact (addAnswer_flagsKept s b _).trans (reportMember_flagsKept _ _ _)

theorem endRun_flagsKept (s : State) (b : Fin 4) (status : Status) (stuck : Bool) : FlagsKept s (s.endRun b status stuck) := by
  cases ho : (s.branch b).op with
  | none =>
    unfold State.endRun
    rw [ho]
    exact FlagsKept.refl s
  | some o =>
    have hhanded : FlagsKept s (s.handedOn b o status) :=
      (handOn_flagsKept (s.modBranch b Branch.dropOp) b o status _).after rfl
    exact hhanded.trans (FlagsKept.of_flags (congrArg State.flags (endRun_handedOn ho) :))

end

end Sys2Proof.Machine
end

section
/-! SUPPORT. A stuck clock and the end of a bus clear. -/

namespace Sys2Proof.Machine

section
variable {s : State} {b : Fin 4} {o : Operation} {br : Branch} {held : Nat}

/-! ## The clock found low (R99) -/

/-- The clock of branch b has been found low for a time, and BRANCH_STUCK is set. -/
def State.stuckAt (s : State) (b : Fin 4) (held : Nat) : State :=
  (s.modBranch b fun br => { br with stretchCounter := held }).setFlag .branchStuck

theorem stuckAt_only (s : State) (b : Fin 4) (held : Nat) :
    { s.stuckAt b held with
      branches := s.branches, flags := s.flags, noticeArm := s.noticeArm, noticePending := s.noticePending } = s :=
  lift (fun t : State => { t with
    branches := s.branches, flags := s.flags, noticeArm := s.noticeArm, noticePending := s.noticePending })
    (setFlag_only (s.modBranch b fun br => { br with stretchCounter := held }) .branchStuck) rfl rfl

theorem stuckAt_branch (s : State) (b : Fin 4) (held : Nat) :
    (s.stuckAt b held).branch b = { s.branch b with stretchCounter := held } :=
  (setFlag_branch _ _ b).trans (branch_modBranch_same _ _ _)

theorem stuckAt_branch_ne {c : Fin 4} (h : c ≠ b) : (s.stuckAt b held).branch c = s.branch c :=
  (setFlag_branch _ _ c).trans (branch_modBranch_ne _ _ _ _ h)

theorem exec_clockStuck_runs (hruns : br.stretchRuns = true) (hbr : s.branch b = br) : exec (.clockStuck b held) s =
    .next ((s.modBranch b fun br => { br with stretchCounter := held }).judgeClock b).endEvent :=
  congrArg Host.Outcome.next (if_pos (by rw [hbr]; exact hruns))

theorem exec_clockStuck_within (hruns : (s.branch b).stretchRuns = true)
    (hlimit : (s.branch b).stretchLimit = 0 ∨ held ≤ (s.branch b).stretchLimit.toNat * 1000) :
    exec (.clockStuck b held) s = .next (s.modBranch b fun br => { br with stretchCounter := held }).endEvent := by
  rw [exec_clockStuck_runs hruns rfl, judgeClock_of_not_stuck]
  rw [Bool.eq_false_iff, Ne, clockIsStuck_iff, branch_modBranch_same]
  rintro ⟨_, hsome, hexceeded⟩
  rcases hlimit with h | h
  · exact hsome h
  · exact Nat.not_lt.2 h hexceeded

/-- The stretch counter counts one more microsecond when it runs, above 0. -/
theorem tick_stretchCounter (br : Branch) :
    br.tick.stretchCounter = br.stretchCounter + 1 ↔ br.stretchRuns = true ∧ 0 < br.stretchCounter := by
  unfold Branch.tick
  dsimp only
  split
  · exact iff_of_true rfl ‹_›
  · exact iff_of_false (Nat.ne_of_lt (Nat.lt_succ_self _)) ‹_›

theorem mem_due_clockStuck (h : (s.branch b).clockIsStuck = true) :
    Instr.clockStuck b (s.branch b).stretchCounter ∈ s.due := by
  have hbranch : Instr.clockStuck b (s.branch b).stretchCounter ∈ s.dueBranch b := by
    unfold State.dueBranch dueIf
    dsimp only
    rw [if_pos h]
    simp
  have hflat : Instr.clockStuck b (s.branch b).stretchCounter ∈ (four.map s.dueBranch).flatten :=
    List.mem_flatten.2 ⟨_, List.mem_map.2 ⟨b, mem_four b, rfl⟩, hbranch⟩
  unfold State.due
  simp only [List.mem_append]
  exact .inl (.inl (.inl (.inl (.inl (.inl (.inr hflat))))))

/-! ## A stuck clock (R99, R100, R101) -/

theorem judgeClock_stuck (hstuck : ({ s.branch b with stretchCounter := held } : Branch).clockIsStuck = true)
    (hphase : (s.branch b).phase ≠ .clearing) (ho : (s.branch b).op = some o) :
    (s.modBranch b fun br => { br with stretchCounter := held }).judgeClock b =
      (s.stuckAt b held).endRun b (stuckStatus o (s.branch b)) true := by
  unfold State.judgeClock
  dsimp only
  rw [branch_modBranch_same, if_pos hstuck, if_neg hphase, ho]
  rfl

theorem judgeClock_clearing (hstuck : ({ s.branch b with stretchCounter := held } : Branch).clockIsStuck = true)
    (hphase : (s.branch b).phase = .clearing) :
    (s.modBranch b fun br => { br with stretchCounter := held }).judgeClock b =
      (s.stuckAt b held).modBranch b fun br => br.endClear false := by
  unfold State.judgeClock
  dsimp only
  rw [branch_modBranch_same, if_pos hstuck, if_pos hphase]
  rfl

/-- The end of a bus clear: the bus is FREE, and the engine is DISABLED or waits for its answer list (R101, R106). -/
theorem endClear_eq (br : Branch) (stopMade : Bool) : br.endClear stopMade = { br with
    bus := .free, gapTimer := 0, busyTimer := 0, stretchCounter := 0, resetting := false
    cutShort := br.cutShort || !stopMade
    phase := if br.enabled = false then .disabled else if br.answers = [] then .idle else .posting } := by
  unfold Branch.endClear Branch.settle Branch.seeStop
  cases br.enabled <;> cases br.answers <;> rfl

/-! ## The status of the run (R100) -/

theorem stuckStatus_acked (h : o.allAcked br.progress = true) : stuckStatus o br = .ok := if_pos h

theorem stuckStatus_untold (h : o.allAcked br.progress = false) (htold : br.told = none) : stuckStatus o br = .stuck := by
  unfold stuckStatus
  rw [h, htold]
  rfl

theorem stuckStatus_told {cause : EndCause} (h : o.allAcked br.progress = false) (htold : br.told = some cause) :
    stuckStatus o br = cause.status := by
  unfold stuckStatus
  rw [h, htold]
  exact endStatus_of_unacked h

theorem stuckStatus_ne_dataNack : stuckStatus o br ≠ .dataNack := by
  cases h : o.allAcked br.progress with
  | true =>
    rw [stuckStatus_acked h]
    decide
  | false =>
    cases htold : br.told with
    | none =>
      rw [stuckStatus_untold h htold]
      decide
    | some cause =>
      rw [stuckStatus_told h htold]
      exact (causeStatus_ne cause).1

theorem allAcked_of_read (hread : o.isRead = true) (p : Progress) : o.allAcked p = false := by
  unfold Operation.allAcked
  rw [hread]
  rfl

/-- The status by whether the write has reached its device, and by the cause that the engine was told. -/
theorem eq_stuckStatus {st : Status} {reached : Prop} (hreached : o.allAcked br.progress = true ↔ reached)
    (hok : reached → st = .ok) (hstuck : ¬ reached → br.told = none → st = .stuck)
    (hcause : ∀ cause, ¬ reached → br.told = some cause → st = cause.status) : st = stuckStatus o br := by
  cases h : o.allAcked br.progress with
  | true => rw [stuckStatus_acked h, hok (hreached.1 h)]
  | false =>
    have hn : ¬ reached := fun hr => Bool.false_ne_true (h.symm.trans (hreached.2 hr))
    cases htold : br.told with
    | none => rw [stuckStatus_untold h htold, hstuck hn htold]
    | some cause => rw [stuckStatus_told h htold, hcause cause hn htold]

end

/-! ## What the stuck run leaves (R100) -/

section
variable {s : State} {b : Fin 4} {o : Operation} {status : Status}

theorem endRun_stuck_phase (ho : (s.branch b).op = some o) : ((s.endRun b status true).branch b).phase = .clearing := by
  rw [endRun_mine ho]
  unfold Branch.afterRun
  rw [if_pos (Bool.or_true _)]
  rfl

/-- The end of the run of a piece whose entry is CLOSING or ABANDONED releases it, and that alone (R56, R58). -/
theorem endRun_piece_released {i : Fin 16} {n : Nat} {first stuck : Bool} {e : SplitEntry} (ho : (s.branch b).op = some o)
    (hbody : o.body = .readPiece i n first) (he : s.entry i = some e) (hstate : e.state = .closing ∨ e.state = .abandoned)
    (hunsent : e.finalSent = false) : (s.endRun b status stuck).entry i = some e.dropActive := by
  have hsettled : ((s.modBranch b Branch.dropOp).settlePiece i e o n first status).entry i = some e.dropActive := by
    rw [settlePiece_released hstate, entry_setEntry_same]
  obtain ⟨e', more, he', _, _, _, hsame⟩ := endRun_entry (stuck := stuck) ho hbody he hsettled hunsent
  have hstill : e.dropActive.state ≠ .gathering := by
    show e.state ≠ .gathering
    rcases hstate with h | h <;> rw [h] <;> decide
  rw [he', hsame hstill]

/-- A piece that misses bytes closes its entry with the error, no piece stays, and only the bytes in flight are kept (R56). -/
theorem endRun_piece_error {i : Fin 16} {n : Nat} {first stuck : Bool} {e : SplitEntry} (ho : (s.branch b).op = some o)
    (hbody : o.body = .readPiece i n first) (he : s.entry i = some e) (hg : e.state = .gathering)
    (hmissing : e.start + e.received < o.offset + n) (hunsent : e.finalSent = false) (hok : status ≠ .ok)
    (hnack : status ≠ .nack) : (s.endRun b status stuck).entry i = some { e with
      pieces := [], state := .closing, finalStatus := some status, held := e.held.take (s.bytesInFlight i) } := by
  have hsettled := settlePiece_error (s := s.modBranch b Branch.dropOp) (i := i) (first := first) hg hmissing hok
    fun h => hnack h.1
  obtain ⟨e', more, he', _, _, _, hsame⟩ := endRun_entry (stuck := stuck) ho hbody he hsettled hunsent
  rw [he', hsame nofun]
  rfl

/-- The end of a write's run leaves the entries. -/
theorem endRun_write_split {stuck : Bool} (ho : (s.branch b).op = some o) (hwrite : o.isRead = false) :
    (s.endRun b status stuck).split = s.split := (congrArg State.split (endRun_write_only ho hwrite) :)

end

/-- Settles O43: by whether the counter exceeds STRETCH LIMIT, and by what the engine runs. -/
theorem stuckClockAndClears : Obligations.StuckClockAndClears := by
  unfold Obligations.StuckClockAndClears
  intro s b runs
  have hiff : (s.branch b).stretchRuns = true ↔ runs := stretchRuns_iff _
  have hstuckAt (held : Nat) (hr : runs) (hlimit : (s.branch b).stretchLimit ≠ 0)
      (hheld : (s.branch b).stretchLimit.toNat * 1000 < held) :
      ({ s.branch b with stretchCounter := held } : Branch).clockIsStuck = true :=
    (clockIsStuck_iff _).2 ⟨hiff.2 hr, hlimit, hheld⟩
  refine ⟨fun held hr => exec_clockStuck_within (hiff.2 hr),
    fun held hn => congrArg Host.Outcome.next (if_neg (fun h => hn (hiff.1 h))), ?_,
    fun hr hlimit hcount => mem_due_clockStuck ((clockIsStuck_iff _).2 ⟨hiff.2 hr, hlimit, hcount⟩),
    fun held o hr hphase hlimit hheld ho => ?_, fun held hphase hlimit hheld => ?_, fun stopMade hphase => ?_,
    fun henabled hbus hflagged hlimit => ?_, fun henabled hbus hflagged hcount => ?_⟩
  · have hb : s.tick.branch b = (s.branch b).tick := getElem_mapAll _ _ _ b.isLt
    rw [hb, tick_stretchCounter, hiff]
  · -- A run ends, and a bus clear follows.
    intro p reached
    have hexec := exec_clockStuck_runs (held := held) (hiff.2 hr) rfl
    rw [judgeClock_stuck (hstuckAt held hr hlimit hheld) hphase ho] at hexec
    set u := s.stuckAt b held
    have hbranch : u.branch b = { s.branch b with stretchCounter := held } := stuckAt_branch s b held
    have hop : (u.branch b).op = some o := by rw [hbranch]; exact ho
    have honly := stuckAt_only s b held
    have hentry (i : Fin 16) : u.entry i = s.entry i := (congrArg (fun t : State => t.entry i) honly :)
    have hfault : u.fault = s.fault := (congrArg State.fault honly :)
    have hgroup (g : Fin 7) : u.group g = s.group g := (congrArg (fun t : State => t.group g) honly :)
    have hflight (i : Fin 16) : u.bytesInFlight i = s.bytesInFlight i :=
      (congrArg (fun t : State => t.bytesInFlight i) honly :)
    have hacked : o.allAcked (s.branch b).progress = true ↔ reached := by
      cases hread : o.isRead with
      | true => simp [allAcked_of_read hread, reached, hread]
      | false => simpa [reached, hread] using allAcked_iff (o := o) (p := (s.branch b).progress) hread
    obtain ⟨hnone, htold, _⟩ := endRun_engine (status := stuckStatus o (s.branch b)) (stuck := true) hop
    refine ⟨_, hexec, (endRun_flagsKept u b _ true).kept _ (setFlag_flag _ _), hnone, htold, endRun_stuck_phase hop,
      fun c hc => (endRun_others hop hc).trans (by rw [stuckAt_branch_ne hc]),
      withRun_trans (endRun_only u b _ _) (lift (fun t : State => t.withRun s) honly rfl rfl),
      fun st hok hstuck hcause => ?_⟩
    obtain rfl : st = stuckStatus o (s.branch b) := eq_stuckStatus hacked hok hstuck hcause
    refine ⟨fun rt htag => endRun_hasRecord hop htag stuckStatus_ne_dataNack, fun data hbody => ⟨fun hkept => ?_, fun hn hna => ?_⟩,
      fun rt data m hbody haborted => ?_, fun rt data g hbody hstate hopen haborted => ?_, fun hwrite => ?_,
      fun i n first e hbody he hunsent => ⟨fun hg huntold hmissing => ?_, fun hstate hall => ?_, fun hstate => ?_⟩⟩
    · rw [endRun_fault_kept hop hbody hkept, hfault]
    · have h := (endRun_posted (status := stuckStatus o (s.branch b)) (stuck := true) hop hbody).failed (not_or.2 ⟨hn, hna⟩)
      rwa [hfault] at h
    · rw [haborted, endRun_groups hop hbody]
      exact (congrArg State.groups honly :)
    · rw [← hgroup] at hbody hstate hopen ⊢
      exact endRun_member hop hbody hstate hopen haborted
    · exact (endRun_write_split hop hwrite).trans (congrArg State.split honly :)
    · have hstatus : stuckStatus o (s.branch b) = .stuck :=
        stuckStatus_untold (allAcked_of_read (isRead_of_piece hbody) _) huntold
      rw [hstatus]
      refine ⟨_, endRun_piece_error hop hbody ((hentry i).trans he) hg hmissing hunsent (by decide) (by decide), rfl, rfl, ?_, rfl⟩
      rw [hflight]
    · obtain ⟨e', he', hestate, hheldBytes, _, hpieces⟩ := endRun_piece_goesOn (status := stuckStatus o (s.branch b))
        (stuck := true) hop hbody ((hentry i).trans he) hstate hunsent (.inr hall)
      exact ⟨e', he', hestate, hheldBytes, hpieces⟩
    · rw [endRun_piece_released hop hbody ((hentry i).trans he) hstate hunsent]
      simp [SplitEntry.dropActive]
  · -- A clear is cut short.
    have hr : runs := by
      show (s.branch b).phase ∈ _
      rw [hphase]
      decide
    have hexec := exec_clockStuck_runs (held := held) (hiff.2 hr) rfl
    rw [judgeClock_clearing (hstuckAt held hr hlimit hheld) hphase] at hexec
    refine ⟨_, hexec, setFlag_flag _ _, ?_, ?_, ?_, ?_, ?_, fun c hc => ?_, ?_⟩
    · rw [branch_modBranch_same, endClear_eq]
      exact Bool.or_true _
    · rw [branch_modBranch_same, endClear_eq]
    · rw [branch_modBranch_same, endClear_eq]
    · rw [branch_modBranch_same, endClear_eq]
    · rw [branch_modBranch_same, endClear_eq, stuckAt_branch]
    · rw [branch_modBranch_ne _ _ _ _ hc, stuckAt_branch_ne hc]
    · exact stuckAt_only s b held
  · exact (congrArg Host.Outcome.next (if_pos hphase)).trans (next_modBranch_congr (endClear_eq (s.branch b) stopMade))
  · have hexceeded : ({ s.branch b with
        busyTimer := max (s.branch b).busyTimer ((s.branch b).busyLimit.toNat * 1000 + 1) } : Branch).busyExceeded = true :=
      (busyExceeded_iff _).2 ⟨henabled, hbus, hflagged, hlimit, Nat.lt_of_lt_of_le (Nat.lt_succ_self _) (Nat.le_max_right _ _)⟩
    refine congrArg Host.Outcome.next ((if_pos ⟨henabled, hbus⟩).trans ?_)
    rw [judgeBusy_of_exceeded (by rw [branch_modBranch_same]; exact hexceeded), modBranch_modBranch]
  · refine congrArg Host.Outcome.next ((if_pos ⟨henabled, hbus⟩).trans ?_)
    rw [modBranch_id, judgeBusy_of_not_exceeded]
    · unfold Branch.busyExceeded
      rw [hflagged]
      simp
    · rw [Nat.max_eq_left (Nat.succ_le_of_lt hcount)]

end Sys2Proof.Machine
end

section
/-! SUPPORT. An engine takes the head of its queue. -/

namespace Sys2Proof.Machine

section
variable {s : State} {b : Fin 4} {o : Operation} {rest : List Operation}

/-! ## The take itself (R73, R90) -/

/-- The branch that has taken operation o off its queue, before its first attempt begins. -/
def Branch.taken (br : Branch) (o : Operation) (rest : List Operation) : Branch :=
  { br with queue := rest, op := some o, retryCount := 0, lastCause := .absent, told := none }

theorem takeOp_branch (s : State) (b : Fin 4) (o : Operation) (rest : List Operation) :
    (s.takeOp b o rest).branch b = ((s.branch b).taken o rest).beginAttempt o := by
  unfold State.takeOp
  dsimp only
  split
  · rw [branch_setEntry, branch_modBranch_same]
    rfl
  · rw [branch_modBranch_same]
    rfl

/-- The piece taken becomes ACTIVE (R45, R73). -/
theorem takeOp_piece {i : Fin 16} {n : Nat} {first : Bool} {e : SplitEntry} (hbody : o.body = .readPiece i n first)
    (he : s.entry i = some e) : (s.takeOp b o rest).entry i = some (e.activate o.offset) := by
  unfold State.takeOp
  rw [hbody]
  dsimp only
  rw [entry_setEntry_same, entry_modBranch, he]
  rfl

/-- An attempt begins with START, in the gap, or behind another party's transfer (R90). -/
theorem beginAttempt_phase_eq (br : Branch) (o : Operation) : (br.beginAttempt o).phase =
    if br.bus ≠ .free then .busyOther else if br.gap.toNat ≤ br.gapTimer then .start else .gap := by
  by_cases hfree : br.bus = .free
  · rw [if_neg (not_not.2 hfree)]
    by_cases hgap : br.gap.toNat ≤ br.gapTimer
    · rw [beginAttempt_starts hfree hgap, if_pos hgap]
      rfl
    · rw [beginAttempt_gap hfree (Nat.lt_of_not_le hgap), if_neg hgap]
  · rw [beginAttempt_busy hfree, if_pos hfree]

/-- START is made at the RATE in force, and the bus is the engine's from there on (R90, R105; log 12). -/
theorem beginAttempt_start {br : Branch} (h : (br.beginAttempt o).phase = .start) :
    (br.beginAttempt o).bus = .busySelf ∧ (br.beginAttempt o).rateInUse = br.rate := by
  by_cases hfree : br.bus = .free
  · by_cases hgap : br.gap.toNat ≤ br.gapTimer
    · rw [beginAttempt_starts hfree hgap]
      exact ⟨rfl, rfl⟩
    · rw [beginAttempt_gap hfree (Nat.lt_of_not_le hgap)] at h
      cases h
  · rw [beginAttempt_busy hfree] at h
    cases h

/-! ## The slot it frees (R48, R72, R137) -/

theorem takeNext_cons (hqueue : (s.branch b).queue = o :: rest) : s.takeNext b = (s.takeOp b o rest).slotFreed b := by
  unfold State.takeNext
  rw [hqueue]

theorem takeNext_ungranted (hqueue : (s.branch b).queue = o :: rest) :
    ((s.takeNext b).branch b).ungranted = (((s.branch b).taken o rest).beginAttempt o).ungranted := by
  rw [takeNext_cons hqueue, (slotFreed_freed _ b).branches b, takeOp_branch]

theorem takeNext_others (hqueue : (s.branch b).queue = o :: rest) {c : Fin 4} (hc : c ≠ b) :
    ((s.takeNext b).branch c).ungranted = (s.branch c).ungranted := by
  rw [takeNext_cons hqueue, (slotFreed_freed _ b).branches c, takeOp_branch_ne s hc]

theorem takeNext_queue (hqueue : (s.branch b).queue = o :: rest) : ∃ more, ((s.takeNext b).branch b).queue = rest ++ more := by
  obtain ⟨more, hmore, _⟩ := (slotFreed_freed (s.takeOp b o rest) b).queues b
  obtain ⟨_, _, _, hkept, _⟩ := beginAttempt_keeps ((s.branch b).taken o rest) o
  refine ⟨more, ?_⟩
  rw [takeNext_cons hqueue, hmore, takeOp_branch, hkept]
  rfl

/-- The entry of the piece taken has it ACTIVE, and may have been granted more pieces behind it (R48, R73). -/
theorem takeNext_entry (hqueue : (s.branch b).queue = o :: rest) {i : Fin 16} {n : Nat} {first : Bool} {e : SplitEntry}
    (hbody : o.body = .readPiece i n first) (he : s.entry i = some e) : ∃ e' new, (s.takeNext b).entry i = some e' ∧
      e'.received = e.received ∧ e'.pieces = (e.activate o.offset).pieces ++ new := by
  have htaken := takeOp_piece (b := b) (rest := rest) hbody he
  obtain ⟨e', new, he', hpieces, _⟩ := slotFreed_appends (s.takeOp b o rest) b i _ htaken
  have hungranted : e'.ungranted = (e.activate o.offset).ungranted := by
    have h := (slotFreed_freed (s.takeOp b o rest) b).entries i
    rw [he', htaken] at h
    exact Option.some.inj h
  exact ⟨e', new, by rw [takeNext_cons hqueue, he'], (congrArg SplitEntry.received hungranted :), hpieces⟩

/-- With no head that waits, the freed slot reaches the queues, the entries and the intake buffer alone. -/
theorem takeNext_slots (hqueue : (s.branch b).queue = o :: rest) (h : s.headHasWaited = false) :
    { s.takeNext b with split := s.split, branches := s.branches, freeCount := s.freeCount, intake := s.intake } = s := by
  have honly := takeOp_only s b o rest
  have hhead : (s.takeOp b o rest).headHasWaited = false := (congrArg State.headHasWaited honly :).trans h
  rw [takeNext_cons hqueue]
  exact lift (fun t : State => t.withSlots s) (slotFreed_slots hhead b) rfl
    (lift (fun t : State => t.withSlots s) honly rfl rfl)

theorem takeNext_frames (hqueue : (s.branch b).queue = o :: rest) :
    (s.takeNext b).intake <:+ s.intake ∧ s.responseQueue <+: (s.takeNext b).responseQueue := by
  have honly := takeOp_only s b o rest
  have hfreed := slotFreed_freed (s.takeOp b o rest) b
  obtain ⟨more, hmore, _⟩ := hfreed.records
  have hframes := hfreed.frames
  rw [show (s.takeOp b o rest).intake = s.intake from (congrArg State.intake honly :)] at hframes
  rw [show (s.takeOp b o rest).responseQueue = s.responseQueue from (congrArg State.responseQueue honly :)] at hmore
  rw [takeNext_cons hqueue]
  exact ⟨hframes, more, hmore.symm⟩

end

/-- Settles O35: the head of the queue in an attempt, the slot it frees, and the states in which nothing is taken. -/
theorem engineTakesOperation : Obligations.EngineTakesOperation := by
  unfold Obligations.EngineTakesOperation
  refine ⟨fun s b o rest hidle hresetting hanswers hqueue hstate => ?_, fun s b hoff => ?_⟩
  · have hmay : s.mayTake b = true :=
      mayTake_iff.2 ⟨hidle, hresetting, hanswers, by rw [hqueue]; nofun, hstate⟩
    obtain ⟨more, hmore⟩ := takeNext_queue hqueue
    obtain ⟨hframes, hrecords⟩ := takeNext_frames hqueue
    have hmine := takeNext_ungranted hqueue
    obtain ⟨hop, hretry, _, _, hcause⟩ := beginAttempt_keeps ((s.branch b).taken o rest) o
    have hphase := (congrArg Branch.phase hmine :)
    refine ⟨s.takeNext b, more, congrArg Host.Outcome.next (if_pos hmay), rfl, (congrArg Branch.op hmine :).trans hop, hmore,
      (congrArg Branch.retryCount hmine :).trans hretry, (congrArg Branch.lastCause hmine :).trans hcause,
      hphase.trans (beginAttempt_phase_eq _ o), fun hstart => ?_, fun i n first e => takeNext_entry hqueue,
      fun c => takeNext_others hqueue, hframes, hrecords, takeNext_only s b, takeNext_slots hqueue⟩
    obtain ⟨hbus, hrate⟩ := beginAttempt_start (hphase.symm.trans hstart)
    exact ⟨(congrArg Branch.bus hmine :).trans hbus, (congrArg Branch.rateInUse hmine :).trans hrate⟩
  · refine congrArg Host.Outcome.next (if_neg fun hmay => ?_)
    obtain ⟨hidle, hresetting, hanswers, hqueue, hstate⟩ := mayTake_iff.1 hmay
    rcases hoff with h | h | h | h | h | h
    · exact h hidle
    · exact Bool.false_ne_true (hresetting.symm.trans h)
    · exact h hanswers
    · exact hqueue h
    · rw [h] at hstate
      revert hstate
      decide
    · rw [h] at hstate
      revert hstate
      decide

end Sys2Proof.Machine
end

section
/-! SUPPORT. A property that each step of a run's end keeps is kept by the run's end, and by the word to end the run. -/

namespace Sys2Proof.Machine

/-- A branch but for its answer list and what the end of its run changes on its engine (R103, R104). -/
def Branch.apartFromRun (br : Branch) : Branch :=
  { br with
    answers := [], phase := .idle, op := none, retryCount := 0, lastCause := .absent, progress := Progress.none
    stopReason := .done, told := none, pauseTimer := 0, pauseLength := 0, stretchCounter := 0, rateInUse := br.rate }

/-- A property of states that each step of a run's end keeps: the engine's own changes and its answers, the fault record and the
reports, what the outcome does to an entry, the takers of a freed slot, the freeing of an entry, and the polls that follow. -/
structure KeptByRun (P : State → Prop) : Prop where
  attn : ∀ s b f, P s → P (s.modAttn b f)
  flag : ∀ s f, P s → P (s.setFlag f)
  choice : ∀ s t, { t with freeCount := s.freeCount } = s → P s → P t
  enter : ∀ s i e ages, s.entry i = none → (s.branch e.route.branch).enabled = true → P s →
    P { s.setEntry i (some e) with ageOrder := ages }
  grant : ∀ s, P s → P s.grantPass
  settle : ∀ s i e o n first status, s.entry i = some e → P s → P (s.settlePiece i e o n first status)
  slot : ∀ s b, P s → P (s.slotFreed b)
  free : ∀ s i e ages, s.entry i = some e → e.finalSent = true → P s → P { s.setEntry i none with ageOrder := ages }
  fault : ∀ s f, P s → P { s with fault := some f }
  answer : ∀ s b r, P s → P (s.addAnswer b r)
  report : ∀ s member ok, P s → P (s.reportMember member ok)
  engine : ∀ s b f, (∀ br, (f br).apartFromRun = br.apartFromRun ∧ (f br).answers = br.answers) → P s → P (s.modBranch b f)

section
variable {P : State → Prop} {s : State}

/-! ## Polls (R161 to R163) -/

/-- A route found leads to an enabled branch (R6). -/
theorem routeFor_enabled {ldn : Byte} {kind : AccessKind} {requester : Option (BitVec 3)} {offset size : Nat} {r : Route}
    (h : s.routeFor ldn kind requester offset size = .ok r) : (s.branch r.branch).enabled = true := by
  unfold State.routeFor at h
  split at h
  · cases h
  · rename_i r' hresolved
    split at h
    · cases h
      unfold State.resolve at hresolved
      repeat' split at hresolved
      all_goals cases hresolved
      rename_i henabled
      simpa using henabled
    · cases h

theorem freePlace_empty {i : Fin 16} (h : s.freePlace = some i) : s.entry i = none :=
  Option.isNone_iff_eq_none.1 (List.find?_some h :)

theorem KeptByRun.attemptPoll (k : KeptByRun P) (h : P s) (b : Fin 4) : P (s.attemptPoll b) := by
  have hunroutable : P (s.pollUnroutable b) := k.flag _ _ (k.attn _ _ _ h)
  unfold State.attemptPoll
  dsimp only
  split
  · exact hunroutable
  · split
    · exact hunroutable
    · rename_i r hroute
      split
      · exact k.attn _ _ _ h
      · rename_i i hplace
        exact k.grant _ (k.enter (s.modAttn b _) i _ _ (freePlace_empty hplace) (routeFor_enabled hroute) (k.attn _ _ _ h))

theorem KeptByRun.claimOver (k : KeptByRun P) (bs : List (Fin 4)) {s : State} (h : P s) : P (s.claimOver bs) := by
  induction bs generalizing s with
  | nil => exact h
  | cons b rest ih =>
    unfold State.claimOver
    split
    · exact ih (k.attemptPoll h b)
    · exact ih h

theorem KeptByRun.claims (k : KeptByRun P) (h : P s) : P s.claims := by
  unfold State.claims
  split
  · exact k.claimOver four h
  · exact h

theorem KeptByRun.endHoldoff (k : KeptByRun P) (h : P s) (b : Fin 4) : P (s.endHoldoff b) := by
  unfold State.endHoldoff
  dsimp only
  split
  · exact k.attemptPoll (k.attn _ _ _ h) b
  · split
    · exact k.attn _ _ _ (k.attn _ _ _ h)
    · exact k.attn _ _ _ h

theorem KeptByRun.pollFreed (k : KeptByRun P) (h : P s) (b : Fin 4) : P (s.pollFreed b) := by
  unfold State.pollFreed
  dsimp only
  split
  · exact k.claims (k.attn _ _ _ h)
  · split
    · rename_i s2 hp
      exact k.claims (k.endHoldoff (k.choice _ _ (pick_only _ _ _ _ hp) (k.attn _ _ _ h)) b)
    · rename_i s2 hp
      exact k.endHoldoff (k.claims (k.choice _ _ (pick_only _ _ _ _ hp) (k.attn _ _ _ h))) b
    · exact k.attn _ _ _ h

/-! ## The outcome of a run (R53 to R56, R76 to R79) -/

theorem KeptByRun.freeIfDone (k : KeptByRun P) (h : P s) (i : Fin 16) : P (s.freeIfDone i) := by
  unfold State.freeIfDone
  split
  · exact h
  · rename_i e he
    split
    · rename_i hdone
      have hfreed (ages : List (Fin 16)) : P { s.setEntry i none with ageOrder := ages } :=
        k.free s i e ages he (Bool.and_eq_true_iff.1 hdone).1 h
      unfold State.freeEntry
      rw [he]
      dsimp only
      split
      · exact k.claims (hfreed _)
      · exact k.pollFreed (hfreed _) _
    · exact h

theorem KeptByRun.pieceEnd (k : KeptByRun P) (h : P s) (i : Fin 16) (o : Operation) (n : Nat) (first : Bool)
    (status : Status) : P (s.pieceEnd i o n first status) := by
  unfold State.pieceEnd
  split
  · exact h
  · rename_i e he
    exact k.freeIfDone (k.slot _ _ (k.settle s i e o n first status he h)) i

theorem KeptByRun.handOn (k : KeptByRun P) (h : P s) (b : Fin 4) (o : Operation) (status : Status) (n : Nat) :
    P (s.handOn b o status n) := by
  unfold State.handOn
  split
  · exact k.pieceEnd h _ o _ _ status
  · split
    · exact h
    · exact k.flag _ _ (k.fault s _ h)
  · exact k.answer s b _ h
  · dsimp only
    split
    · exact k.answer s b _ h
    · exact k.report _ _ _ (k.answer s b _ h)

/-! ## The end of the run, and the word to end it (R103, R104) -/

theorem KeptByRun.endStalls (k : KeptByRun P) (fuel : Nat) {s : State} (h : P s) : P (s.endStalls fuel) := by
  induction fuel generalizing s with
  | zero => exact h
  | succ n ih =>
    unfold State.endStalls
    split
    · split
      · exact h
      · rename_i b s' hp
        exact ih (k.engine s' b _ (fun _ => ⟨rfl, rfl⟩) (k.choice _ _ (pick_only _ _ _ _ hp) h))
    · exact h

theorem KeptByRun.roomFreed (k : KeptByRun P) (h : P s) : P s.roomFreed := k.endStalls 4 h

theorem afterRun_apart (br : Branch) (stuck : Bool) :
    (br.afterRun stuck).apartFromRun = br.apartFromRun ∧ (br.afterRun stuck).answers = br.answers := by
  obtain ⟨rate, counter, h⟩ := afterRun_eq br stuck
  rw [h]
  exact ⟨rfl, rfl⟩

theorem KeptByRun.endRun (k : KeptByRun P) (h : P s) (b : Fin 4) (status : Status) (stuck : Bool) :
    P (s.endRun b status stuck) := by
  cases ho : (s.branch b).op with
  | none =>
    unfold State.endRun
    rw [ho]
    exact h
  | some o =>
    rw [endRun_eq ho]
    exact k.roomFreed (k.engine _ b _ (fun br => afterRun_apart br stuck)
      (k.handOn (k.engine s b Branch.dropOp (fun _ => ⟨rfl, rfl⟩) h) b o status _))

theorem KeptByRun.tellEnd (k : KeptByRun P) (h : P s) (b : Fin 4) (cause : EndCause) : P (s.tellEnd b cause) := by
  unfold State.tellEnd
  dsimp only
  split
  · exact h
  · split
    · exact k.endRun h b _ _
    · exact k.roomFreed (k.engine s b _ (fun _ => ⟨rfl, rfl⟩) h)

end

/-! ## Records and the fault record stay (R77, R80, R81) -/

section
variable {b : Fin 4} {r : Record}

theorem hasRecord_of_same {s t : State} (h : s.HasRecord b r) (hqueue : t.responseQueue = s.responseQueue)
    (hanswers : (t.branch b).answers = (s.branch b).answers) : t.HasRecord b r := by
  unfold State.HasRecord
  rw [hqueue, hanswers]
  exact h

theorem addAnswer_keepsRecord {s : State} (h : s.HasRecord b r) (c : Fin 4) (x : Record) : (s.addAnswer c x).HasRecord b r := by
  unfold State.HasRecord at h ⊢
  unfold State.addAnswer
  rw [List.mem_append] at h ⊢
  split
  · exact h.imp_left (List.mem_append_left _)
  · by_cases hc : b = c
    · subst hc
      rw [branch_modBranch_same]
      exact h.imp_right (List.mem_append_left _)
    · rw [branch_modBranch_ne _ _ _ _ hc]
      exact h

/-- A record made for a write stays in the Response Queue or in its branch's answer list. -/
theorem hasRecord_keptByRun (b : Fin 4) (r : Record) : KeptByRun fun s => s.HasRecord b r where
  attn _ _ _ h := h
  flag s f h := hasRecord_of_same h (setFlag_responseQueue s f) (congrArg Branch.answers (setFlag_branch s f b))
  choice _ _ hpick h :=
    hasRecord_of_same h (congrArg State.responseQueue hpick :) (congrArg (fun t : State => (t.branch b).answers) hpick :)
  enter _ _ _ _ _ _ h := h
  grant s h := hasRecord_of_same h (congrArg State.responseQueue (grantPass_only s) :)
    (congrArg Branch.answers ((grantPass_granted s).branches b) :)
  settle s i e o n first status _ h := hasRecord_of_same h
    (congrArg State.responseQueue (settlePiece_only s i e o n first status) :)
    (congrArg Branch.answers (settlePiece_ungranted s i e o n first status b) :)
  slot s c h := by
    obtain ⟨more, hmore, _⟩ := (slotFreed_freed s c).records
    have hanswers : ((s.slotFreed c).branch b).answers = (s.branch b).answers :=
      (congrArg Branch.answers ((slotFreed_freed s c).branches b) :)
    unfold State.HasRecord at h ⊢
    rw [hmore, hanswers, List.append_assoc, List.mem_append, List.mem_append]
    rcases List.mem_append.1 h with h | h
    · exact .inl h
    · exact .inr (.inr h)
  free _ _ _ _ _ _ h := h
  fault _ _ h := h
  answer _ c x h := addAnswer_keepsRecord h c x
  report s member ok h := hasRecord_of_same h (reportMember_responseQueue s member ok)
    (congrArg Branch.answers (reportMember_branch s member ok b))
  engine s c f hf h := by
    refine hasRecord_of_same h rfl ?_
    by_cases hc : b = c
    · subst hc
      rw [branch_modBranch_same]
      exact (hf _).2
    · rw [branch_modBranch_ne _ _ _ _ hc]

/-- A fault record that is occupied stays so. -/
theorem fault_keptByRun : KeptByRun fun s => s.fault ≠ none where
  attn _ _ _ h := h
  flag s f h := by rwa [show (s.setFlag f).fault = s.fault from (congrArg State.fault (setFlag_only s f) :)]
  choice s t hpick h := by rwa [show t.fault = s.fault from (congrArg State.fault hpick :)]
  enter _ _ _ _ _ _ h := h
  grant s h := by rwa [show s.grantPass.fault = s.fault from (congrArg State.fault (grantPass_only s) :)]
  settle s i e o n first status _ h := by
    rwa [show (s.settlePiece i e o n first status).fault = s.fault from
      (congrArg State.fault (settlePiece_only s i e o n first status) :)]
  slot s c h := by rwa [show (s.slotFreed c).fault = s.fault from (congrArg State.fault (slotFreed_only s c) :)]
  free _ _ _ _ _ _ h := h
  fault _ _ _ := Option.some_ne_none _
  answer s c x h := by rwa [show (s.addAnswer c x).fault = s.fault from (congrArg State.fault (addAnswer_only s c x) :)]
  report s member ok h := by
    rwa [show (s.reportMember member ok).fault = s.fault from (congrArg State.fault (reportMember_only s member ok) :)]
  engine _ _ _ _ h := h

/-! ## What the run's end leaves of a branch -/

/-- All that the end of a run leaves of branch b: ENABLED, RATE, the bus and its watch among it. -/
theorem apart_keptByRun (b : Fin 4) (x : Branch) : KeptByRun fun s => (s.branch b).ungranted.apartFromRun = x where
  attn _ _ _ h := h
  flag s f h := by rwa [setFlag_branch]
  choice s t hpick h := by rwa [show t.branch b = s.branch b from (congrArg (fun t : State => t.branch b) hpick :)]
  enter _ _ _ _ _ _ h := h
  grant s h := by rwa [(grantPass_granted s).branches b]
  settle s i e o n first status _ h := by rwa [settlePiece_ungranted]
  slot s c h := by rwa [(slotFreed_freed s c).branches b]
  free _ _ _ _ _ _ h := h
  fault _ _ h := h
  answer s c r h := by
    refine Eq.trans ?_ h
    exact (congrArg (fun br : Branch => br.apartFromRun) (addAnswer_unposted s c r b) :)
  report s member ok h := by rwa [reportMember_branch]
  engine s c f hf h := by
    refine Eq.trans ?_ h
    by_cases hc : b = c
    · subst hc
      rw [branch_modBranch_same]
      exact (congrArg Branch.ungranted (hf _).1 :)
    · rw [branch_modBranch_ne _ _ _ _ hc]

end

end Sys2Proof.Machine
end

section
/-! SUPPORT. What a branch reset leaves behind while the run it ends hands on its outcome: the emptied queue, which takes only reads
and timed writes, and the entries that it has closed. -/

namespace Sys2Proof.Machine

/-! ## What the end of a piece does to the entries and the queues (R53 to R56) -/

section
variable {s t : State} {i : Fin 16} {e : SplitEntry} {o : Operation} {n : Nat} {first : Bool} {status : Status}

/-- The entry keeps its route, and gathers no longer unless it did; its QUEUED pieces may leave their queue. -/
theorem settlePiece_cases (s : State) (i : Fin 16) (e : SplitEntry) (o : Operation) (n : Nat) (first : Bool)
    (status : Status) : ∃ e1 : SplitEntry, e1.route = e.route ∧ (e1.state = e.state ∨ e1.state = .closing) ∧
      (s.settlePiece i e o n first status = s.setEntry i (some e1) ∨
        s.settlePiece i e o n first status = (s.setEntry i (some e1)).dropQueued i e.route.branch) := by
  unfold State.settlePiece
  split
  · split
    · exact ⟨e.holdActive, rfl, .inl rfl, .inl rfl⟩
    · split
      · refine ⟨_, ?_, .inr rfl, .inr rfl⟩
        dsimp only
        split <;> rfl
      · refine ⟨{ e.dropActive.onlyActive with
          state := .closing, finalStatus := some status, held := e.held.take (s.bytesInFlight i) }, rfl, .inr rfl, .inr ?_⟩
        unfold State.endEntry
        rw [entry_setEntry_same]
        dsimp only
        rw [setEntry_setEntry]
        rfl
  · exact ⟨e.dropActive, rfl, .inl rfl, .inl rfl⟩

theorem settlePiece_entry_ne {j : Fin 16} (h : j ≠ i) (s : State) (e : SplitEntry) (o : Operation) (n : Nat) (first : Bool)
    (status : Status) : (s.settlePiece i e o n first status).entry j = s.entry j := by
  obtain ⟨e1, _, _, hsettled | hsettled⟩ := settlePiece_cases s i e o n first status
  · rw [hsettled, entry_setEntry_ne _ _ _ _ h]
  · rw [hsettled]
    unfold State.dropQueued
    rw [entry_modBranch, entry_setEntry_ne _ _ _ _ h]

theorem mem_dropQueued {b c : Fin 4} {x : Operation} (h : x ∈ ((s.dropQueued i b).branch c).queue) : x ∈ (s.branch c).queue := by
  unfold State.dropQueued at h
  by_cases hc : c = b
  · subst hc
    rw [branch_modBranch_same] at h
    exact (List.mem_filter.1 h).1
  · rwa [branch_modBranch_ne _ _ _ _ hc] at h

theorem mem_settlePiece {c : Fin 4} {x : Operation} (h : x ∈ ((s.settlePiece i e o n first status).branch c).queue) :
    x ∈ (s.branch c).queue := by
  obtain ⟨e1, _, _, hsettled | hsettled⟩ := settlePiece_cases s i e o n first status
  · rwa [hsettled, branch_setEntry] at h
  · rw [hsettled] at h
    have hkept := mem_dropQueued h
    rwa [branch_setEntry] at hkept

/-! ## Branches on which no entry gathers -/

/-- No GATHERING entry has its pieces on branch b. -/
def State.NoneGathers (s : State) (b : Fin 4) : Prop :=
  ∀ i e, s.entry i = some e → e.state = .gathering → e.route.branch ≠ b

theorem State.NoneGathers.of_entries {b : Fin 4} (h : s.NoneGathers b) (hentries : ∀ i, t.entry i = s.entry i) : t.NoneGathers b :=
  fun i e he => h i e ((hentries i).symm.trans he)

theorem State.NoneGathers.of_ungranted {b : Fin 4} (h : s.NoneGathers b)
    (hentries : ∀ i, (t.entry i).map SplitEntry.ungranted = (s.entry i).map SplitEntry.ungranted) : t.NoneGathers b := by
  intro i e he hg
  have hmap := hentries i
  rw [he, Option.map_some] at hmap
  obtain ⟨e0, he0, hsame⟩ := Option.map_eq_some_iff.1 hmap.symm
  have hstate : e0.state = e.state := (congrArg SplitEntry.state hsame :)
  have hroute : e0.route = e.route := (congrArg SplitEntry.route hsame :)
  rw [← hroute]
  exact h i e0 he0 (hstate.trans hg)

/-- An entry replaced by one that does not gather on the branch either. -/
theorem State.NoneGathers.setEntry {b : Fin 4} (h : s.NoneGathers b) {x : Option SplitEntry}
    (hx : ∀ e, x = some e → e.state = .gathering → e.route.branch ≠ b) : (s.setEntry i x).NoneGathers b := by
  intro j e he
  by_cases hj : j = i
  · subst hj
    rw [entry_setEntry_same] at he
    exact hx e he
  · rw [entry_setEntry_ne _ _ _ _ hj] at he
    exact h j e he

theorem State.NoneGathers.settlePiece {b : Fin 4} (h : s.NoneGathers b) (he : s.entry i = some e) (o : Operation) (n : Nat)
    (first : Bool) (status : Status) : (s.settlePiece i e o n first status).NoneGathers b := by
  obtain ⟨e1, hroute, hstate, hsettled⟩ := settlePiece_cases s i e o n first status
  have hset : (s.setEntry i (some e1)).NoneGathers b := h.setEntry fun x hx hg => by
    cases hx
    rw [hroute]
    refine h i e he ?_
    rcases hstate with h1 | h1
    · exact h1.symm.trans hg
    · exact absurd (h1.symm.trans hg) nofun
  rcases hsettled with hsettled | hsettled
  · rwa [hsettled]
  · rw [hsettled]
    exact State.NoneGathers.of_entries hset fun _ => entry_modBranch _ _ _ _

/-- A grant pass leaves the queue of a branch on which no entry gathers (R48). -/
theorem grantEntry_queue_off {b : Fin 4} (i : Fin 16) (fuel : Nat) {s : State} (h : s.NoneGathers b) :
    ((s.grantEntry i fuel).1.branch b).queue = (s.branch b).queue := by
  induction fuel generalizing s with
  | zero => rfl
  | succ n ih =>
    unfold State.grantEntry
    split
    · rfl
    · rename_i e he
      split
      · rfl
      · rename_i hgather
        split
        · rfl
        · rename_i hdepth
          dsimp only
          split
          · rfl
          · rename_i hcommit
            obtain ⟨hg, _⟩ := not_or.1 hgather
            have hgathers : e.state = .gathering := not_not.1 hg
            have hcreated := createPiece_granted s i e _ he hgathers (Nat.lt_of_not_le hdepth) (Nat.le_of_not_lt hcommit)
            refine (ih (State.NoneGathers.of_ungranted h hcreated.entries)).trans ?_
            unfold State.createPiece
            rw [branch_modBranch_ne _ _ _ _ (h i e he hgathers).symm, branch_setEntry]

theorem grantPass_queue_off {b : Fin 4} {s : State} (h : s.NoneGathers b) : (s.grantPass.branch b).queue = (s.branch b).queue := by
  have hover (places : List (Fin 16)) {s : State} (h : s.NoneGathers b) :
      ((s.grantOver places).branch b).queue = (s.branch b).queue := by
    induction places generalizing s with
    | nil => rfl
    | cons i rest ih =>
      have hentry := grantEntry_queue_off i (uncreatedOf (s.entry i)) h
      have hgranted := grantEntry_granted i (uncreatedOf (s.entry i)) s
      unfold State.grantOver
      split
      · rename_i s' heq
        rw [heq] at hentry hgranted
        exact (ih (State.NoneGathers.of_ungranted h hgranted.entries)).trans hentry
      · rename_i s' heq
        rw [heq] at hentry
        exact hentry
  exact hover s.ageOrder h

end

/-! ## A queue that takes reads and timed writes alone (R72, R136) -/

/-- Behind a branch reset the queue of branch b takes pieces and the writes of the Release Queue q alone, and stays empty while the
branch is disabled. -/
structure FedByReleases (q : List ReleaseEntry) (b : Fin 4) (s : State) : Prop where
  frames : s.intake = []
  releases : ∀ e ∈ s.releaseQueue, ∃ e' ∈ q, e'.rt = e.rt
  queue : ∀ o ∈ (s.branch b).queue, o.isRead = true ∨ ∃ e ∈ q, o.tag? = some e.rt
  off : (s.branch b).enabled = false → (s.branch b).queue = [] ∧ s.NoneGathers b

section
variable {q : List ReleaseEntry} {b : Fin 4} {s t : State}

theorem FedByReleases.keep (h : FedByReleases q b s) (hframes : t.intake = s.intake) (hreleases : t.releaseQueue = s.releaseQueue)
    (hqueue : ∀ o ∈ (t.branch b).queue, o ∈ (s.branch b).queue) (henabled : (t.branch b).enabled = (s.branch b).enabled)
    (hentries : s.NoneGathers b → t.NoneGathers b) : FedByReleases q b t where
  frames := hframes.trans h.frames
  releases := by
    rw [hreleases]
    exact h.releases
  queue o ho := h.queue o (hqueue o ho)
  off hoff := by
    obtain ⟨hempty, hnone⟩ := h.off (henabled.symm.trans hoff)
    refine ⟨List.eq_nil_iff_forall_not_mem.2 fun o ho => ?_, hentries hnone⟩
    have hmem := hqueue o ho
    rw [hempty] at hmem
    exact List.not_mem_nil hmem

/-- The change leaves the branches and the entries. -/
theorem FedByReleases.keepBranch (h : FedByReleases q b s) (hframes : t.intake = s.intake)
    (hreleases : t.releaseQueue = s.releaseQueue) (hbranch : t.branch b = s.branch b) (hentries : ∀ i, t.entry i = s.entry i) :
    FedByReleases q b t :=
  h.keep hframes hreleases (by rw [hbranch]; exact fun _ ho => ho) (by rw [hbranch]) fun hnone =>
    State.NoneGathers.of_entries hnone hentries

theorem FedByReleases.grantPass (h : FedByReleases q b s) : FedByReleases q b s.grantPass := by
  have hgranted := grantPass_granted s
  have hrest := grantPass_only s
  have henabled : (s.grantPass.branch b).enabled = (s.branch b).enabled := (congrArg Branch.enabled (hgranted.branches b) :)
  refine ⟨(congrArg State.intake hrest :).trans h.frames, ?_, fun o ho => ?_, fun hoff => ?_⟩
  · rw [show s.grantPass.releaseQueue = s.releaseQueue from (congrArg State.releaseQueue hrest :)]
    exact h.releases
  · obtain ⟨more, hmore, hpieces, _⟩ := hgranted.queues b
    rw [hmore] at ho
    rcases List.mem_append.1 ho with ho | ho
    · exact h.queue o ho
    · obtain ⟨_, _, _, _, hbody, _⟩ := hpieces o ho
      exact .inl (isRead_of_piece hbody)
  · obtain ⟨hempty, hnone⟩ := h.off (henabled.symm.trans hoff)
    exact ⟨(grantPass_queue_off hnone).trans hempty, State.NoneGathers.of_ungranted hnone hgranted.entries⟩

/-- What the judgement of the head puts in a queue is the head's write, on an enabled branch (R136). -/
theorem judgeHead_queue (h : s.judgeHead = some t) (b : Fin 4) : (t.branch b).queue = (s.branch b).queue ∨
    (s.branch b).enabled = true ∧ ∃ e ∈ s.releaseQueue, ∃ o : Operation, o.tag? = some e.rt ∧
      (t.branch b).queue = (s.branch b).queue ++ [o] := by
  have hwaits {e : ReleaseEntry} {rest : List ReleaseEntry} (h : s.headWaits e rest = some t) :
      (t.branch b).queue = (s.branch b).queue := (congrArg (fun t : State => (t.branch b).queue) (headWaits_only s t e rest h) :)
  unfold State.judgeHead at h
  split at h
  · cases h
  · rename_i e rest hq
    split at h
    · unfold State.abortHead at h
      split at h <;> cases h
      exact .inl rfl
    · split at h
      · split at h
        · rename_i member route offset data _
          unfold State.judgeWrite at h
          split at h
          · rename_i henabled
            split at h
            · cases h
              unfold State.releaseInto
              by_cases hb : b = route.branch
              · subst hb
                rw [branch_modBranch_same]
                exact .inr ⟨henabled, e, by rw [hq]; exact List.mem_cons_self, _, rfl, rfl⟩
              · rw [branch_modBranch_ne _ _ _ _ hb]
                exact .inl rfl
            · exact .inl (hwaits h)
          · split at h
            · cases h
              rw [reportMember_branch]
              exact .inl rfl
            · exact .inl (hwaits h)
        · unfold State.judgeLatch at h
          split at h
          · cases h
            exact .inl rfl
          · exact .inl (hwaits h)
      · cases h

theorem FedByReleases.judgeHead (h : FedByReleases q b s) (hj : s.judgeHead = some t) : FedByReleases q b t := by
  obtain ⟨e, rest, hq, hjudged⟩ := judgeHead_judged hj
  have hfreed := hjudged.freed
  have henabled : (t.branch b).enabled = (s.branch b).enabled := (congrArg Branch.enabled (hfreed.branches b) :)
  have hnone (hnone : s.NoneGathers b) : t.NoneGathers b :=
    State.NoneGathers.of_entries hnone (entry_of_split (judgeHead_split hj))
  have hframes := hfreed.frames
  rw [h.frames] at hframes
  refine ⟨List.eq_nil_of_suffix_nil hframes, fun x hx => ?_, fun o ho => ?_, fun hoff => ?_⟩
  · have hold := h.releases
    rw [hq] at hold
    rcases hjudged.head with hhead | ⟨_, hhead⟩
    · rw [hhead] at hx
      exact hold x (List.mem_cons_of_mem _ hx)
    · rw [hhead] at hx
      rcases List.mem_cons.1 hx with rfl | hx
      · exact hold e List.mem_cons_self
      · exact hold x (List.mem_cons_of_mem _ hx)
  · rcases judgeHead_queue hj b with hsame | ⟨_, x, hx, write, htag, hmore⟩
    · rw [hsame] at ho
      exact h.queue o ho
    · rw [hmore] at ho
      rcases List.mem_append.1 ho with ho | ho
      · exact h.queue o ho
      · obtain ⟨x', hx', hrt⟩ := h.releases x hx
        rw [List.mem_singleton.1 ho]
        exact .inr ⟨x', hx', htag.trans (congrArg some hrt.symm)⟩
  · obtain ⟨hempty, hgathers⟩ := h.off (henabled.symm.trans hoff)
    rcases judgeHead_queue hj b with hsame | ⟨hon, _⟩
    · exact ⟨hsame.trans hempty, hnone hgathers⟩
    · exact absurd (hon.symm.trans (henabled.symm.trans hoff)) nofun

theorem FedByReleases.judgeRun (fuel : Nat) {s : State} (h : FedByReleases q b s) : FedByReleases q b (s.judgeRun fuel) := by
  induction fuel generalizing s with
  | zero => exact h
  | succ n ih =>
    unfold State.judgeRun
    split
    · exact h
    · rename_i hj
      exact ih (h.judgeHead hj)

theorem FedByReleases.choice (h : FedByReleases q b s) (hpick : { t with freeCount := s.freeCount } = s) : FedByReleases q b t :=
  h.keepBranch (congrArg State.intake hpick :) (congrArg State.releaseQueue hpick :)
    (congrArg (fun t : State => t.branch b) hpick :) fun i => (congrArg (fun t : State => t.entry i) hpick :)

/-- With an empty intake buffer the takers of a freed slot are the Release Queue's head and the grant pass (R72, R137). -/
theorem FedByReleases.slotFreedIn (c : Fin 4) (fuel : Nat) {s : State} (h : FedByReleases q b s) :
    FedByReleases q b (s.slotFreedIn c fuel) := by
  induction fuel generalizing s with
  | zero => exact h.grantPass
  | succ n ih =>
    obtain ⟨x, s', hp, heq | ⟨t, ht, heq⟩ | ⟨_, t, ht, heq⟩⟩ := slotFreedIn_turn s c n
    all_goals
      rw [heq]
      have h' : FedByReleases q b s' := h.choice (pick_only _ _ _ _ hp)
    · exact h'.grantPass
    · have hj : s'.judgeHead = some t := by
        unfold State.headTakesSlot at ht
        split at ht
        · exact ht
        · cases ht
      exact ih (FedByReleases.judgeRun _ (h'.judgeHead hj))
    · obtain ⟨f, rest, _, hframes, _⟩ := intakeTakesSlot_write ht
      rw [h'.frames] at hframes
      cases hframes

theorem FedByReleases.settlePiece (h : FedByReleases q b s) {i : Fin 16} {e : SplitEntry} (he : s.entry i = some e)
    (o : Operation) (n : Nat) (first : Bool) (status : Status) : FedByReleases q b (s.settlePiece i e o n first status) :=
  have honly := settlePiece_only s i e o n first status
  h.keep (congrArg State.intake honly :) (congrArg State.releaseQueue honly :) (fun _ ho => mem_settlePiece ho)
    (congrArg Branch.enabled (settlePiece_ungranted s i e o n first status b) :) fun hnone => hnone.settlePiece he o n first status

/-- An answer leaves its branch but for the list and the PHASE. -/
theorem addAnswer_unanswered (s : State) (b : Fin 4) (r : Record) (c : Fin 4) :
    { (s.addAnswer b r).branch c with answers := [], phase := .idle } = { s.branch c with answers := [], phase := .idle } := by
  unfold State.addAnswer
  split
  · rfl
  · by_cases hc : c = b
    · subst hc
      rw [branch_modBranch_same]
    · rw [branch_modBranch_ne _ _ _ _ hc]

theorem fedByReleases_keptByRun (q : List ReleaseEntry) (b : Fin 4) : KeptByRun (FedByReleases q b) where
  attn _ _ _ h := h.keepBranch rfl rfl rfl fun _ => rfl
  flag s f h := h.keepBranch (setFlag_intake s f) (congrArg State.releaseQueue (setFlag_only s f) :) (setFlag_branch s f b)
    (setFlag_entry s f)
  choice _ _ hpick h := h.choice hpick
  enter s i e ages _ henabled h := by
    refine ⟨h.frames, h.releases, h.queue, fun hoff => ?_⟩
    obtain ⟨hempty, hnone⟩ := h.off hoff
    refine ⟨hempty, State.NoneGathers.setEntry hnone fun x hx _ hroute => ?_⟩
    cases hx
    rw [hroute] at henabled
    exact Bool.false_ne_true (hoff.symm.trans henabled)
  grant _ h := h.grantPass
  settle _ _ _ o n first status he h := h.settlePiece he o n first status
  slot _ c h := FedByReleases.slotFreedIn c _ h
  free s i _ _ _ _ h := ⟨h.frames, h.releases, h.queue, fun hoff =>
    ⟨(h.off hoff).1, State.NoneGathers.setEntry (h.off hoff).2 fun _ hnone => absurd hnone.symm (Option.some_ne_none _)⟩⟩
  fault _ _ h := h.keepBranch rfl rfl rfl fun _ => rfl
  answer s c r h := by
    have honly := addAnswer_only s c r
    have hbranch := addAnswer_unanswered s c r b
    have hqueue : ((s.addAnswer c r).branch b).queue = (s.branch b).queue := (congrArg Branch.queue hbranch :)
    exact h.keep (congrArg State.intake honly :) (congrArg State.releaseQueue honly :)
      (by rw [hqueue]; exact fun _ ho => ho) (congrArg Branch.enabled hbranch :)
      fun hnone => State.NoneGathers.of_entries hnone fun i => (congrArg (fun t : State => t.entry i) honly :)
  report s member ok h := by
    have honly := reportMember_only s member ok
    exact h.keepBranch (congrArg State.intake honly :) (congrArg State.releaseQueue honly :) (reportMember_branch s member ok b)
      fun i => (congrArg (fun t : State => t.entry i) honly :)
  engine s c f hf h := by
    have hbranch : ((s.modBranch c f).branch b).apartFromRun = (s.branch b).apartFromRun := by
      by_cases hc : b = c
      · subst hc
        rw [branch_modBranch_same]
        exact (hf _).1
      · rw [branch_modBranch_ne _ _ _ _ hc]
    have hqueue : ((s.modBranch c f).branch b).queue = (s.branch b).queue := (congrArg Branch.queue hbranch :)
    exact h.keep rfl rfl (by rw [hqueue]; exact fun _ ho => ho) (congrArg Branch.enabled hbranch :)
      fun hnone => State.NoneGathers.of_entries hnone fun _ => entry_modBranch _ _ _ _

end

/-! ## A closed entry stands (R58, R66) -/

/-- The entry of place i stands as e but for pieces that have been released. -/
def State.StandsClosed (s : State) (i : Fin 16) (e : SplitEntry) : Prop :=
  ∃ pieces, s.entry i = some { e with pieces := pieces } ∧ ∀ p ∈ pieces, p ∈ e.pieces

section
variable {s t : State} {i : Fin 16} {e : SplitEntry}

theorem State.StandsClosed.of_entry (h : s.StandsClosed i e) (hentry : t.entry i = s.entry i) : t.StandsClosed i e := by
  obtain ⟨pieces, he, hpieces⟩ := h
  exact ⟨pieces, hentry.trans he, hpieces⟩

theorem State.StandsClosed.settlePiece (h : s.StandsClosed i e) (hclosing : e.state = .closing) {j : Fin 16} {x : SplitEntry}
    (hx : s.entry j = some x) (o : Operation) (n : Nat) (first : Bool) (status : Status) :
    (s.settlePiece j x o n first status).StandsClosed i e := by
  by_cases hj : i = j
  · subst hj
    obtain ⟨pieces, he, hpieces⟩ := h
    obtain rfl : x = { e with pieces := pieces } := Option.some.inj (hx.symm.trans he)
    have hreleased := settlePiece_released (s := s) (i := i) (e := { e with pieces := pieces }) (o := o) (n := n)
      (first := first) (status := status) (.inl hclosing)
    rw [hreleased]
    exact ⟨_, entry_setEntry_same _ _ _, fun p hp => hpieces p (List.mem_filter.1 hp).1⟩
  · exact State.StandsClosed.of_entry h (settlePiece_entry_ne hj s x o n first status)

/-- An entry that is CLOSING with its FINAL frame not sent stands through the end of a run: only its ACTIVE piece may go. -/
theorem standsClosed_keptByRun (hclosing : e.state = .closing) (hunsent : e.finalSent = false) :
    KeptByRun fun s => s.StandsClosed i e where
  attn _ _ _ h := h
  flag s f h := State.StandsClosed.of_entry h (setFlag_entry s f i)
  choice _ _ hpick h := State.StandsClosed.of_entry h (congrArg (fun t : State => t.entry i) hpick :)
  enter s j x ages hempty _ h := by
    obtain ⟨pieces, he, hpieces⟩ := h
    have hj : i ≠ j := by
      rintro rfl
      cases he.symm.trans hempty
    exact ⟨pieces, (entry_setEntry_ne _ _ _ _ hj).trans he, hpieces⟩
  grant s h := by
    obtain ⟨pieces, he, hpieces⟩ := h
    exact ⟨pieces, grantPass_still he (by show e.state ≠ _; rw [hclosing]; decide), hpieces⟩
  settle _ _ _ o n first status hx h := h.settlePiece hclosing hx o n first status
  slot s c h := by
    obtain ⟨pieces, he, hpieces⟩ := h
    exact ⟨pieces, slotFreed_still he (by show e.state ≠ _; rw [hclosing]; decide) c, hpieces⟩
  free s j x ages hx hsent h := by
    obtain ⟨pieces, he, hpieces⟩ := h
    have hj : i ≠ j := by
      rintro rfl
      obtain rfl : x = { e with pieces := pieces } := Option.some.inj (hx.symm.trans he)
      exact Bool.false_ne_true (hunsent.symm.trans hsent)
    exact ⟨pieces, (entry_setEntry_ne _ _ _ _ hj).trans he, hpieces⟩
  fault _ _ h := h
  answer s c r h := State.StandsClosed.of_entry h (congrArg (fun t : State => t.entry i) (addAnswer_only s c r) :)
  report s member ok h := State.StandsClosed.of_entry h (congrArg (fun t : State => t.entry i) (reportMember_only s member ok) :)
  engine s c f _ h := State.StandsClosed.of_entry h (entry_modBranch s c f i)

end

end Sys2Proof.Machine
end

section
/-! SUPPORT. A branch reset: the entries it closes, the queue it empties, the engine it resets, and what follows. -/

namespace Sys2Proof.Machine

/-! ## Runs over a list -/

theorem foldl_keeps {α : Type} {P : State → Prop} {f : State → α → State} (hkeep : ∀ u x, P u → P (f u x)) (xs : List α)
    {s : State} (h : P s) : P (xs.foldl f s) := by
  induction xs generalizing s with
  | nil => exact h
  | cons x rest ih => exact ih (hkeep s x h)

/-- What one element of the list brings about, and every element keeps, holds at the end. -/
theorem foldl_gains {α : Type} {P : State → Prop} {f : State → α → State} (hkeep : ∀ u x, P u → P (f u x)) {x : α}
    (hgain : ∀ u, P (f u x)) {xs : List α} (hx : x ∈ xs) (s : State) : P (xs.foldl f s) := by
  induction xs generalizing s with
  | nil => cases hx
  | cons y rest ih =>
    rcases List.mem_cons.1 hx with rfl | hx
    · exact foldl_keeps hkeep rest (hgain s)
    · exact ih hx (f s y)

/-! ## The entries that a reset closes (R66) -/

/-- The entry as a branch reset closes it: ACTIVE pieces alone, and of its held bytes those of a frame in flight. -/
def SplitEntry.closedByReset (e : SplitEntry) (inFlight : Nat) : SplitEntry :=
  { e.onlyActive with state := .closing, finalStatus := some .branchReset, held := e.held.take inFlight }

section
variable {s t : State} {b c : Fin 4} {i j : Fin 16} {e : SplitEntry}

theorem endEntry_entry (s : State) (i j : Fin 16) : (s.endEntry i .closing .branchReset).entry j =
    if j = i then (s.entry j).map fun e => e.closedByReset (s.bytesInFlight j) else s.entry j := by
  unfold State.endEntry
  split
  · rename_i hnone
    split
    · rename_i hj
      rw [hj, hnone]
      rfl
    · rfl
  · rename_i e he
    unfold State.dropQueued
    dsimp only
    rw [entry_modBranch]
    split
    · rename_i hj
      rw [hj, entry_setEntry_same, he]
      rfl
    · rename_i hj
      rw [entry_setEntry_ne _ _ _ _ hj]

theorem endEntry_ungranted (s : State) (i : Fin 16) (st : EntryState) (status : Status) (c : Fin 4) :
    ((s.endEntry i st status).branch c).ungranted = (s.branch c).ungranted := by
  unfold State.endEntry
  split
  · rfl
  · dsimp only
    rw [dropQueued_ungranted, branch_setEntry]

theorem mem_gatheringOn : i ∈ s.gatheringOn b ↔ ∃ e, s.entry i = some e ∧ e.state = .gathering ∧ e.route.branch = b := by
  have hall : ∀ i : Fin 16, i ∈ sixteen := by decide
  unfold State.gatheringOn
  rw [List.mem_filter]
  cases he : s.entry i with
  | none => simp
  | some e => simp [hall i]

/-- The state in which every GATHERING entry of branch b has closed with BRANCH_RESET. -/
def State.gatheringClosed (s : State) (b : Fin 4) : State :=
  (s.gatheringOn b).foldl (fun t i => t.endEntry i .closing .branchReset) s

theorem gatheringClosed_only (s : State) (b : Fin 4) :
    { s.gatheringClosed b with split := s.split, branches := s.branches } = s :=
  foldl_keeps (f := fun t i => t.endEntry i .closing .branchReset)
    (P := fun t => { t with split := s.split, branches := s.branches } = s)
    (fun t i h => lift (fun x : State => { x with split := s.split, branches := s.branches })
      (endEntry_only t i .closing .branchReset) rfl h) _ rfl

theorem gatheringClosed_ungranted (s : State) (b c : Fin 4) :
    ((s.gatheringClosed b).branch c).ungranted = (s.branch c).ungranted :=
  foldl_keeps (f := fun t i => t.endEntry i .closing .branchReset)
    (P := fun t => (t.branch c).ungranted = (s.branch c).ungranted)
    (fun t i h => (endEntry_ungranted t i _ _ c).trans h) _ rfl

theorem foldl_endEntry_entry {places : List (Fin 16)} (hnodup : places.Nodup) (s : State) (j : Fin 16) :
    (places.foldl (fun t i => t.endEntry i .closing .branchReset) s).entry j =
      if j ∈ places then (s.entry j).map fun e => e.closedByReset (s.bytesInFlight j) else s.entry j := by
  induction places generalizing s with
  | nil => rfl
  | cons i rest ih =>
    obtain ⟨hfresh, hrest⟩ := List.nodup_cons.1 hnodup
    have hflight : (s.endEntry i .closing .branchReset).bytesInFlight j = s.bytesInFlight j :=
      (congrArg (fun t : State => t.bytesInFlight j) (endEntry_only s i .closing .branchReset) :)
    rw [List.foldl_cons, ih hrest, endEntry_entry, hflight]
    by_cases hj : j = i
    · subst hj
      rw [if_neg hfresh, if_pos rfl, if_pos List.mem_cons_self]
    · rw [if_neg hj]
      simp only [List.mem_cons, hj, false_or]

theorem gatheringClosed_entry (s : State) (b : Fin 4) (j : Fin 16) : (s.gatheringClosed b).entry j =
    if j ∈ s.gatheringOn b then (s.entry j).map fun e => e.closedByReset (s.bytesInFlight j) else s.entry j :=
  foldl_endEntry_entry (List.Nodup.filter _ (by decide)) s j

/-- Behind the closing no entry gathers on the branch. -/
theorem gatheringClosed_noneGathers (s : State) (b : Fin 4) : (s.gatheringClosed b).NoneGathers b := by
  intro j e he hg hroute
  rw [gatheringClosed_entry] at he
  split at he
  · obtain ⟨e0, _, rfl⟩ := Option.map_eq_some_iff.1 he
    cases hg
  · rename_i hj
    exact hj (mem_gatheringOn.2 ⟨e, he, hg, hroute⟩)

/-! ## The writes that a reset removes (R82) -/

/-- A write that is removed hands on BRANCH_RESET as the end of its run would. -/
theorem removeByReset_write {o : Operation} (hwrite : o.isRead = false) (s : State) (b : Fin 4) :
    s.removeByReset b o = s.handOn b o .branchReset 0 := by
  unfold Operation.isRead at hwrite
  unfold State.removeByReset State.handOn
  cases hbody : o.body with
  | readPiece i n first =>
    rw [hbody] at hwrite
    cases hwrite
  | posted data => rfl
  | confirmed rt data => rfl
  | timed rt data member => rfl

theorem removeByReset_read {o : Operation} (hread : o.isRead = true) (s : State) (b : Fin 4) : s.removeByReset b o = s := by
  unfold Operation.isRead at hread
  unfold State.removeByReset
  split at hread
  · rename_i hbody
    rw [hbody]
  · cases hread

theorem KeptByRun.removeByReset {P : State → Prop} (k : KeptByRun P) (h : P s) (b : Fin 4) (o : Operation) :
    P (s.removeByReset b o) := by
  cases ho : o.isRead with
  | true => rwa [removeByReset_read ho]
  | false =>
    rw [removeByReset_write ho]
    exact k.handOn h b o .branchReset 0

theorem removeByReset_only (s : State) (b : Fin 4) (o : Operation) : (s.removeByReset b o).withOutcome s = s := by
  cases ho : o.isRead with
  | true => rw [removeByReset_read ho]; rfl
  | false =>
    rw [removeByReset_write ho]
    exact handOn_write_only ho s b _ _

theorem removeByReset_others (hc : c ≠ b) (s : State) (o : Operation) :
    ((s.removeByReset b o).branch c).ungranted = (s.branch c).ungranted := by
  cases ho : o.isRead with
  | true => rw [removeByReset_read ho]
  | false =>
    rw [removeByReset_write ho]
    exact handOn_others s o _ _ hc

/-- A branch that has only been answered: its list is longer, and an IDLE engine waits in POSTING for it (R80). -/
def Branch.Answered (x y : Branch) : Prop :=
  ∃ answers phase, y = { x with answers := answers, phase := phase } ∧ (phase = x.phase ∨ x.phase = .idle ∧ phase = .posting)

theorem Branch.Answered.refl (x : Branch) : x.Answered x := ⟨x.answers, x.phase, rfl, .inl rfl⟩

theorem Branch.Answered.trans {x y z : Branch} (h : x.Answered y) (k : y.Answered z) : x.Answered z := by
  obtain ⟨_, phase, rfl, hphase⟩ := h
  obtain ⟨answers, phase', rfl, hphase'⟩ := k
  refine ⟨answers, phase', rfl, ?_⟩
  rcases hphase' with h' | ⟨hidle, h'⟩
  · rw [h']
    exact hphase
  · rcases hphase with h | ⟨_, h⟩
    · exact .inr ⟨h.symm.trans hidle, h'⟩
    · exact absurd (h.symm.trans hidle) nofun

theorem addAnswer_answered (s : State) (b : Fin 4) (r : Record) : (s.branch b).Answered ((s.addAnswer b r).branch b) := by
  unfold State.addAnswer
  split
  · exact Branch.Answered.refl _
  · rw [branch_modBranch_same]
    refine ⟨_, _, rfl, ?_⟩
    split
    · rename_i hidle
      exact .inr ⟨hidle, rfl⟩
    · exact .inl rfl

theorem removeByReset_answered (s : State) (b : Fin 4) (o : Operation) :
    (s.branch b).Answered ((s.removeByReset b o).branch b) := by
  unfold State.removeByReset
  split
  · exact Branch.Answered.refl _
  · rw [recordFault_branch]
    exact Branch.Answered.refl _
  · exact addAnswer_answered s b _
  · rw [reportMember_branch]
    exact addAnswer_answered s b _

/-! ## The queue emptied (R66, R82) -/

/-- The state whose entries are closed and whose queue of branch b is empty, before the removed writes hand on their outcomes. -/
def State.queueEmptied (s : State) (b : Fin 4) : State :=
  { ((s.gatheringClosed b).modBranch b fun br => { br with queue := [] }) with fault := none }

/-- The writes that stood in the queue of branch b have handed on their outcomes. -/
def State.queueRemoved (s : State) (b : Fin 4) : State :=
  (s.branch b).queue.foldl (fun t o => t.removeByReset b o) (s.queueEmptied b)

theorem resetQueue_eq (s : State) (b : Fin 4) :
    s.resetQueue b = (s.queueRemoved b).modAttn b fun a => { a with pending := false } := rfl

theorem queueEmptied_branch (s : State) (b : Fin 4) : (s.queueEmptied b).branch b = { s.branch b with queue := [] } :=
  (branch_modBranch_same _ _ _).trans (gatheringClosed_ungranted s b b)

theorem queueEmptied_others (hc : c ≠ b) (s : State) : ((s.queueEmptied b).branch c).ungranted = (s.branch c).ungranted := by
  show (((s.gatheringClosed b).modBranch b fun br => { br with queue := [] }).branch c).ungranted = _
  rw [branch_modBranch_ne _ _ _ _ hc]
  exact gatheringClosed_ungranted s b c

theorem queueRemoved_only (s : State) (b : Fin 4) : (s.queueRemoved b).withOutcome (s.queueEmptied b) = s.queueEmptied b :=
  foldl_keeps (f := fun t o => t.removeByReset b o)
    (P := fun t => t.withOutcome (s.queueEmptied b) = s.queueEmptied b)
    (fun t o h => lift (fun x : State => x.withOutcome (s.queueEmptied b)) (removeByReset_only t b o) rfl h) _ rfl

theorem resetQueue_branch (s : State) (b : Fin 4) :
    ({ s.branch b with queue := [] } : Branch).Answered ((s.resetQueue b).branch b) := by
  rw [← queueEmptied_branch]
  exact foldl_keeps (f := fun t o => t.removeByReset b o)
    (P := fun t => ((s.queueEmptied b).branch b).Answered (t.branch b))
    (fun t o h => h.trans (removeByReset_answered t b o)) _ (Branch.Answered.refl _)

theorem resetQueue_others (hc : c ≠ b) (s : State) : ((s.resetQueue b).branch c).ungranted = (s.branch c).ungranted :=
  foldl_keeps (f := fun t o => t.removeByReset b o)
    (P := fun t => (t.branch c).ungranted = (s.branch c).ungranted)
    (fun t o h => (removeByReset_others hc t o).trans h) _
    (queueEmptied_others hc s)

theorem resetQueue_entry (s : State) (b : Fin 4) (i : Fin 16) : (s.resetQueue b).entry i = (s.gatheringClosed b).entry i :=
  (congrArg (fun t : State => t.entry i) (queueRemoved_only s b) :)

theorem resetQueue_noneGathers (s : State) (b : Fin 4) : (s.resetQueue b).NoneGathers b :=
  (gatheringClosed_noneGathers s b).of_entries (resetQueue_entry s b)

/-- Apart from the attention entry a reset of the queue reaches the entries, the branches and the outcomes alone. -/
theorem resetQueue_only (s : State) (b : Fin 4) :
    { (s.resetQueue b).withOutcome s with split := s.split, attns := s.attns } = s :=
  lift (fun t : State => { t.withOutcome s with split := s.split, attns := s.attns }) (queueRemoved_only s b) rfl
    (lift (fun t : State => { t.withOutcome s with split := s.split, attns := s.attns }) (gatheringClosed_only s b) rfl rfl)

theorem resetQueue_attns (s : State) (b : Fin 4) :
    (s.resetQueue b).attns = s.attns.set b.val { s.attn b with pending := false } b.isLt := by
  have hkept : (s.queueRemoved b).attns = s.attns :=
    (congrArg State.attns (queueRemoved_only s b) :).trans (congrArg State.attns (gatheringClosed_only s b) :)
  rw [resetQueue_eq]
  unfold State.modAttn State.attn
  rw [hkept]

/-- What the removal of one write of the queue brings about holds behind the reset of the queue. -/
theorem KeptByRun.resetQueue {P : State → Prop} (k : KeptByRun P) {o : Operation} (ho : o ∈ (s.branch b).queue)
    (hgain : ∀ u : State, P (u.removeByReset b o)) : P (s.resetQueue b) := by
  rw [resetQueue_eq]
  exact k.attn (s.queueRemoved b) _ _ (foldl_gains (P := P) (f := fun t o => t.removeByReset b o)
    (fun _ x h => k.removeByReset h b x) hgain ho (s.queueEmptied b))

theorem resetQueue_records (s : State) (b : Fin 4) : s.responseQueue <+: (s.resetQueue b).responseQueue := by
  have hstart : s.responseQueue <+: (s.queueEmptied b).responseQueue := by
    rw [show (s.queueEmptied b).responseQueue = s.responseQueue from (congrArg State.responseQueue (gatheringClosed_only s b) :)]
  refine foldl_keeps (f := fun t o => t.removeByReset b o)
    (P := fun t => s.responseQueue <+: t.responseQueue) (fun t o h => h.trans ?_) _ hstart
  cases ho : o.isRead with
  | true => rw [removeByReset_read ho]
  | false =>
    rw [removeByReset_write ho]
    exact handOn_records t b o _ _

/-- Without a posted write the fault record stays empty (R82). -/
theorem resetQueue_fault_none (h : ∀ o ∈ (s.branch b).queue, ∀ data, o.body ≠ .posted data) : (s.resetQueue b).fault = none := by
  have hfold (ops : List Operation) (h : ∀ o ∈ ops, ∀ data, o.body ≠ .posted data) {t : State} (ht : t.fault = none) :
      (ops.foldl (fun t o => t.removeByReset b o) t).fault = none := by
    induction ops generalizing t with
    | nil => exact ht
    | cons o rest ih =>
      refine ih (fun x hx => h x (List.mem_cons_of_mem _ hx)) ?_
      show (t.removeByReset b o).fault = none
      unfold State.removeByReset
      split
      · exact ht
      · rename_i data hbody
        exact absurd hbody (h o List.mem_cons_self data)
      · exact (congrArg State.fault (addAnswer_only t b _) :).trans ht
      · exact (congrArg State.fault (reportMember_only (t.addAnswer b _) _ _) :).trans
          ((congrArg State.fault (addAnswer_only t b _) :).trans ht)
  exact hfold _ h rfl

end

/-! ## The engine reset (R108, R109) -/

section
variable {s : State} {b c : Fin 4}

theorem resetEngine_off (h : (s.branch b).resetting = true ∨ (s.branch b).phase = .disabled) : s.resetEngine b = s := if_pos h

theorem resetEngine_run (h : ¬ ((s.branch b).resetting = true ∨ (s.branch b).phase = .disabled))
    (hop : (s.branch b).op.isSome = true) :
    s.resetEngine b = (s.modBranch b fun br => { br with resetting := true }).tellEnd b .branchReset :=
  (if_neg h).trans (if_pos hop)

/-- An engine without an operation shows RESETTING and makes its bus clear, and nothing else changes. -/
theorem resetEngine_none (hop : (s.branch b).op = none) : ∃ resetting phase rate counter, s.resetEngine b =
    s.modBranch b fun br =>
      { br with resetting := resetting, phase := phase, rateInUse := rate, stretchCounter := counter } := by
  have hsome : ¬ (s.branch b).op.isSome = true := by
    rw [hop]
    decide
  unfold State.resetEngine
  dsimp only
  split
  · exact ⟨(s.branch b).resetting, (s.branch b).phase, (s.branch b).rateInUse, (s.branch b).stretchCounter,
      (modBranch_id rfl).symm⟩
  · split
    · exact ⟨true, (s.branch b).phase, (s.branch b).rateInUse, (s.branch b).stretchCounter, modBranch_congr rfl⟩
    · exact ⟨true, .clearing, (s.branch b).rate, 0, modBranch_congr rfl⟩

/-- The engine goes on as the word to end leaves it, behind RESETTING. -/
theorem KeptByRun.resetting {P : State → Prop} (k : KeptByRun P)
    (h : ¬ ((s.branch b).resetting = true ∨ (s.branch b).phase = .disabled))
    (hP : P (s.modBranch b fun br => { br with resetting := true })) : P (s.resetEngine b) := by
  unfold State.resetEngine
  dsimp only
  rw [if_neg h]
  split
  · exact k.tellEnd hP b .branchReset
  · split
    · exact hP
    · have hclear := k.engine _ b Branch.beginClear (fun _ => ⟨rfl, rfl⟩) hP
      rwa [modBranch_modBranch] at hclear

theorem KeptByRun.resetEngine {P : State → Prop} (k : KeptByRun P)
    (hresetting : P s → P (s.modBranch b fun br => { br with resetting := true })) (h : P s) : P (s.resetEngine b) := by
  by_cases hoff : (s.branch b).resetting = true ∨ (s.branch b).phase = .disabled
  · rwa [resetEngine_off hoff]
  · exact k.resetting hoff (hresetting h)

/-- All that a reset of the engine leaves of its branch, apart from RESETTING. -/
theorem resetEngine_apart (s : State) (b : Fin 4) : ((s.resetEngine b).branch b).ungranted.apartFromRun =
    { (s.branch b).ungranted.apartFromRun with
      resetting := (s.branch b).resetting || decide ((s.branch b).phase ≠ .disabled) } := by
  by_cases hoff : (s.branch b).resetting = true ∨ (s.branch b).phase = .disabled
  · rw [resetEngine_off hoff]
    rcases hoff with h | h
    · rw [h, Bool.true_or, ← h]
      rfl
    · rw [h, decide_eq_false (not_not.2 rfl), Bool.or_false]
      rfl
  · obtain ⟨_, hon⟩ := not_or.1 hoff
    rw [decide_eq_true hon, Bool.or_true]
    refine (apart_keptByRun b _).resetting hoff ?_
    rw [branch_modBranch_same]
    rfl

theorem tellEnd_others (hc : c ≠ b) (cause : EndCause) (s : State) :
    ((s.tellEnd b cause).branch c).unstalled = (s.branch c).unstalled := by
  cases ho : (s.branch b).op with
  | none =>
    unfold State.tellEnd
    dsimp only
    rw [ho]
  | some o =>
    by_cases hoff : (s.branch b).OffBus
    · rw [tellEnd_offBus ho hoff]
      exact endRun_others ho hc
    · obtain ⟨_, hothers, _⟩ := tellEnd_onBus_engine ho hoff cause
      exact hothers c hc

theorem tellEnd_records (s : State) (b : Fin 4) (cause : EndCause) :
    s.responseQueue <+: (s.tellEnd b cause).responseQueue := by
  cases ho : (s.branch b).op with
  | none =>
    unfold State.tellEnd
    dsimp only
    rw [ho]
  | some o =>
    by_cases hoff : (s.branch b).OffBus
    · rw [tellEnd_offBus ho hoff]
      exact endRun_records s b _ _
    · obtain ⟨_, _, honly⟩ := tellEnd_onBus_engine ho hoff cause
      rw [show (s.tellEnd b cause).responseQueue = s.responseQueue from (congrArg State.responseQueue honly :)]

theorem resetEngine_others (hc : c ≠ b) (s : State) :
    ((s.resetEngine b).branch c).unstalled = (s.branch c).unstalled := by
  by_cases hoff : (s.branch b).resetting = true ∨ (s.branch b).phase = .disabled
  · rw [resetEngine_off hoff]
  · cases hop : (s.branch b).op with
    | none =>
      obtain ⟨_, _, _, _, h⟩ := resetEngine_none hop
      rw [h, branch_modBranch_ne _ _ _ _ hc]
    | some o =>
      rw [resetEngine_run hoff (by rw [hop]; rfl), tellEnd_others hc, branch_modBranch_ne _ _ _ _ hc]

theorem resetEngine_records (s : State) (b : Fin 4) : s.responseQueue <+: (s.resetEngine b).responseQueue := by
  by_cases hoff : (s.branch b).resetting = true ∨ (s.branch b).phase = .disabled
  · rw [resetEngine_off hoff]
  · cases hop : (s.branch b).op with
    | none =>
      obtain ⟨_, _, _, _, h⟩ := resetEngine_none hop
      rw [h]
      exact List.prefix_refl _
    | some o =>
      rw [resetEngine_run hoff (by rw [hop]; rfl)]
      exact tellEnd_records (s.modBranch b _) b _

theorem resetEngine_only (s : State) (b : Fin 4) : (s.resetEngine b).withRun s = s := by
  by_cases hoff : (s.branch b).resetting = true ∨ (s.branch b).phase = .disabled
  · rw [resetEngine_off hoff]
    rfl
  · cases hop : (s.branch b).op with
    | none =>
      obtain ⟨_, _, _, _, h⟩ := resetEngine_none hop
      rw [h]
      rfl
    | some o =>
      rw [resetEngine_run hoff (by rw [hop]; rfl)]
      exact withRun_trans (tellEnd_only (s.modBranch b _) b _) rfl

end

end Sys2Proof.Machine
end

section
/-! SUPPORT. The whole of a branch reset: what it keeps, what it brings about, and what it leaves of its branch and of the others. -/

namespace Sys2Proof.Machine

section
variable {s : State} {b c : Fin 4}

/-- What a reset of the queue does not reach. -/
theorem kept_of_queueReset {s t : State} (h : { t.withOutcome s with split := s.split, attns := s.attns } = s) :
    t.intake = s.intake ∧ t.releaseQueue = s.releaseQueue ∧ t.withRun s = s :=
  ⟨(congrArg State.intake h :), (congrArg State.releaseQueue h :), lift (fun x : State => x.withRun s) h rfl rfl⟩

/-! ## What holds through the reset -/

/-- What holds behind the reset of the queue, and is kept by RESETTING and by the steps of a run's end, holds at the end (R108). -/
theorem KeptByRun.branchReset {P : State → Prop} (k : KeptByRun P)
    (hresetting : ∀ u : State, P u → P (u.modBranch b fun br => { br with resetting := true })) (h : P (s.resetQueue b)) :
    P (s.branchReset b) :=
  k.roomFreed (k.grant _ (k.resetEngine (hresetting _) h))

/-- A flag that is set stays so. -/
theorem flag_keptByRun (f : EventFlag) : KeptByRun fun s => s.flag f = true where
  attn _ _ _ h := h
  flag s g h := (setFlag_flagsKept s g).kept f h
  choice _ _ hpick h := (FlagsKept.of_flags (congrArg State.flags hpick :)).kept f h
  enter _ _ _ _ _ _ h := h
  grant s h := (grantPass_flagsKept s).kept f h
  settle s i e o n first status _ h :=
    (FlagsKept.of_flags (congrArg State.flags (settlePiece_only s i e o n first status) :)).kept f h
  slot s c h := (slotFreedIn_flagsKept c _ s).kept f h
  free _ _ _ _ _ _ h := h
  fault _ _ h := h
  answer s c r h := (addAnswer_flagsKept s c r).kept f h
  report s member ok h := (reportMember_flagsKept s member ok).kept f h
  engine _ _ _ _ h := h

/-- A confirmed or timed write of the queue is answered with BRANCH_RESET (R82). -/
theorem branchReset_answers {o : Operation} {rt : ReqTag} (ho : o ∈ (s.branch b).queue) (htag : o.tag? = some rt) :
    (s.branchReset b).HasRecord b { rt := rt, status := .branchReset, body := .completion o.offset } := by
  have k := hasRecord_keptByRun b { rt := rt, status := .branchReset, body := .completion o.offset }
  refine k.branchReset (fun u h => hasRecord_of_same h rfl (by rw [branch_modBranch_same])) (k.resetQueue ho fun u => ?_)
  rw [removeByReset_write (isRead_of_tag htag)]
  exact handOn_hasRecord htag u b .branchReset 0

/-- A posted write of the queue goes to the fault record (R76, R82). -/
theorem branchReset_faults {o : Operation} {data : List Byte} (ho : o ∈ (s.branch b).queue) (hbody : o.body = .posted data) :
    (s.branchReset b).fault ≠ none ∧ (s.branchReset b).flag .writeFailed = true := by
  have hremoved (u : State) : u.removeByReset b o = u.recordFault b o .branchReset := by
    unfold State.removeByReset
    rw [hbody]
  refine ⟨fault_keptByRun.branchReset (fun _ h => h) (fault_keptByRun.resetQueue ho fun u => ?_),
    (flag_keptByRun .writeFailed).branchReset (fun _ h => h) ((flag_keptByRun .writeFailed).resetQueue ho fun u => ?_)⟩
  · rw [hremoved]
    exact (recordFault_sets u b o .branchReset).1
  · rw [hremoved]
    exact (recordFault_sets u b o .branchReset).2

/-- A GATHERING entry of the branch is CLOSING with BRANCH_RESET; of its pieces at most the ACTIVE ones stay (R66). -/
theorem branchReset_closes {i : Fin 16} {e : SplitEntry} (he : s.entry i = some e) (hg : e.state = .gathering)
    (hroute : e.route.branch = b) (hunsent : e.finalSent = false) :
    (s.branchReset b).StandsClosed i (e.closedByReset (s.bytesInFlight i)) := by
  have k := standsClosed_keptByRun (i := i) (e := e.closedByReset (s.bytesInFlight i)) rfl hunsent
  refine k.branchReset (fun u h => h.of_entry (entry_modBranch _ _ _ _)) ?_
  refine ⟨_, ?_, fun p hp => hp⟩
  rw [resetQueue_entry, gatheringClosed_entry, if_pos (mem_gatheringOn.2 ⟨e, he, hg, hroute⟩), he]
  rfl

/-- Behind the reset the queue takes reads and the writes of the Release Queue alone, and stays empty while the branch is disabled. -/
theorem branchReset_fed (hframes : s.intake = []) : FedByReleases s.releaseQueue b (s.branchReset b) := by
  obtain ⟨hintake, hreleases, _⟩ := kept_of_queueReset (resetQueue_only s b)
  obtain ⟨answers, phase, hbranch, _⟩ := resetQueue_branch s b
  have hempty : ((s.resetQueue b).branch b).queue = [] := by rw [hbranch]
  refine (fedByReleases_keptByRun s.releaseQueue b).branchReset (fun u h => ?_) ⟨?_, ?_, ?_, fun _ => ⟨hempty, ?_⟩⟩
  · refine h.keep rfl rfl ?_ (by rw [branch_modBranch_same]) fun hnone => hnone.of_entries fun _ => entry_modBranch _ _ _ _
    rw [branch_modBranch_same]
    exact fun _ ho => ho
  · exact hintake.trans hframes
  · rw [hreleases]
    exact fun e he => ⟨e, he, rfl⟩
  · rw [hempty]
    nofun
  · exact resetQueue_noneGathers s b

/-! ## The branch and the others -/

theorem state_disabled_iff (br : Branch) : br.state = .disabled ↔ br.resetting = false ∧ br.phase = .disabled := by
  unfold Branch.state
  cases br.resetting <;> cases br.phase <;> simp

theorem phase_of_ungranted {x y : Branch} (h : x.ungranted = y.ungranted) : x.phase = y.phase := (congrArg Branch.phase h :)

/-- A grant pass and room found reach the entries and the branches alone. -/
theorem grantRoom_only (v : State) :
    { v.grantPass.roomFreed with split := v.split, branches := v.branches, freeCount := v.freeCount } = v :=
  lift (fun t : State => { t with split := v.split, branches := v.branches, freeCount := v.freeCount })
    (roomFreed_only v.grantPass) rfl ((congrArg (fun t : State => { t with freeCount := v.freeCount }) (grantPass_only v) :))

/-- Of a branch a grant pass and room found change the queue, and PHASE and progress when it stalled. -/
theorem grantRoom_branch (v : State) (c : Fin 4) : ∃ queue phase progress, v.grantPass.roomFreed.branch c =
    { v.branch c with queue := queue, phase := phase, progress := progress } := by
  obtain ⟨phase, progress, hroom⟩ := roomFreed_branch v.grantPass c
  obtain ⟨queue, hgrant⟩ : ∃ queue, v.grantPass.branch c = { v.branch c with queue := queue } :=
    ⟨(v.grantPass.branch c).queue,
      (congrArg (fun br : Branch => { br with queue := (v.grantPass.branch c).queue }) ((grantPass_granted v).branches c) :)⟩
  exact ⟨queue, phase, progress, by rw [hroom, hgrant]⟩

theorem branchReset_eq (s : State) (b : Fin 4) : s.branchReset b = ((s.resetQueue b).resetEngine b).grantPass.roomFreed := rfl

/-- What an answer and a queue emptied leave of a branch. -/
theorem Branch.Answered.apart {x y : Branch} (h : ({ x with queue := [] } : Branch).Answered y) :
    y.ungranted.apartFromRun = x.ungranted.apartFromRun ∧ y.resetting = x.resetting ∧ y.op = x.op ∧
      (y.phase = .disabled ↔ x.phase = .disabled) := by
  obtain ⟨answers, phase, rfl, hphase⟩ := h
  refine ⟨rfl, rfl, rfl, ?_⟩
  rcases hphase with h | ⟨hidle, h⟩
  · rw [h]
  · rw [h, show x.phase = .idle from hidle]
    exact iff_of_false nofun nofun

/-- What a reset leaves of branch x: its settings, and RESETTING unless it was DISABLED. -/
structure Branch.ResetFrom (x y : Branch) : Prop where
  enabled : y.enabled = x.enabled
  rate : y.rate = x.rate
  busyTimer : y.busyTimer = x.busyTimer
  busyFlagged : y.busyFlagged = x.busyFlagged
  resetting : y.resetting = (x.resetting || decide (x.phase ≠ .disabled))

theorem Branch.ResetFrom.of_apart {x y : Branch} (h : y.ungranted.apartFromRun =
    { x.ungranted.apartFromRun with resetting := x.resetting || decide (x.phase ≠ .disabled) }) : x.ResetFrom y where
  enabled := (congrArg Branch.enabled h :)
  rate := (congrArg Branch.rate h :)
  busyTimer := (congrArg Branch.busyTimer h :)
  busyFlagged := (congrArg Branch.busyFlagged h :)
  resetting := (congrArg Branch.resetting h :)

theorem apart_of_granted (y : Branch) (queue : List Operation) (phase : Phase) (progress : Progress) :
    ({ y with queue := queue, phase := phase, progress := progress } : Branch).ungranted.apartFromRun =
      y.ungranted.apartFromRun := rfl

theorem branchReset_branch (s : State) (b : Fin 4) : (s.branch b).ResetFrom ((s.branchReset b).branch b) := by
  obtain ⟨hapart, hresetting, _, hdisabled⟩ := (resetQueue_branch s b).apart
  have hengine := resetEngine_apart (s.resetQueue b) b
  obtain ⟨queue, phase, progress, hroom⟩ := grantRoom_branch ((s.resetQueue b).resetEngine b) b
  refine Branch.ResetFrom.of_apart ?_
  rw [branchReset_eq, hroom, apart_of_granted, hengine, hapart, hresetting]
  simp only [ne_eq, hdisabled]

/-- The engine shows RESETTING unless it is DISABLED (R108). -/
theorem branchReset_resets (h : (s.branch b).state ≠ .disabled) : ((s.branchReset b).branch b).state = .resetting := by
  have hresetting : ((s.branchReset b).branch b).resetting = true := by
    rw [(branchReset_branch s b).resetting, Bool.or_eq_true, decide_eq_true_iff]
    rw [Ne, state_disabled_iff, not_and_or, Bool.not_eq_false] at h
    exact h
  unfold Branch.state
  rw [hresetting]
  rfl

theorem branchReset_disabled (h : (s.branch b).state = .disabled) : ((s.branchReset b).branch b).state = .disabled := by
  obtain ⟨hresetting, hphase⟩ := (state_disabled_iff _).1 h
  obtain ⟨_, _, _, hdisabled⟩ := (resetQueue_branch s b).apart
  have hstays : (((s.resetQueue b).grantPass).branch b).phase = .disabled := by
    rw [phase_of_ungranted ((grantPass_granted (s.resetQueue b)).branches b)]
    exact hdisabled.2 hphase
  refine (state_disabled_iff _).2 ⟨?_, ?_⟩
  · rw [(branchReset_branch s b).resetting, hresetting, hphase]
    rfl
  · rw [branchReset_eq, resetEngine_off (.inr (hdisabled.2 hphase)), roomFreed_branch_unstalled _ (by rw [hstays]; decide)]
    exact hstays

theorem branchReset_others (hc : c ≠ b) (s : State) : ((s.branchReset b).branch c).unstalled = (s.branch c).unstalled := by
  rw [branchReset_eq, roomFreed_unstalled,
    unstalled_of_ungranted ((grantPass_granted ((s.resetQueue b).resetEngine b)).branches c), resetEngine_others hc,
    unstalled_of_ungranted (resetQueue_others hc s)]

theorem withRun_of_granted {s t : State} (h : { t with split := s.split, branches := s.branches, freeCount := s.freeCount } = s) :
    t.withRun s = s := lift (fun x : State => x.withRun s) h rfl rfl

theorem grantRoom_run (v : State) : v.grantPass.roomFreed.withRun v = v := withRun_of_granted (grantRoom_only v)

theorem branchReset_only (s : State) (b : Fin 4) : (s.branchReset b).withRun s = s := by
  obtain ⟨_, _, hqueue⟩ := kept_of_queueReset (resetQueue_only s b)
  rw [branchReset_eq]
  exact withRun_trans (grantRoom_run _) (withRun_trans (resetEngine_only _ b) hqueue)

theorem grantRoom_records (v : State) : v.grantPass.roomFreed.responseQueue = v.responseQueue :=
  (congrArg State.responseQueue (grantRoom_only v) :)

theorem branchReset_records (s : State) (b : Fin 4) : s.responseQueue <+: (s.branchReset b).responseQueue := by
  rw [branchReset_eq, grantRoom_records]
  exact (resetQueue_records s b).trans (resetEngine_records _ b)

/-! ## Without a run, and with one that holds the bus -/

/-- What a grant pass and room found keep. -/
theorem grantRoom_keeps (v : State) : v.grantPass.roomFreed.releaseQueue = v.releaseQueue ∧
    v.grantPass.roomFreed.attns = v.attns ∧ v.grantPass.roomFreed.fault = v.fault :=
  ⟨(congrArg State.releaseQueue (grantRoom_only v) :), (congrArg State.attns (grantRoom_only v) :),
    (congrArg State.fault (grantRoom_only v) :)⟩

theorem grantRoom_queue_off {v : State} (h : v.NoneGathers b) :
    (v.grantPass.roomFreed.branch b).queue = (v.branch b).queue := by
  obtain ⟨phase, progress, hroom⟩ := roomFreed_branch v.grantPass b
  rw [hroom]
  exact grantPass_queue_off h

/-- An engine that runs nothing leaves the reset to its queue: no operation enters it, and the outcomes are those of its writes. -/
theorem branchReset_idle (hop : (s.branch b).op = none) : ((s.branchReset b).branch b).queue = [] ∧
    (s.branchReset b).releaseQueue = s.releaseQueue ∧
    (s.branchReset b).attns = s.attns.set b.val { s.attn b with pending := false } b.isLt ∧
    (s.branchReset b).fault = (s.resetQueue b).fault := by
  obtain ⟨_, _, hkeepsOp, _⟩ := (resetQueue_branch s b).apart
  obtain ⟨resetting, phase, rate, counter, hengine⟩ := resetEngine_none (hkeepsOp.trans hop)
  obtain ⟨_, _, hbranch, _⟩ := resetQueue_branch s b
  obtain ⟨_, hreleases, _⟩ := kept_of_queueReset (resetQueue_only s b)
  rw [branchReset_eq, hengine]
  obtain ⟨hrelease, hattns, hfault⟩ := grantRoom_keeps ((s.resetQueue b).modBranch b fun br =>
    { br with resetting := resetting, phase := phase, rateInUse := rate, stretchCounter := counter })
  refine ⟨?_, hrelease.trans hreleases, hattns.trans (resetQueue_attns s b), hfault⟩
  rw [grantRoom_queue_off ((resetQueue_noneGathers s b).of_entries fun i => entry_modBranch _ _ _ _), branch_modBranch_same,
    hbranch]

theorem grantRoom_engine (v : State) (c : Fin 4) : (v.grantPass.roomFreed.branch c).told = (v.branch c).told ∧
    (v.grantPass.roomFreed.branch c).op = (v.branch c).op := by
  obtain ⟨queue, phase, progress, h⟩ := grantRoom_branch v c
  rw [h]
  exact ⟨rfl, rfl⟩

theorem toldToEnd_told {br : Branch} (h : br.told = none) (cause : EndCause) : (br.toldToEnd cause).told = some cause := by
  unfold Branch.toldToEnd
  dsimp only
  rw [h]
  rfl

/-- A run that holds the bus goes on, told to end with BRANCH_RESET (R103, R108). -/
theorem resetEngine_told {o : Operation} (ho : (s.branch b).op = some o) (htold : (s.branch b).told = none)
    (hresetting : (s.branch b).resetting = false) (hdisabled : (s.branch b).phase ≠ .disabled)
    (hbus : ¬ (s.branch b).OffBus) :
    ((s.resetEngine b).branch b).told = some .branchReset ∧ ((s.resetEngine b).branch b).op = some o := by
  have hmine : (s.modBranch b fun br => { br with resetting := true }).branch b = { s.branch b with resetting := true } :=
    branch_modBranch_same _ _ _
  obtain ⟨htell, _, _⟩ := tellEnd_onBus_engine (s := s.modBranch b fun br => { br with resetting := true })
    (by rw [hmine]; exact ho) (by rw [hmine]; exact hbus) .branchReset
  have hrun := resetEngine_run (s := s) (b := b)
    (fun h => h.elim (fun h => Bool.false_ne_true (hresetting.symm.trans h)) hdisabled) (isSome_of_op ho)
  rw [hrun, htell, hmine]
  exact ⟨toldToEnd_told (br := { s.branch b with resetting := true }) htold _, ho⟩

theorem branchReset_told {o : Operation} (ho : (s.branch b).op = some o) (htold : (s.branch b).told = none)
    (hresetting : (s.branch b).resetting = false) (hphase : (s.branch b).phase ∈
      ([.start, .address, .subaddress, .writeData, .restart, .readData, .stall, .stop] : List Phase)) :
    ((s.branchReset b).branch b).told = some .branchReset ∧ ((s.branchReset b).branch b).op = some o := by
  obtain ⟨hidle, hdisabled, hbus⟩ : (s.branch b).phase ≠ .idle ∧ (s.branch b).phase ≠ .disabled ∧ ¬ (s.branch b).OffBus := by
    unfold Branch.OffBus
    generalize (s.branch b).phase = p at hphase
    revert p
    decide
  obtain ⟨answers, phase, hbranch, hsame⟩ := resetQueue_branch s b
  obtain rfl : phase = (s.branch b).phase := hsame.resolve_right fun h => hidle h.1
  obtain ⟨htoldEnd, hopEnd⟩ := grantRoom_engine ((s.resetQueue b).resetEngine b) b
  have hengine := resetEngine_told (s := s.resetQueue b) (b := b) (o := o) (by rw [hbranch]; exact ho)
    (by rw [hbranch]; exact htold) (by rw [hbranch]; exact hresetting) (by rw [hbranch]; exact hdisabled)
    (by rw [hbranch]; exact hbus)
  rw [branchReset_eq, htoldEnd, hopEnd]
  exact hengine

end

end Sys2Proof.Machine
end

section
/-! SUPPORT. The words that enable, disable and reset a branch. -/

namespace Sys2Proof.Machine

section
variable {s : State} {rest : List Frame} {reqtag bridge : Byte} {b : Fin 4} {w : Word} {rate : Rate}

/-! ## The words (R105 to R108) -/

theorem registerAt_branchControl (b : Fin 4) :
    registerAt (BitVec.ofNat 16 (0x040 + 8 * b.val)).toNat = some (.branchControl b) := by
  revert b
  decide

theorem mgmtWriteRow_branchControl (b : Fin 4) (w : Word) : mgmtWriteRow (BitVec.ofNat 16 (0x040 + 8 * b.val)).toNat w =
    if w.getLsbD 0 then .branchEnable else .branchDisable := by
  have haddress : (BitVec.ofNat 16 (0x040 + 8 * b.val)).toNat = 0x040 ∨ (BitVec.ofNat 16 (0x040 + 8 * b.val)).toNat = 0x048 ∨
      (BitVec.ofNat 16 (0x040 + 8 * b.val)).toNat = 0x050 ∨ (BitVec.ofNat 16 (0x040 + 8 * b.val)).toNat = 0x058 := by
    revert b
    decide
  rcases haddress with h | h | h | h <;> rw [h] <;> rfl

theorem mgmtWriteRow_branchReset (b : Fin 4) :
    mgmtWriteRow (0x009 : BitVec 16).toNat (BitVec.ofNat 32 (0x10 + b.val)) = .branchReset := by
  revert b
  decide

theorem writeWord_branchReset (s : State) (b : Fin 4) :
    s.writeWord .resetCommand (BitVec.ofNat 32 (0x10 + b.val)) = .applied (s.branchReset b) := by
  match b with
  | 0 => rfl
  | 1 => rfl
  | 2 => rfl
  | 3 => rfl

theorem rateOfCode_code (rate : Rate) : Rate.ofCode rate.code = some rate := by cases rate <;> rfl

theorem rateOfCode_above {n : Nat} (h : 3 < n) : Rate.ofCode n = none := by
  unfold Rate.ofCode
  split
  · omega
  · omega
  · omega
  · omega
  · rfl

theorem writeWord_control (s : State) (b : Fin 4) (hrate : rate.code = (w.extractLsb' 4 3).toNat) :
    s.writeWord (.branchControl b) w = .applied (s.writeBranchControl b (w.getLsbD 0) rate) := by
  show s.writeControl b w = _
  unfold State.writeControl
  rw [← hrate, rateOfCode_code]

theorem writeWord_control_stops (s : State) (b : Fin 4) (h : 3 < (w.extractLsb' 4 3).toNat) :
    s.writeWord (.branchControl b) w = .stops .badField := by
  show s.writeControl b w = _
  unfold State.writeControl
  rw [rateOfCode_above h]

/-- ENABLED stored as it stands: RATE alone changes. -/
theorem writeBranchControl_same {enabled : Bool} (h : (s.branch b).enabled = enabled) :
    s.writeBranchControl b enabled rate = s.modBranch b fun br => { br with rate := rate } := by
  unfold State.writeBranchControl State.enableBranch State.disableBranch
  dsimp only
  rw [branch_modBranch_same]
  dsimp only
  rw [h]
  cases enabled <;> rfl

theorem writeBranchControl_enables (hoff : (s.branch b).enabled = false) (hphase : (s.branch b).phase = .disabled) :
    s.writeBranchControl b true rate = s.modBranch b fun br =>
      { br with
        rate := rate, enabled := true, busyTimer := 0, busyFlagged := false
        phase := if br.answers = [] then .idle else .posting } := by
  unfold State.writeBranchControl State.enableBranch
  dsimp only
  rw [branch_modBranch_same, if_pos rfl, if_neg (by rw [hoff]; decide), modBranch_modBranch]
  refine modBranch_congr ?_
  dsimp only
  rw [if_pos hphase]
  unfold Branch.settle
  cases (s.branch b).answers <;> rfl

/-- The branch disabled, with RATE stored, before its reset (R102, R105, R107). -/
def Branch.switchedOff (br : Branch) (rate : Rate) : Branch :=
  { br with rate := rate, enabled := false, busyTimer := 0, busyFlagged := false }

theorem writeBranchControl_disables (hon : (s.branch b).enabled = true) :
    s.writeBranchControl b false rate = (s.modBranch b fun br => br.switchedOff rate).branchReset b := by
  unfold State.writeBranchControl State.disableBranch
  dsimp only
  rw [branch_modBranch_same, if_neg Bool.false_ne_true, if_pos hon, modBranch_modBranch]
  rfl

/-! ## What the write of the word leaves -/

theorem intakeStopped_of_run {u t : State} (h : t.withRun u = u) : t.intakeStopped = u.intakeStopped :=
  (congrArg State.intakeStopped h :)

theorem opState_of_run {u t : State} (h : t.withRun u = u) : t.opState = u.opState := (congrArg State.opState h :)

theorem writeTaken_modBranch (s : State) (rest : List Frame) (reqtag bridge : Byte) (b : Fin 4) (f : Branch → Branch) :
    { (s.writeTaken [] reqtag bridge .ok).modBranch b f with intake := rest } =
      (s.writeTaken rest reqtag bridge .ok).modBranch b f := rfl

/-- Behind a MGMT WRITE whose word sets a run's end in motion, only that and BRIDGE NUMBER have changed. -/
theorem bridgeWritten_of_run {u t : State} (h : t.withRun u = u)
    (hu : { u.withRun s with bridgeNumber := s.bridgeNumber } = s) :
    { ({ t with intake := rest } : State).withRun s with bridgeNumber := s.bridgeNumber } = s :=
  lift (fun x : State => { x.withRun s with bridgeNumber := s.bridgeNumber }) h rfl hu

/-- The reset of a branch as a word of a MGMT WRITE: the answer of the write stands ahead of its records (log 11). -/
theorem exec_resetWord {address : BitVec 16} {r : Register} {u : State}
    (h : s.Ready (mgmtWriteFrame reqtag bridge address w) rest) (hr : registerAt address.toNat = some r)
    (hw : (s.writeTaken [] reqtag bridge .ok).writeWord r w = .applied (u.branchReset b))
    (hstopped : u.intakeStopped = s.intakeStopped)
    (hqueue : u.responseQueue = (s.writeTaken [] reqtag bridge .ok).responseQueue) :
    ∃ more, exec (mgmtWriteRow address.toNat w) s = .next (State.endEvent { u.branchReset b with intake := rest }) ∧
      (u.branchReset b).responseQueue = s.responseQueue ++ mgmtCompletion (ReqTag.ofByte reqtag) .ok 0 [] :: more := by
  obtain ⟨more, hmore⟩ := branchReset_records u b
  have hrecords : (u.branchReset b).responseQueue =
      s.responseQueue ++ mgmtCompletion (ReqTag.ofByte reqtag) .ok 0 [] :: more := by
    rw [← hmore, hqueue]
    exact List.append_assoc _ _ _
  have hstays : (u.branchReset b).intakeStopped = u.intakeStopped := intakeStopped_of_run (branchReset_only u b)
  exact ⟨more, exec_writeFrame_applied h hr hw (hstays.trans (hstopped.trans h.1.2.2)) hrecords, hrecords⟩

end

/-- Settles O31: by ENABLED in the word and in the branch; the reset of a disabled branch leaves its queue empty. -/
theorem branchEnableDisable : Obligations.BranchEnableDisable := by
  unfold Obligations.BranchEnableDisable
  intro s rest reqtag bridge b w h code
  have hr := registerAt_branchControl b
  have hrow (enabled : Bool) (hw : w.getLsbD 0 = enabled) : mgmtWriteRow (BitVec.ofNat 16 (0x040 + 8 * b.val)).toNat w =
      if enabled then .branchEnable else .branchDisable := by
    rw [mgmtWriteRow_branchControl, hw]
  refine ⟨fun hw hcode => exec_fieldWrite_refused h hr (hrow true hw) (writeWord_control_stops _ b hcode),
    fun hw hcode => exec_fieldWrite_refused h hr (hrow false hw) (writeWord_control_stops _ b hcode), fun rate hrate => ?_⟩
  set v := s.writeTaken [] reqtag bridge .ok
  have hword := writeWord_control v b hrate
  refine ⟨fun hw hoff hphase => ?_, fun hw hon => ?_, fun hw hoff => ?_, fun hw hon => ?_⟩
  · rw [hw, writeBranchControl_enables (s := v) hoff hphase] at hword
    rw [← writeTaken_modBranch]
    exact exec_fieldWrite h hr (hrow true hw) hword rfl rfl
  · rw [hw, writeBranchControl_same (s := v) hon] at hword
    rw [← writeTaken_modBranch]
    exact exec_fieldWrite h hr (hrow true hw) hword rfl rfl
  · rw [hw, writeBranchControl_same (s := v) hoff] at hword
    rw [← writeTaken_modBranch]
    exact exec_fieldWrite h hr (hrow false hw) hword rfl rfl
  · rw [hw, writeBranchControl_disables (s := v) hon] at hword
    obtain ⟨more, hexec, _⟩ := exec_resetWord h hr hword rfl rfl
    rw [hrow false hw] at hexec
    set u := v.modBranch b fun br => br.switchedOff rate with hu
    have hmine : u.branch b = (s.branch b).switchedOff rate := branch_modBranch_same _ _ _
    have hleft := branchReset_branch u b
    rw [hmine] at hleft
    have hfed := branchReset_fed (s := u) (b := b) rfl
    have hresets := branchReset_resets (s := u) (b := b)
    rw [hmine] at hresets
    have hothers (c : Fin 4) (hc : c ≠ b) : ((u.branchReset b).branch c).unstalled = (s.branch c).unstalled := by
      rw [branchReset_others hc u, hu, branch_modBranch_ne _ _ _ _ hc]
      rfl
    have honly := branchReset_only u b
    have hstate : (u.branchReset b).opState = s.opState := (opState_of_run honly).trans rfl
    generalize u.branchReset b = t at *
    refine ⟨_, hexec, hleft.enabled, hleft.rate, (hfed.off hleft.enabled).1, hleft.busyTimer, hleft.busyFlagged,
      hresets, hothers, hstate, rfl, bridgeWritten_of_run honly rfl⟩

/-- Settles O30: what the removed writes, the closed entries and the engine show, and what the outcome of a run ended at once keeps. -/
theorem branchResetEffects : Obligations.BranchResetEffects := by
  unfold Obligations.BranchResetEffects
  intro s rest reqtag bridge b h hfits
  set u := s.writeTaken [] reqtag bridge .ok
  obtain ⟨more, hexec, hrecords⟩ := exec_resetWord (u := u) h (r := .resetCommand) rfl (writeWord_branchReset u b) rfl rfl
  rw [mgmtWriteRow_branchReset] at hexec
  have hfed := branchReset_fed (s := u) (b := b) rfl
  have hleft := branchReset_branch u b
  have hresets := branchReset_resets (s := u) (b := b)
  have hdisabled := branchReset_disabled (s := u) (b := b)
  have htold (o : Operation) := branchReset_told (s := u) (b := b) (o := o)
  have hanswers (o : Operation) (rt : ReqTag) := branchReset_answers (s := u) (b := b) (o := o) (rt := rt)
  have hfaults (o : Operation) (data : List Byte) := branchReset_faults (s := u) (b := b) (o := o) (data := data)
  have hcloses (i : Fin 16) (e : SplitEntry) := branchReset_closes (s := u) (b := b) (i := i) (e := e)
  have hidle := branchReset_idle (s := u) (b := b)
  have hothers (c : Fin 4) (hc : c ≠ b) := branchReset_others hc u
  have honly := branchReset_only u b
  have hstate : (u.branchReset b).opState = s.opState := (opState_of_run honly).trans rfl
  have hqueueFault := resetQueue_fault_none (s := u) (b := b)
  generalize u.branchReset b = t at *
  refine ⟨{ t with intake := rest }, more, hexec, fun hop => ?_, hfed.queue, hleft.enabled, hresets, hdisabled, htold, hrecords,
    fun o rt ho htag => List.mem_append.1 (hanswers o rt ho htag), hfaults, fun i e he hg hroute => ?_, fun hop => ?_,
    fun hop hnone => ?_, hothers, hstate, rfl, bridgeWritten_of_run honly rfl⟩
  · obtain ⟨hqueue, hreleases, _⟩ := hidle hop
    exact ⟨hqueue, hreleases⟩
  · have hunsent : e.finalSent = false := by
      have hbegun := hfits.gathering i e he hg
      unfold State.finalBegun at hbegun
      exact (Bool.or_eq_false_iff.1 hbegun).1
    obtain ⟨pieces, he', hpieces⟩ := hcloses i e he hg hroute hunsent
    refine ⟨_, he', rfl, rfl, rfl, fun p hp => ?_⟩
    obtain ⟨hmem, hactive⟩ := List.mem_filter.1 (hpieces p hp)
    exact ⟨of_decide_eq_true hactive, hmem⟩
  · obtain ⟨_, _, hattns, _⟩ := hidle hop
    exact hattns
  · obtain ⟨_, _, _, hfault⟩ := hidle hop
    exact hfault.trans (hqueueFault hnone)

end Sys2Proof.Machine
end

section
/-! SUPPORT. The beginning of a frame: when the transmitter may begin, what it chooses, and the frame that it sends. -/

namespace Sys2Proof.Machine

/-! ## What is chosen (R116, R117) -/

section
variable {s : State}

theorem exec_frameSendBegin_begins (h : s.beginsFrame = true) : exec .frameSendBegin s = .next s.beginFrame.endEvent :=
  congrArg Host.Outcome.next (if_pos h)

theorem exec_frameSendBegin_idle (h : s.beginsFrame = false) : exec .frameSendBegin s = .next s :=
  congrArg Host.Outcome.next (if_neg (Bool.eq_false_iff.1 h))

theorem mayBegin_of_idle (hsending : s.sending = none) (hin : s.holdIn = false) : s.mayBegin = true := by
  unfold State.mayBegin
  rw [hsending, hin]
  rfl

/-- The head record goes before all else. -/
theorem exec_frameSendBegin_record {r : Record} {rest : List Record} (hsending : s.sending = none) (hin : s.holdIn = false)
    (hq : s.responseQueue = r :: rest) : exec .frameSendBegin s = .next (s.sendRecord r rest).endEvent := by
  have hchosen : s.beginFrame = s.sendRecord r rest := by
    unfold State.beginFrame
    rw [if_pos (mayBegin_of_idle hsending hin), hq]
  rw [exec_frameSendBegin_begins (beginsFrame_iff.2 ⟨hsending, hin, .inl (by rw [hq]; exact List.cons_ne_nil _ _)⟩), hchosen]

/-- Without a record the pending notice is next. -/
theorem exec_frameSendBegin_notice (hsending : s.sending = none) (hin : s.holdIn = false) (hq : s.responseQueue = [])
    (hp : s.noticePending = true) : exec .frameSendBegin s = .next s.sendNotice.endEvent := by
  have hchosen : s.beginFrame = s.sendNotice := by
    unfold State.beginFrame
    rw [if_pos (mayBegin_of_idle hsending hin), hq]
    exact if_pos hp
  rw [exec_frameSendBegin_begins (beginsFrame_iff.2 ⟨hsending, hin, .inr (.inl hp)⟩), hchosen]

/-- Without a record and a notice the place that the round robin finds is served. -/
theorem exec_frameSendBegin_split {i : Fin 16} {e : SplitEntry} (hsending : s.sending = none) (hin : s.holdIn = false)
    (hq : s.responseQueue = []) (hp : s.noticePending = false) (hplace : s.readyPlace = some i) (he : s.entry i = some e) :
    exec .frameSendBegin s = .next (s.sendSplit i e).endEvent := by
  have hchosen : s.beginFrame = s.sendSplit i e := by
    unfold State.beginFrame
    rw [if_pos (mayBegin_of_idle hsending hin), hq]
    dsimp only
    rw [if_neg (Bool.eq_false_iff.1 hp), hplace]
    dsimp only
    rw [he]
  rw [exec_frameSendBegin_begins (beginsFrame_iff.2
    ⟨hsending, hin, .inr (.inr (readyPlace_isSome_iff.1 (by rw [hplace]; rfl)))⟩), hchosen]

/-- A frame in flight and HOLD-IN each keep a frame from beginning (R116, R119). -/
theorem beginsFrame_held (h : s.sending ≠ none ∨ s.holdIn = true) : s.beginsFrame = false := by
  refine Bool.eq_false_iff.2 fun hb => ?_
  obtain ⟨hsending, hin, _⟩ := beginsFrame_iff.1 hb
  rcases h with h | h
  · exact h hsending
  · exact Bool.false_ne_true (hin.symm.trans h)

/-- Without a record, a notice and a ready entry no frame begins (R117). -/
theorem beginsFrame_no_candidate (hq : s.responseQueue = []) (hp : s.noticePending = false)
    (hready : ∀ i, s.frameReady i = false) : s.beginsFrame = false := by
  refine Bool.eq_false_iff.2 fun hb => ?_
  obtain ⟨_, _, hrecord | hnotice | ⟨i, hi⟩⟩ := beginsFrame_iff.1 hb
  · exact hrecord hq
  · exact Bool.false_ne_true (hp.symm.trans hnotice)
  · exact Bool.false_ne_true ((hready i).symm.trans hi)

/-! ## The round robin (R118) -/

theorem find?_sixteen {p : Fin 16 → Bool} {i : Fin 16} (hi : p i = true) (hlow : ∀ j, j < i → p j = false) :
    sixteen.find? p = some i := by
  refine List.find?_eq_some_iff_getElem.2 ⟨hi, i.val, i.isLt, sixteen_getElem i.val i.isLt, fun j hj => ?_⟩
  rw [sixteen_getElem j (hj.trans i.isLt), hlow ⟨j, hj.trans i.isLt⟩ hj]
  rfl

/-- The round robin finds the ready place nearest behind LAST SERVED. -/
theorem readyPlace_first {i : Fin 16} (hi : s.frameReady i = true)
    (hfirst : ∀ k : Fin 16, (k - (s.lastServed + 1)).val < (i - (s.lastServed + 1)).val → s.frameReady k = false) :
    s.readyPlace = some i := by
  have hback : s.lastServed + 1 + (i - (s.lastServed + 1)) = i := add_sub_cancel _ _
  have hfound : sixteen.find? (fun k => s.frameReady (s.lastServed + 1 + k)) = some (i - (s.lastServed + 1)) := by
    refine find?_sixteen (by rw [hback]; exact hi) fun j hj => hfirst _ ?_
    rw [add_sub_cancel_left]
    exact hj
  unfold State.readyPlace State.roundRobin
  rw [List.find?_map]
  exact (congrArg (Option.map fun k => s.lastServed + 1 + k) hfound).trans (congrArg some hback)

end

/-! ## Readiness (R57) -/

section
variable {s : State} {i : Fin 16} {e : SplitEntry}

theorem inFlightOf_isNone_iff : (s.inFlightOf i).isNone = true ↔ ∀ f, s.sending = some f → f.source ≠ .split i := by
  unfold State.inFlightOf
  cases s.sending with
  | none => simp
  | some f =>
    by_cases hf : f.source = .split i
    · simp [hf]
    · simp [hf]

/-- CLOSING with SHORT, as the statements write it (R55). -/
def SplitEntry.EndsShort (e : SplitEntry) : Prop := e.state = .closing ∧ e.finalStatus = some .short

theorem closingShort_iff : e.closingShort = true ↔ e.EndsShort := decide_eq_true_iff

theorem delivers_iff : e.delivers = true ↔
    e.state = .gathering ∨ e.state = .delivering ∨ e.EndsShort := by
  unfold SplitEntry.delivers
  rw [Bool.or_eq_true, closingShort_iff, decide_eq_true_iff, or_assoc]

theorem dataReady_iff (occupancy : Nat) : dataReady occupancy e = true ↔
    e.held ≠ [] ∧ (128 ≤ e.held.length ∨ e.received = e.length ∨ 448 ≤ occupancy ∨ e.EndsShort) := by
  unfold dataReady
  simp only [Bool.and_eq_true, Bool.or_eq_true, closingShort_iff, decide_eq_true_eq, or_assoc, Bool.not_eq_true',
    List.isEmpty_eq_false_iff]
  rfl

/-- An entry that delivers no data has its status left to send. -/
theorem not_delivers_iff : e.delivers = false ↔
    (e.state = .closing ∧ ¬ e.EndsShort) ∨ e.state = .abandoned := by
  rw [Bool.eq_false_iff, Ne, delivers_iff]
  unfold SplitEntry.EndsShort
  cases e.state <;> simp

/-- What an entry of each state waits for before it has a frame. -/
theorem frameWaits_iff (occupancy : Nat) :
    (if e.delivers then dataReady occupancy e || (e.closingShort && e.held.isEmpty) else true) = true ↔
      ((e.state = .gathering ∨ e.state = .delivering ∨ e.EndsShort) ∧ e.held ≠ [] ∧
          (128 ≤ e.held.length ∨ e.received = e.length ∨ 448 ≤ occupancy ∨ e.EndsShort)) ∨
        (e.EndsShort ∧ e.held = []) ∨ (e.state = .closing ∧ ¬ e.EndsShort) ∨ e.state = .abandoned := by
  cases hd : e.delivers with
  | true =>
    have hdelivers := delivers_iff.1 hd
    have hnot : ¬ ((e.state = .closing ∧ ¬ e.EndsShort) ∨ e.state = .abandoned) := fun h =>
      Bool.false_ne_true ((not_delivers_iff.2 h).symm.trans hd)
    rw [if_pos rfl, Bool.or_eq_true, Bool.and_eq_true, dataReady_iff, closingShort_iff, List.isEmpty_iff, or_iff_left hnot,
      and_iff_right hdelivers]
  | false => exact iff_of_true rfl (.inr (.inr (not_delivers_iff.1 hd)))

theorem frameReady_iff : s.frameReady i = true ↔ ∃ e, s.entry i = some e ∧
    (∀ f, s.sending = some f → f.source ≠ .split i) ∧ e.finalSent = false ∧
    (if e.delivers then dataReady s.occupancy e || (e.closingShort && e.held.isEmpty) else true) = true := by
  unfold State.frameReady
  cases s.entry i with
  | none => exact iff_of_false Bool.false_ne_true fun ⟨_, h, _⟩ => nomatch h
  | some e =>
    simp only [Option.some.injEq, exists_eq_left', ← inFlightOf_isNone_iff]
    rw [Bool.and_eq_true, Bool.and_eq_true, Bool.not_eq_true', and_assoc]

/-! ## The content of an entry's frame (R58) -/

theorem content_gathering (h : e.state = .gathering) :
    e.content = { data := e.held.take 128, offset := e.start + e.sent, status := .ok, final := false } := by
  unfold SplitEntry.content
  rw [h]
  rfl

theorem content_delivering (h : e.state = .delivering) : e.content =
    { data := e.held.take 128, offset := e.start + e.sent, status := .ok, final := decide (e.held.length ≤ 128) } := by
  unfold SplitEntry.content
  rw [h]
  rfl

theorem content_short (h : e.state = .closing) (hshort : e.finalStatus = some .short) : e.content =
    { data := e.held.take 128, offset := e.start + e.sent, status := if e.held.length ≤ 128 then .short else .ok
      final := decide (e.held.length ≤ 128) } := by
  unfold SplitEntry.content
  rw [h]
  dsimp only
  rw [if_pos (closingShort_iff.2 ⟨h, hshort⟩)]
  simp only [decide_eq_true_eq]
  rfl

/-- An entry that has failed sends its status alone. -/
theorem content_status {st : Status} (h : e.state = .closing ∨ e.state = .abandoned) (hst : e.finalStatus = some st)
    (hshort : e.state = .closing → st ≠ .short) :
    e.content = { data := [], offset := e.start + e.sent, status := st, final := true } := by
  have hstatus : e.status = st := congrArg (Option.getD · Status.ok) hst
  unfold SplitEntry.content
  rcases h with h | h
  · have hnot : ¬ e.closingShort = true := fun hc =>
      hshort h (Option.some.inj (hst.symm.trans (closingShort_iff.1 hc).2))
    rw [h, hstatus]
    exact if_neg hnot
  · rw [h, hstatus]

end

theorem toByte_requester (rt : ReqTag) : rt.toByte.extractLsb' 5 3 = rt.requester := by
  unfold ReqTag.toByte
  rw [BitVec.extractLsb'_append_eq_left]

theorem toByte_tag (rt : ReqTag) : rt.toByte.extractLsb' 0 5 = rt.tag := by
  unfold ReqTag.toByte
  rw [BitVec.extractLsb'_append_eq_right]

/-- Settles O47: the head record is chosen before all else, and its frame is that of its kind. -/
theorem recordFrameBegins : Obligations.RecordFrameBegins := by
  refine ⟨fun s r rest hsending hin hq => ⟨fun offset hbody => ?_, fun failWord data follows hbody => ?_⟩,
    fun s h => exec_frameSendBegin_idle (beginsFrame_held h), fun rt => ⟨toByte_requester rt, toByte_tag rt⟩⟩
  all_goals
    rw [exec_frameSendBegin_record hsending hin hq]
    unfold State.sendRecord Record.resetFollows State.recordFrame
    rw [hbody]
    rfl

/-- Settles O48: readiness, the notice, and the entry nearest behind LAST SERVED with the content of its state. -/
theorem noticeOrSplitBegins : Obligations.NoticeOrSplitBegins := by
  refine ⟨fun s i => frameReady_iff.trans ?_, fun s hsending hin hq => ⟨fun hp => ?_, fun hp hready => ?_,
    ?_⟩⟩
  · exact exists_congr fun e => and_congr_right fun _ => and_congr_right fun _ => and_congr_right fun _ => frameWaits_iff _
  · exact exec_frameSendBegin_notice hsending hin hq hp
  · exact exec_frameSendBegin_idle (beginsFrame_no_candidate hq hp hready)
  · intro i e hp hi he hfirst begins
    have hbegins {data : List Byte} {status : Status} {final : Bool}
        (hc : e.content = { data := data, offset := e.start + e.sent, status := status, final := final }) :
        begins data status final := by
      refine (exec_frameSendBegin_split hsending hin hq hp (readyPlace_first hi hfirst) he).trans
        (congrArg (fun t : State => Host.Outcome.next t.endEvent) ?_)
      unfold State.sendSplit State.splitFrame
      rw [hc]
      cases e.owner <;> rfl
    exact ⟨fun h => hbegins (content_gathering h), fun h => hbegins (content_delivering h),
      fun h hshort => hbegins (content_short h hshort), fun st h hst hshort => hbegins (content_status h hst hshort)⟩

end Sys2Proof.Machine
end

section
/-! SUPPORT. The end of a split entry's send: what it leaves of the entry and of the rest, and the freeing of the entry. -/

namespace Sys2Proof.Machine

/-! ## The bytes of the frame count as sent (R58, R124) -/

/-- The entry behind the send of its frame: SENT has grown, and pieces sent whole are released. -/
def SplitEntry.afterFrame (e : SplitEntry) (n : Nat) (final : Bool) : SplitEntry :=
  SplitEntry.releaseSent { e with sent := e.sent + n, held := e.held.drop n, finalSent := e.finalSent || final }

/-- The state behind the bytes of a frame, before the entry may be freed: the grant pass and the room that they make. -/
def State.bytesSent (s : State) (i : Fin 16) (e : SplitEntry) (n : Nat) (final : Bool) : State :=
  (if n = 0 then s.setEntry i (some (e.afterFrame n final)) else (s.setEntry i (some (e.afterFrame n final))).grantPass).roomFreed

section
variable {s : State} {i : Fin 16} {e : SplitEntry} {n : Nat} {final : Bool}

theorem splitSent_eq (he : s.entry i = some e) (n : Nat) (final : Bool) :
    s.splitSent i n final = (s.bytesSent i e n final).freeIfDone i := by
  unfold State.splitSent
  rw [he]
  rfl

/-- A HELD piece that stays has bytes left to send (R49). -/
theorem mem_afterFrame {p : Piece} (h : p ∈ (e.afterFrame n final).pieces) :
    p ∈ e.pieces ∧ (p.state = .held → e.sent + n < min (p.offset - e.start + p.length) e.received) := by
  obtain ⟨hmem, hstays⟩ := List.mem_filter.1 h
  refine ⟨hmem, fun hheld => Nat.lt_of_not_le fun hsent => ?_⟩
  rw [decide_eq_true hheld, Bool.true_and, Bool.not_eq_true'] at hstays
  exact Bool.false_ne_true (hstays.symm.trans (decide_eq_true hsent))

theorem active_mem_afterFrame {p : Piece} (h : p ∈ e.pieces) (hp : p.state = .active) : p ∈ (e.afterFrame n final).pieces := by
  refine List.mem_filter.2 ⟨h, ?_⟩
  rw [hp]
  rfl

/-! ## What the bytes sent leave -/

/-- State t comes of a grant pass and of room found in state s. -/
structure GrantedRoom (s t : State) : Prop where
  entries : ∀ j, (t.entry j).map SplitEntry.ungranted = (s.entry j).map SplitEntry.ungranted
  pieces : PiecesAppended s t
  enabled : ∀ b, (t.branch b).enabled = (s.branch b).enabled
  only : { t with split := s.split, branches := s.branches, freeCount := s.freeCount } = s

theorem grantedRoom_of_granted {t : State} (h : Granted s t) (hp : PiecesAppended s t) : GrantedRoom s t.roomFreed where
  entries j := (congrArg (Option.map SplitEntry.ungranted) (roomFreed_entry t j)).trans (h.entries j)
  pieces j x hx := by
    obtain ⟨x', more, hx', hmore⟩ := hp j x hx
    exact ⟨x', more, (roomFreed_entry t j).trans hx', hmore⟩
  enabled b := (congrArg Branch.enabled (roomFreed_unstalled t b) :).trans (congrArg Branch.enabled (h.branches b) :)
  only := lift (fun x : State => { x with split := s.split, branches := s.branches, freeCount := s.freeCount })
    (roomFreed_only t) rfl (congrArg (fun x : State => { x with freeCount := s.freeCount }) h.rest :)

theorem bytesSent_granted (s : State) (i : Fin 16) (e : SplitEntry) (n : Nat) (final : Bool) :
    GrantedRoom (s.setEntry i (some (e.afterFrame n final))) (s.bytesSent i e n final) := by
  unfold State.bytesSent
  split
  · exact grantedRoom_of_granted (.refl _) (piecesAppended_of_split rfl)
  · exact grantedRoom_of_granted (grantPass_granted _) (grantPass_appends _)

/-- The entry behind the bytes sent is the one that its frame leaves, with the pieces that a grant pass appends. -/
theorem bytesSent_entry (s : State) (i : Fin 16) (e : SplitEntry) (n : Nat) (final : Bool) :
    ∃ e' more, (s.bytesSent i e n final).entry i = some e' ∧ e'.ungranted = (e.afterFrame n final).ungranted ∧
      e'.pieces = (e.afterFrame n final).pieces ++ more ∧ ∀ p ∈ more, p.state = .queued := by
  have hg := bytesSent_granted s i e n final
  obtain ⟨e', more, he', hpieces, hqueued⟩ := hg.pieces i _ (entry_setEntry_same _ _ _)
  have hentry := hg.entries i
  rw [he', entry_setEntry_same] at hentry
  exact ⟨e', more, he', Option.some.inj hentry, hpieces, hqueued⟩

theorem bytesSent_others (s : State) (e : SplitEntry) (n : Nat) (final : Bool) {j : Fin 16} (h : j ≠ i) :
    ((s.bytesSent i e n final).entry j).map SplitEntry.ungranted = (s.entry j).map SplitEntry.ungranted := by
  rw [(bytesSent_granted s i e n final).entries, entry_setEntry_ne _ _ _ _ h]

theorem bytesSent_only (s : State) (i : Fin 16) (e : SplitEntry) (n : Nat) (final : Bool) :
    { s.bytesSent i e n final with split := s.split, branches := s.branches, freeCount := s.freeCount } = s :=
  lift (fun t : State => { t with split := s.split }) (bytesSent_granted s i e n final).only rfl rfl

theorem bytesSent_enabled (s : State) (i : Fin 16) (e : SplitEntry) (n : Nat) (final : Bool) (b : Fin 4) :
    ((s.bytesSent i e n final).branch b).enabled = (s.branch b).enabled :=
  ((bytesSent_granted s i e n final).enabled b).trans (congrArg Branch.enabled (branch_setEntry _ _ _ _))

/-! ## Whether the entry is freed (R65) -/

theorem freeIfDone_active (he : s.entry i = some e) (ha : e.hasActive = true) : s.freeIfDone i = s := by
  unfold State.freeIfDone
  rw [he]
  dsimp only
  rw [ha, Bool.not_true, Bool.and_false]
  rfl

/-- The place of a freed entry is free, and its AGE is gone (R65). -/
def State.placeFreed (s : State) (i : Fin 16) : State :=
  { s.setEntry i none with ageOrder := s.ageOrder.filter fun j => !(j == i) }

/-- Behind its FINAL frame and without an ACTIVE piece an entry is freed: the attention entries that wait claim its place, and the
poll's own goes to holdoff (R65, R161, R162). -/
theorem freeIfDone_frees (he : s.entry i = some e) (hsent : e.finalSent = true) (hactive : e.hasActive = false) :
    (∀ rt, e.owner = .trunk rt → s.freeIfDone i = (s.placeFreed i).claims) ∧
      (∀ b, e.owner = .attn b → s.freeIfDone i = (s.placeFreed i).pollFreed b) := by
  have hfreed : s.freeIfDone i = s.freeEntry i := by
    unfold State.freeIfDone
    rw [he]
    dsimp only
    rw [hsent, hactive]
    rfl
  rw [hfreed]
  unfold State.freeEntry
  rw [he]
  refine ⟨fun rt howner => ?_, fun b howner => ?_⟩
  all_goals
    dsimp only
    rw [howner]
    rfl

theorem filter_place (ages : List (Fin 16)) (i : Fin 16) : (ages.filter fun j => !(j == i)) = ages.filter fun j => j ≠ i :=
  List.filter_congr fun j _ => by rw [beq_eq_decide, decide_not]

/-- A frame that is not FINAL, or an ACTIVE piece, keeps the entry (R65). -/
theorem splitSent_keeps (he : s.entry i = some e) (hunsent : e.finalSent = false)
    (h : final = false ∨ ∃ p ∈ e.pieces, p.state = .active) : s.splitSent i n final = s.bytesSent i e n final := by
  rw [splitSent_eq he]
  obtain ⟨e', more, he', hungranted, hpieces, _⟩ := bytesSent_entry s i e n final
  rcases h with rfl | ⟨p, hp, hactive⟩
  · refine freeIfDone_unsent he' ((congrArg SplitEntry.finalSent hungranted :).trans ?_)
    exact (Bool.or_false _).trans hunsent
  · refine freeIfDone_active he' (List.any_eq_true.2 ⟨p, ?_, decide_eq_true hactive⟩)
    rw [hpieces]
    exact List.mem_append_left _ (active_mem_afterFrame hp hactive)

/-- The FINAL frame of an entry without an ACTIVE piece frees it (R65). -/
theorem splitSent_frees (he : s.entry i = some e) (n : Nat) (hinactive : ∀ p ∈ e.pieces, p.state ≠ .active) :
    (∀ rt, e.owner = .trunk rt → s.splitSent i n true = ((s.bytesSent i e n true).placeFreed i).claims) ∧
      (∀ b, e.owner = .attn b → s.splitSent i n true = ((s.bytesSent i e n true).placeFreed i).pollFreed b) := by
  obtain ⟨e', more, he', hungranted, hpieces, hqueued⟩ := bytesSent_entry s i e n true
  have hsent : e'.finalSent = true := (congrArg SplitEntry.finalSent hungranted :).trans (Bool.or_true _)
  have hactive : e'.hasActive = false := hasActive_eq_false fun p hp => by
    rw [hpieces] at hp
    rcases List.mem_append.1 hp with hp | hp
    · exact hinactive p (mem_afterFrame hp).1
    · rw [hqueued p hp]
      decide
  have howner : e'.owner = e.owner := (congrArg SplitEntry.owner hungranted :)
  rw [splitSent_eq he, ← howner]
  exact freeIfDone_frees he' hsent hactive

/-- What an entry's last frame leaves of the state, its place free. -/
theorem placeFreed_bytesSent (s : State) (i : Fin 16) (e : SplitEntry) (n : Nat) (final : Bool) :
    let t := (s.bytesSent i e n final).placeFreed i
    t.entry i = none ∧ (∀ j, j ≠ i → (t.entry j).map SplitEntry.ungranted = (s.entry j).map SplitEntry.ungranted) ∧
      (∀ b, (t.branch b).enabled = (s.branch b).enabled) ∧ t.ageOrder = s.ageOrder.filter (fun j => j ≠ i) ∧
      { t with split := s.split, branches := s.branches, ageOrder := s.ageOrder, freeCount := s.freeCount } = s := by
  have honly := bytesSent_only s i e n final
  have hages : (s.bytesSent i e n final).ageOrder = s.ageOrder := (congrArg State.ageOrder honly :)
  refine ⟨entry_setEntry_same _ _ _, fun j hj => ?_, bytesSent_enabled s i e n final, ?_, ?_⟩
  · exact (congrArg (Option.map SplitEntry.ungranted) (entry_setEntry_ne _ _ _ _ hj)).trans (bytesSent_others s e n final hj)
  · rw [← filter_place, ← hages]
    rfl
  · exact lift (fun t : State => { t with ageOrder := s.ageOrder }) honly rfl rfl

end

end Sys2Proof.Machine
end

section
/-! SUPPORT. The claims on a freed place, and the holdoff of a freed poll. -/

namespace Sys2Proof.Machine

section
variable {s t : State} {b : Fin 4} {i : Fin 16} {r : Route}

/-! ## Claims (R161) -/

theorem claimOver_none_waits {bs : List (Fin 4)} (h : ∀ c ∈ bs, (s.attn c).waiting = false) : s.claimOver bs = s := by
  induction bs with
  | nil => rfl
  | cons c rest ih =>
    unfold State.claimOver
    rw [h c List.mem_cons_self, Bool.false_and]
    exact ih fun d hd => h d (List.mem_cons_of_mem _ hd)

theorem claims_none_waits (h : ∀ c, (s.attn c).waiting = false) : s.claims = s := by
  unfold State.claims
  split
  · exact claimOver_none_waits fun c _ => h c
  · rfl

theorem claimOver_full (h : s.freePlace = none) (bs : List (Fin 4)) : s.claimOver bs = s := by
  induction bs with
  | nil => rfl
  | cons c rest ih =>
    unfold State.claimOver
    rw [h, Option.isSome_none, Bool.and_false]
    exact ih

/-- The first entry of the list that waits attempts its poll at a free place, and the claims go on behind it. -/
theorem claimOver_first {before behind : List (Fin 4)} (hbefore : ∀ c ∈ before, (s.attn c).waiting = false)
    (hwaits : (s.attn b).waiting = true) (hplace : s.freePlace = some i) :
    s.claimOver (before ++ b :: behind) = (s.attemptPoll b).claimOver behind := by
  induction before with
  | nil =>
    show s.claimOver (b :: behind) = _
    conv => lhs; unfold State.claimOver
    rw [hwaits, hplace]
    rfl
  | cons c rest ih =>
    show s.claimOver (c :: (rest ++ b :: behind)) = _
    conv => lhs; unfold State.claimOver
    rw [hbefore c List.mem_cons_self, Bool.false_and]
    exact ih fun d hd => hbefore d (List.mem_cons_of_mem _ hd)

/-- The branches in ascending order, cut at one of them. -/
theorem four_cut (b : Fin 4) : ∃ before behind, four = before ++ b :: behind ∧ ∀ c ∈ before, c < b :=
  ⟨four.take b.val, four.drop (b.val + 1), by revert b; decide, by revert b; decide⟩

/-- The lowest branch that waits takes the only free place: it is full again behind the poll. -/
theorem claims_lowest (hstate : s.opState = .active ∨ s.opState = .draining) (hlower : ∀ c, c < b → (s.attn c).waiting = false)
    (hwaits : (s.attn b).waiting = true) (hplace : s.freePlace = some i) (hfull : (s.attemptPoll b).freePlace = none) :
    s.claims = s.attemptPoll b := by
  obtain ⟨before, behind, hfour, hbefore⟩ := four_cut b
  unfold State.claims State.polls
  rw [decide_eq_true hstate, if_pos rfl, hfour, claimOver_first (fun c hc => hlower c (hbefore c hc)) hwaits hplace]
  exact claimOver_full hfull behind

/-! ## The poll of a claim (R159, R160) -/

/-- A route depends on the Route Table and on which branches are enabled (R4 to R7). -/
theorem routeFor_congr (hroutes : t.routes = s.routes) (henabled : ∀ b, (t.branch b).enabled = (s.branch b).enabled) (ldn : Byte)
    (kind : AccessKind) (requester : Option (BitVec 3)) (offset size : Nat) :
    t.routeFor ldn kind requester offset size = s.routeFor ldn kind requester offset size := by
  have hresolve : t.resolve ldn kind requester = s.resolve ldn kind requester := by
    unfold State.resolve
    rw [hroutes]
    simp only [henabled]
  unfold State.routeFor
  rw [hresolve]

theorem attemptPoll_creates (hlength : 1 ≤ (s.attn b).length)
    (hroute : s.routeFor (s.attn b).ldn .forRead none (s.attn b).offset.toNat (s.attn b).length = .ok r)
    (hplace : s.freePlace = some i) : s.attemptPoll b = s.pollCreated b i r := by
  unfold State.attemptPoll
  dsimp only
  rw [if_neg (by omega), hroute]
  dsimp only
  rw [hplace]

/-- A new entry gathers for its owner over its route; the grant pass behind its creation may append pieces (R43, R48). -/
theorem createEntry_entry (s : State) (i : Fin 16) (owner : SplitOwner) (r : Route) (start length : Nat) :
    ∃ e, (s.createEntry i owner r start length).entry i = some e ∧ e.owner = owner ∧ e.route = r ∧ e.state = .gathering := by
  have hg : Granted _ (s.createEntry i owner r start length) := grantPass_granted _
  obtain ⟨e, he, hungranted⟩ := Option.map_eq_some_iff.1
    ((hg.entries i).trans (congrArg (Option.map SplitEntry.ungranted) (entry_setEntry_same s i _)))
  exact ⟨e, he, (congrArg SplitEntry.owner hungranted :), (congrArg SplitEntry.route hungranted :),
    (congrArg SplitEntry.state hungranted :)⟩

theorem createEntry_others (s : State) {i j : Fin 16} (h : j ≠ i) (owner : SplitOwner) (r : Route) (start length : Nat) :
    ((s.createEntry i owner r start length).entry j).map SplitEntry.ungranted = (s.entry j).map SplitEntry.ungranted := by
  have hg : Granted _ (s.createEntry i owner r start length) := grantPass_granted _
  exact (hg.entries j).trans (congrArg (Option.map SplitEntry.ungranted) (entry_setEntry_ne s i j _ h))

theorem createEntry_ageOrder (s : State) (i : Fin 16) (owner : SplitOwner) (r : Route) (start length : Nat) :
    (s.createEntry i owner r start length).ageOrder = s.ageOrder ++ [i] := (congrArg State.ageOrder (grantPass_only _) :)

theorem pollCreated_attns (s : State) (b : Fin 4) (i : Fin 16) (r : Route) : (s.pollCreated b i r).attns =
    s.attns.set b.val { s.attn b with pending := false, status := .polling } b.isLt :=
  (congrArg State.attns (createEntry_only _ i (.attn b) r _ _) :)

theorem pollCreated_entry (s : State) (b : Fin 4) (i : Fin 16) (r : Route) : ∃ e, (s.pollCreated b i r).entry i = some e ∧
    e.owner = .attn b ∧ e.route = r ∧ e.state = .gathering := createEntry_entry _ i (.attn b) r _ _

/-- A poll in the last free place leaves none. -/
theorem pollCreated_full (b : Fin 4) (r : Route) (h : ∀ j, j ≠ i → (s.entry j).isSome = true) :
    (s.pollCreated b i r).freePlace = none := by
  refine freePlace_none _ fun j => Option.isSome_iff_ne_none.1 ?_
  by_cases hj : j = i
  · subst hj
    obtain ⟨e, he, _⟩ := pollCreated_entry s b j r
    rw [he]
    rfl
  · have hentry : ((s.pollCreated b i r).entry j).map SplitEntry.ungranted = (s.entry j).map SplitEntry.ungranted :=
      createEntry_others _ hj _ _ _ _
    rw [← Option.isSome_map, hentry, Option.isSome_map]
    exact h j hj

/-- The lowest branch that waits claims the only free place for its poll (R159, R161). -/
theorem claims_only_place (hstate : s.opState = .active ∨ s.opState = .draining) (hfree : s.entry i = none)
    (hfull : ∀ j, j ≠ i → (s.entry j).isSome = true) (hlower : ∀ c, c < b → (s.attn c).waiting = false)
    (hwaits : (s.attn b).waiting = true) (hlength : 1 ≤ (s.attn b).length)
    (hroute : s.routeFor (s.attn b).ldn .forRead none (s.attn b).offset.toNat (s.attn b).length = .ok r) :
    s.claims = s.pollCreated b i r := by
  have hplace : s.freePlace = some i :=
    freePlace_some s hfree fun j hj => Option.isSome_iff_ne_none.1 (hfull j (ne_of_lt hj))
  have hpoll := attemptPoll_creates hlength hroute hplace
  rw [← hpoll]
  refine claims_lowest hstate hlower hwaits hplace ?_
  rw [hpoll]
  exact pollCreated_full b r hfull

/-! ## A freed poll (R162) -/

theorem waiting_iff (a : Attn) : a.waiting = true ↔ a.status = .idle ∧ a.pending = true := by
  unfold Attn.waiting
  rw [Bool.and_eq_true, decide_eq_true_iff]

theorem not_waiting_iff (a : Attn) : a.waiting = false ↔ a.status ≠ .idle ∨ a.pending = false := by
  rw [Bool.eq_false_iff, Ne, waiting_iff, not_and_or, Bool.not_eq_true]

/-- Entry b has changed and does not wait, and no other entry has a trigger pending: none waits. -/
theorem none_waits_modAttn {f : Attn → Attn} (hb : (f (s.attn b)).waiting = false)
    (hothers : ∀ c, c ≠ b → (s.attn c).pending = false) (c : Fin 4) : ((s.modAttn b f).attn c).waiting = false := by
  by_cases hc : c = b
  · subst hc
    rw [attn_modAttn_same]
    exact hb
  · rw [attn_modAttn_ne _ _ _ _ hc]
    exact (not_waiting_iff _).2 (.inr (hothers c hc))

/-- An attention entry in HOLDOFF from its beginning. -/
def Attn.inHoldoff (a : Attn) : Attn :=
  { a with status := .holdoff, holdoffTimer := 0, holdoffLength := a.holdoff.toNat * 1000 }

/-- An attention entry that is IDLE again, without a trigger. -/
def Attn.atRest (a : Attn) : Attn := { a with status := .idle, pending := false, holdoffTimer := 0, holdoffLength := 0 }

theorem modAttn_inHoldoff (s : State) (b : Fin 4) : (s.modAttn b fun x =>
    { x with status := .holdoff, holdoffTimer := 0, holdoffLength := (s.attn b).holdoff.toNat * 1000 }) =
      s.modAttn b Attn.inHoldoff := modAttn_congr rfl

theorem inHoldoff_not_waiting (a : Attn) : a.inHoldoff.waiting = false := (not_waiting_iff _).2 (.inl nofun)

theorem atRest_not_waiting (a : Attn) : a.atRest.waiting = false := (not_waiting_iff _).2 (.inr rfl)

/-- A HOLDOFF of some time: the entry stays in it. -/
theorem pollFreed_holds (hholdoff : (s.attn b).holdoff ≠ 0) (hothers : ∀ c, c ≠ b → (s.attn c).pending = false) :
    s.pollFreed b = s.modAttn b Attn.inHoldoff := by
  have hlength : (s.attn b).holdoff.toNat * 1000 ≠ 0 := by
    have hnat : (s.attn b).holdoff.toNat ≠ 0 := fun h => hholdoff (BitVec.eq_of_toNat_eq h)
    omega
  unfold State.pollFreed
  dsimp only
  rw [if_pos hlength, modAttn_inHoldoff]
  exact claims_none_waits (none_waits_modAttn (inHoldoff_not_waiting _) hothers)

/-- A holdoff that ends without a trigger, or in an operating state that loses it, leaves the entry IDLE. -/
theorem endHoldoff_rests (h : (s.attn b).enabled = false ∨ s.opState = .offline ∨
    ((s.attn b).pending = false ∧ (s.attn b).levelLow = false)) : s.endHoldoff b = s.modAttn b Attn.atRest := by
  unfold State.endHoldoff State.polls State.sleeps
  dsimp only
  rcases h with h | h | ⟨hpending, hlevel⟩
  · rw [h]
    rfl
  · rw [h, if_neg (by simp), if_neg (by simp)]
    rfl
  · rw [hpending, hlevel, if_neg (by simp)]
    split
    · rw [modAttn_modAttn]
      rfl
    · rfl

/-- A HOLDOFF of 0 is judged at once, and no claim meets it. -/
theorem pollFreed_rests (hholdoff : (s.attn b).holdoff = 0) (hothers : ∀ c, c ≠ b → (s.attn c).pending = false)
    (h : (s.attn b).enabled = false ∨ s.opState = .offline ∨ ((s.attn b).pending = false ∧ (s.attn b).levelLow = false)) :
    s.pollFreed b = s.modAttn b Attn.atRest := by
  have hnone : (s.modAttn b Attn.inHoldoff).someWaits = false := List.any_eq_false.2 fun c _ =>
    Bool.eq_false_iff.1 (none_waits_modAttn (inHoldoff_not_waiting _) hothers c)
  have hrests : (s.modAttn b Attn.inHoldoff).endHoldoff b = s.modAttn b Attn.atRest := by
    rw [endHoldoff_rests (by rw [attn_modAttn_same]; exact h), modAttn_modAttn]
    rfl
  unfold State.pollFreed
  dsimp only
  rw [if_neg (by rw [hholdoff]; decide), modAttn_inHoldoff, hnone, if_neg Bool.false_ne_true, pick_singleton]
  dsimp only
  rw [hrests]
  exact claims_none_waits (none_waits_modAttn (atRest_not_waiting _) hothers)

end

end Sys2Proof.Machine
end

section
/-! SUPPORT. SEND_END by the source of the frame, the end of DRAINING, and HOLD-IN. -/

namespace Sys2Proof.Machine

section
variable {s : State} {f : InFlight} {i : Fin 16} {e : SplitEntry}

/-! ## SEND_END by its source (R124) -/

theorem exec_sendEnd (hsending : s.sending = some f) : exec .sendEnd s = .next (s.endSend f).endEvent := by
  show execSendEnd s = _
  unfold execSendEnd
  rw [hsending]

theorem endSend_plain (h : f.source = .record false ∨ f.source = .notice) : s.endSend f = { s with sending := none } := by
  unfold State.endSend
  rcases h with h | h <;> rw [h]

theorem exec_sendEnd_split (hsending : s.sending = some f) (hsource : f.source = .split i) :
    exec .sendEnd s = .next (State.splitSent { s with sending := none } i f.dataCount f.final).endEvent := by
  rw [exec_sendEnd hsending]
  unfold State.endSend
  rw [hsource]

/-! ## The end of DRAINING (R176) -/

/-- With no operation, no answer and no due head nothing follows at once. -/
theorem follows_nil_of_empty (hbranches : ∀ b, (s.branch b).queue = [] ∧ (s.branch b).answers = [])
    (hstate : s.opState ≠ .offline) (hdue : ∀ x ∈ s.releaseQueue, x.due = false) : s.follows = [] := by
  refine follows_eq_nil_iff.2 ⟨fun b => Bool.eq_false_iff.2 fun h => ?_, fun b => Bool.eq_false_iff.2 fun h => ?_, ?_⟩
  · obtain ⟨_, _, _, hqueue, _⟩ := mayTake_iff.1 h
    exact hqueue (hbranches b).1
  · exact (mayPost_iff.1 h).1 (hbranches b).2
  · cases hq : s.releaseQueue with
    | nil => exact judgeHead_of_empty hq
    | cons x rest => exact (judgeHead_eq_none_iff hq).2 (.inr ⟨hstate, .inl (hdue x (by rw [hq]; exact List.mem_cons_self))⟩)

/-- An event that leaves a DRAINING bridge nothing to do ends in QUIET. -/
theorem endEvent_quiesces (hstate : s.opState = .draining) (hfollows : s.follows = []) (hquiet : s.quiescent = true) :
    s.endEvent = { s with opState := .quiet } := by
  obtain ⟨hentries, _, hrecords, hnotice, _, _⟩ := quiescent_iff.1 hquiet
  have hready (i : Fin 16) : s.frameReady i = false := Bool.eq_false_iff.2 fun h => by
    obtain ⟨e, he⟩ := entry_of_frameReady h
    cases (hentries i).symm.trans he
  unfold State.endEvent
  rw [settle_of_no_follows s hfollows, beginFrame_of_not_begins (beginsFrame_no_candidate hrecords hnotice hready),
    settle_of_no_follows s hfollows]
  exact if_pos ⟨hstate, hquiet⟩

/-! ## HOLD-IN (R119) -/

/-- The release of HOLD-IN lets nothing but a frame begin. -/
theorem settled_holdInRelease (h : s.Settled) (hframe : State.beginsFrame { s with holdIn := false } = false) :
    State.Settled { s with holdIn := false } where
  engines := h.engines
  answers := h.answers
  head := judgeHead_none_of_same h.head rfl Iff.rfl rfl fun _ => ⟨rfl, rfl⟩
  frame := hframe
  draining := h.draining

/-! ## What the FINAL frame leaves of the attention entries -/

theorem levelLow_eq_false (a : Attn) (h : a.mode = .edge ∨ a.line = true) : a.levelLow = false := by
  unfold Attn.levelLow
  rcases h with h | h
  · rw [h]
    rfl
  · rw [h, Bool.not_true, Bool.and_false]

/-- State t is state s behind the FINAL frame of place i, which is free; no frame is in flight. -/
structure FinalFrameSent (s : State) (i : Fin 16) (t : State) : Prop where
  free : t.entry i = none
  others : ∀ j, j ≠ i → (t.entry j).map SplitEntry.ungranted = (s.entry j).map SplitEntry.ungranted
  enabled : ∀ b, (t.branch b).enabled = (s.branch b).enabled
  ages : t.ageOrder = s.ageOrder.filter fun j => j ≠ i
  idle : t.sending = none
  only : { t with
    sending := s.sending, split := s.split, branches := s.branches, ageOrder := s.ageOrder, freeCount := s.freeCount } = s

theorem FinalFrameSent.attns {t : State} (h : FinalFrameSent s i t) : t.attns = s.attns := (congrArg State.attns h.only :)

theorem FinalFrameSent.attn {t : State} (h : FinalFrameSent s i t) (b : Fin 4) : t.attn b = s.attn b :=
  congrArg (fun v : Vector Attn 4 => v[b.val]) h.attns

theorem FinalFrameSent.opState {t : State} (h : FinalFrameSent s i t) : t.opState = s.opState :=
  (congrArg State.opState h.only :)

/-- SEND_END of a FINAL frame of an entry without an ACTIVE piece: the place is free, and the owner decides who has it next. -/
theorem exec_sendEnd_final (hsending : s.sending = some f) (hsource : f.source = .split i) (he : s.entry i = some e)
    (hfinal : f.final = true) (hinactive : ∀ p ∈ e.pieces, p.state ≠ .active) : ∃ t, FinalFrameSent s i t ∧
      (∀ rt, e.owner = .trunk rt → exec .sendEnd s = .next t.claims.endEvent) ∧
      (∀ b, e.owner = .attn b → exec .sendEnd s = .next (t.pollFreed b).endEvent) := by
  have hexec := exec_sendEnd_split hsending hsource
  rw [hfinal] at hexec
  obtain ⟨hclaims, hfreed⟩ := splitSent_frees (s := { s with sending := none }) he f.dataCount hinactive
  obtain ⟨hfree, hothers, henabled, hages, honly⟩ := placeFreed_bytesSent { s with sending := none } i e f.dataCount true
  refine ⟨_, ⟨hfree, hothers, henabled, hages, (congrArg State.sending honly :), ?_⟩,
    fun rt howner => by rw [hexec, hclaims rt howner], fun b howner => by rw [hexec, hfreed b howner]⟩
  exact lift (fun t : State => { t with sending := s.sending }) honly rfl rfl

/-- The poll of the lowest attention entry that waits takes the freed place (R161). -/
theorem FinalFrameSent.claims {t : State} {b : Fin 4} {r : Route} (h : FinalFrameSent s i t)
    (hstate : s.opState = .active ∨ s.opState = .draining) (hfull : ∀ j, j ≠ i → (s.entry j).isSome = true)
    (hidle : (s.attn b).status = .idle) (hpending : (s.attn b).pending = true) (hlength : 1 ≤ (s.attn b).length)
    (hlower : ∀ c, c < b → (s.attn c).status ≠ .idle ∨ (s.attn c).pending = false)
    (hroute : s.routeFor (s.attn b).ldn .forRead none (s.attn b).offset.toNat (s.attn b).length = .ok r) :
    t.claims = t.pollCreated b i r := by
  refine claims_only_place (by rw [h.opState]; exact hstate) h.free (fun j hj => ?_) (fun c hc => ?_) ?_ ?_ ?_
  · rw [← Option.isSome_map (f := SplitEntry.ungranted), h.others j hj, Option.isSome_map]
    exact hfull j hj
  · rw [h.attn]
    exact (not_waiting_iff _).2 (hlower c hc)
  · rw [h.attn]
    exact (waiting_iff _).2 ⟨hidle, hpending⟩
  · rw [h.attn]
    exact hlength
  · have hroutes : t.routes = s.routes := (congrArg State.routes h.only :)
    rw [h.attn, routeFor_congr hroutes h.enabled]
    exact hroute

theorem FinalFrameSent.modAttn {t : State} (h : FinalFrameSent s i t) (b : Fin 4) (f : Attn → Attn) :
    (t.modAttn b f).entry i = none ∧ (t.modAttn b f).attns = s.attns.set b.val (f (s.attn b)) b.isLt ∧
      (t.modAttn b f).ageOrder = s.ageOrder.filter fun j => j ≠ i :=
  ⟨h.free, congrArg (fun v : Vector Attn 4 => v.set b.val (f v[b.val]) b.isLt) h.attns, h.ages⟩

end

/-- Settles O49: the end of a send by its source; behind a FINAL frame, by the owner of the freed entry. -/
theorem sendEnds : Obligations.SendEnds := by
  refine ⟨fun s f hsending hsource => ?_, fun s f i e hsending hsource he hunsent => ⟨fun h => ?_, fun hfinal hinactive => ?_⟩,
    fun s => rfl, fun s => rfl, fun s hs _ _ hq hp hready => ?_⟩
  · -- a record or a notice
    have hexec := exec_sendEnd hsending
    rw [endSend_plain hsource] at hexec
    refine ⟨hexec, fun hstate hq hp hin hentries hbranches hdue => hexec.trans (congrArg Host.Outcome.next ?_)⟩
    exact endEvent_quiesces (s := { s with sending := none }) hstate
      (follows_nil_of_empty hbranches (by rw [hstate]; decide) hdue)
      (quiescent_iff.2 ⟨hentries, fun b => (hbranches b).1, hq, hp, rfl, hin⟩)
  · -- a split frame that leaves its entry
    have hexec := exec_sendEnd_split hsending hsource
    rw [splitSent_keeps (s := { s with sending := none }) he hunsent h] at hexec
    have honly := bytesSent_only { s with sending := none } i e f.dataCount f.final
    obtain ⟨e', more, he', hungranted, hpieces, hqueued⟩ := bytesSent_entry { s with sending := none } i e f.dataCount f.final
    have hsent : e'.sent = e.sent + f.dataCount := (congrArg SplitEntry.sent hungranted :)
    have hfinal : e'.finalSent = (e.finalSent || f.final) := (congrArg SplitEntry.finalSent hungranted :)
    rw [hunsent, Bool.false_or] at hfinal
    refine ⟨_, e', hexec, (congrArg State.sending honly :), he', hsent, (congrArg SplitEntry.held hungranted :),
      (congrArg SplitEntry.received hungranted :), (congrArg SplitEntry.state hungranted :), hfinal, fun p hp hheld => ?_,
      fun j hj => bytesSent_others _ e _ _ hj, lift (fun t : State => { t with sending := s.sending }) honly rfl rfl⟩
    rw [hpieces] at hp
    rw [hsent]
    rcases List.mem_append.1 hp with hp | hp
    · exact (mem_afterFrame hp).2 hheld
    · cases (hqueued p hp).symm.trans hheld
  · -- the FINAL frame of an entry without an ACTIVE piece
    obtain ⟨t, ht, htrunk, hpoll⟩ := exec_sendEnd_final hsending hsource he hfinal hinactive
    refine ⟨fun rt howner hpending => ?_, fun rt b r howner hstate hfull hidle hpending hlength hlower hroute => ?_,
      fun b howner hothers => ?_⟩
    · have hexec := htrunk rt howner
      rw [claims_of_no_pending fun c => by rw [ht.attn]; exact hpending c] at hexec
      exact ⟨t, hexec, ht.idle, ht.free, ht.ages, ht.others, ht.only⟩
    · have hexec := htrunk rt howner
      rw [ht.claims hstate hfull hidle hpending hlength hlower hroute] at hexec
      obtain ⟨e', he', howner', hroute', hgathers⟩ := pollCreated_entry t b i r
      refine ⟨_, e', hexec, he', howner', hroute', hgathers, ?_, ?_⟩
      · rw [pollCreated_attns, ht.attn, ht.attns]
      · rw [← ht.ages]
        exact createEntry_ageOrder _ i (.attn b) r _ _
    · have hexec := hpoll b howner
      have hnone (c : Fin 4) (hc : c ≠ b) : (t.attn c).pending = false := by
        rw [ht.attn]
        exact hothers c hc
      intro held
      refine ⟨fun hholdoff => ?_, fun hholdoff h => ?_⟩
      · rw [pollFreed_holds (by rw [ht.attn]; exact hholdoff) hnone] at hexec
        exact ⟨_, hexec, ht.modAttn b Attn.inHoldoff⟩
      · have hrests : (t.attn b).enabled = false ∨ t.opState = .offline ∨
            ((t.attn b).pending = false ∧ (t.attn b).levelLow = false) := by
          rw [ht.attn, ht.opState]
          exact h.imp_right (Or.imp_right (And.imp_right (levelLow_eq_false _)))
        rw [pollFreed_rests (by rw [ht.attn]; exact hholdoff) hnone hrests] at hexec
        exact ⟨_, hexec, ht.modAttn b Attn.atRest⟩
  · -- HOLD-IN is released, and nothing waits to be sent
    exact congrArg Host.Outcome.next
      (endEvent_of_settled _ (settled_holdInRelease hs (beginsFrame_no_candidate hq hp hready)))

end Sys2Proof.Machine
end

section
/-! SUPPORT. Where a new entry of the Release Queue goes, and the distances by which entries are compared. -/

namespace Sys2Proof.Machine

section
variable {counter : Stamp} {e x : ReleaseEntry}

/-! ## Distances (R130, R134; log 39) -/

theorem longDue_iff :
    x.longDue counter = true ↔ x.due = true ∧ x.overdue = true ∧ 1 ≤ (x.stamp - counter).toInt := by
  unfold ReleaseEntry.longDue signedDistance
  simp [and_assoc]

theorem distance_of_longDue (h : x.longDue counter = true) : x.distance counter = -(2 ^ 31) := if_pos h

theorem distance_of_not_longDue (h : ¬ x.longDue counter = true) : x.distance counter = signedDistance counter x.stamp :=
  if_neg h

theorem signedDistance_ge (counter stamp : Stamp) : -(2 ^ 31) ≤ signedDistance counter stamp :=
  BitVec.le_toInt (stamp - counter)

/-- The tick on which the distance of a stamp turns over from 2^31 behind to 2^31 - 1 ahead. -/
theorem toInt_turnsOver {counter stamp : Stamp} (h : (stamp - counter).toInt = -(2 ^ 31)) :
    (stamp - (counter + 1)).toInt = 2 ^ 31 - 1 := by
  have hmin : stamp - counter = 0x80000000 := BitVec.eq_of_toInt_eq (h.trans (by decide))
  rw [sub_add_eq_sub_sub, hmin]
  decide

theorem wait_of_turning (hdue : e.due = true) (h : signedDistance counter e.stamp = -(2 ^ 31)) :
    e.wait counter = { e with overdue := true } := by
  unfold ReleaseEntry.wait
  simp [hdue, h]

theorem wait_of_not_turning (h : e.due = false ∨ signedDistance counter e.stamp ≠ -(2 ^ 31)) : e.wait counter = e := by
  have hstays : (e.due && decide (signedDistance counter e.stamp = -(2 ^ 31))) = false := by
    rw [Bool.and_eq_false_iff, decide_eq_false_iff_not]
    exact h
  unfold ReleaseEntry.wait
  rw [hstays, Bool.or_false]

/-! ## The place of a new entry (R134) -/

/-- An entry that is long due is taken as lying as far behind as can be: no stamp comes before it. -/
theorem not_longDue_of_later (h : signedDistance counter e.stamp < x.distance counter) : ¬ x.longDue counter = true := by
  intro hlong
  rw [distance_of_longDue hlong] at h
  exact absurd h (not_lt.2 (signedDistance_ge counter e.stamp))

theorem insertRelease_place (counter : Stamp) (e : ReleaseEntry) (q : List ReleaseEntry) :
    ∃ before after, q = before ++ after ∧ insertRelease counter e q = before ++ e :: after ∧
      (∀ x ∈ after, ¬ x.longDue counter = true) ∧
      (∀ x, after.head? = some x → signedDistance counter e.stamp < x.distance counter) ∧
      (∀ front x back, before = front ++ x :: back →
        x.distance counter ≤ signedDistance counter e.stamp ∨ ∃ y ∈ back, y.longDue counter = true) := by
  induction q with
  | nil => exact ⟨[], [], rfl, rfl, by simp, by simp, by simp⟩
  | cons x rest ih =>
    unfold insertRelease
    by_cases hhere : signedDistance counter e.stamp < x.distance counter ∧ rest.any (ReleaseEntry.longDue counter) = false
    · obtain ⟨hlater, hnone⟩ := hhere
      rw [if_pos ⟨hlater, hnone⟩]
      refine ⟨[], x :: rest, rfl, rfl, fun y hy => ?_, fun y hy => ?_, by simp⟩
      · rcases List.mem_cons.1 hy with rfl | hy
        · exact not_longDue_of_later hlater
        · exact List.any_eq_false.1 hnone y hy
      · cases hy
        exact hlater
    · rw [if_neg hhere]
      obtain ⟨before, after, hq, hinsert, hafter, hhead, hbefore⟩ := ih
      refine ⟨x :: before, after, by rw [hq]; rfl, by rw [hinsert]; rfl, hafter, hhead, fun front y back hsplit => ?_⟩
      cases front with
      | cons _ front =>
        obtain ⟨_, hbehind⟩ := List.cons.inj hsplit
        exact hbefore front y back hbehind
      | nil =>
        obtain ⟨rfl, rfl⟩ := List.cons.inj hsplit
        refine (not_and_or.1 hhere).imp not_lt.1 fun hany => ?_
        obtain ⟨y, hy, hlong⟩ := List.any_eq_true.1 (Bool.not_eq_false _ ▸ hany)
        rw [hq] at hy
        exact ⟨y, (List.mem_append.1 hy).resolve_right fun hy => hafter y hy hlong, hlong⟩

end

/-- Settles O15, by induction on the Release Queue (`insertRelease_place`). -/
theorem insertKeepsStampOrder : Obligations.InsertKeepsStampOrder := by
  refine ⟨fun counter e q => ?_, fun counter e hdue hover hahead => distance_of_longDue (longDue_iff.2 ⟨hdue, hover, hahead⟩),
    fun counter e hnot => distance_of_not_longDue fun hlong => ?_, fun counter e hdue hturns => ?_,
    fun counter e h => wait_of_not_turning h⟩
  · obtain ⟨before, after, hq, hinsert, hafter, hhead, hbefore⟩ := insertRelease_place counter e q
    simp only [longDue_iff] at hafter hbefore
    exact ⟨before, after, hq, hinsert, hafter, hhead, hbefore⟩
  · obtain ⟨hdue, hover, hahead⟩ := longDue_iff.1 hlong
    rcases hnot with h | h | h
    · exact Bool.false_ne_true (h.symm.trans hdue)
    · exact Bool.false_ne_true (h.symm.trans hover)
    · exact absurd hahead (not_le.2 (Int.lt_add_one_of_le h))
  · have hahead := toInt_turnsOver hturns
    rw [wait_of_turning hdue hturns]
    refine ⟨hahead, distance_of_longDue (longDue_iff.2 ⟨hdue, rfl, ?_⟩)⟩
    rw [hahead]
    decide

end Sys2Proof.Machine
end

section
/-! SUPPORT. What the takers of places leave of the Release Queue: entries leave at its head, and the head alone begins to wait. -/

namespace Sys2Proof.Machine

/-- A Release Queue entry but for its WAITING. -/
def ReleaseEntry.unwaited (e : ReleaseEntry) : ReleaseEntry := { e with waiting := false }

/-- From state s to state t, entries have left the Release Queue at its head and the head may have begun to wait; no wait has been
taken back. -/
structure Sheds (s t : State) : Prop where
  queue : t.releaseQueue.map ReleaseEntry.unwaited <:+ s.releaseQueue.map ReleaseEntry.unwaited
  rank : t.releaseRank ≤ s.releaseRank

section
variable {s t u : State}

theorem Sheds.refl (s : State) : Sheds s s := ⟨List.suffix_rfl, Nat.le_refl _⟩

theorem Sheds.trans (h : Sheds s t) (k : Sheds t u) : Sheds s u := ⟨k.queue.trans h.queue, Nat.le_trans k.rank h.rank⟩

theorem Sheds.same (h : Sheds s t) (hq : u.releaseQueue = t.releaseQueue) : Sheds s u := by
  obtain ⟨hqueue, hrank⟩ := h
  unfold State.releaseRank at hrank
  refine ⟨by rwa [hq], ?_⟩
  unfold State.releaseRank
  rwa [hq]

/-! ## The judgement of the head, and freed slots (R72, R135, R137) -/

theorem judgeHead_sheds (h : s.judgeHead = some t) : Sheds s t := by
  obtain ⟨e, rest, hq, hjudged⟩ := judgeHead_judged h
  refine ⟨?_, Nat.le_of_lt (judgeHead_rank h)⟩
  rw [hq]
  rcases hjudged.head with ht | ⟨_, ht⟩
  · rw [ht]
    exact List.suffix_cons _ _
  · rw [ht]
    exact List.suffix_rfl

theorem judgeRun_sheds (fuel : Nat) (s : State) : Sheds s (s.judgeRun fuel) := by
  induction fuel generalizing s with
  | zero => exact .refl s
  | succ n ih =>
    unfold State.judgeRun
    split
    · exact .refl s
    · rename_i t ht
      exact (judgeHead_sheds ht).trans (ih t)

theorem pick_sheds {α : Type} {xs : List α} {x : α} (h : s.pick xs = some (x, t)) : Sheds s t :=
  (Sheds.refl s).same (congrArg State.releaseQueue (pick_only s xs x t h) :)

theorem intakeTakesSlot_sheds {b : Fin 4} (h : s.intakeTakesSlot b = some t) : Sheds s t := by
  obtain ⟨_, _, _, _, _, _, rfl⟩ := intakeTakesSlot_write h
  exact (Sheds.refl s).same rfl

theorem slotFreedIn_sheds (b : Fin 4) (fuel : Nat) (s : State) : Sheds s (s.slotFreedIn b fuel) := by
  have hgrant (s : State) : Sheds s s.grantPass := (Sheds.refl s).same (congrArg State.releaseQueue (grantPass_only s) :)
  induction fuel generalizing s with
  | zero => exact hgrant s
  | succ n ih =>
    obtain ⟨x, s', hp, h | ⟨t, ht, h⟩ | ⟨_, t, ht, h⟩⟩ := slotFreedIn_turn s b n
    all_goals
      rw [h]
      refine (pick_sheds hp).trans ?_
    · exact hgrant s'
    · have hj : s'.judgeHead = some t := by
        unfold State.headTakesSlot at ht
        split at ht
        · exact ht
        · cases ht
      exact (judgeHead_sheds hj).trans ((judgeRun_sheds _ t).trans (ih _))
    · exact (intakeTakesSlot_sheds ht).trans (ih t)

/-- The end of a run sheds entries of the Release Queue alone. -/
theorem sheds_keptByRun (s : State) : KeptByRun fun t => Sheds s t where
  attn _ _ _ h := h.same rfl
  flag t f h := h.same (congrArg State.releaseQueue (setFlag_only t f) :)
  choice _ _ hpick h := h.same (congrArg State.releaseQueue hpick :)
  enter _ _ _ _ _ _ h := h.same rfl
  grant t h := h.same (congrArg State.releaseQueue (grantPass_only t) :)
  settle t i e o n first status _ h := h.same (congrArg State.releaseQueue (settlePiece_only t i e o n first status) :)
  slot t b h := h.trans (slotFreedIn_sheds b _ t)
  free _ _ _ _ _ _ h := h.same rfl
  fault _ _ h := h.same rfl
  answer t b r h := h.same (congrArg State.releaseQueue (addAnswer_only t b r) :)
  report t member ok h := h.same (congrArg State.releaseQueue (reportMember_only t member ok) :)
  engine _ _ _ _ h := h.same rfl

theorem abandon_sheds (s : State) (i : Fin 16) (status : Status) : Sheds s (s.abandon i status) := by
  have kept := sheds_keptByRun s
  unfold State.abandon
  split
  · exact .refl s
  · rename_i e _
    have hended : Sheds s (s.endEntry i .abandoned status) :=
      (Sheds.refl s).same (congrArg State.releaseQueue (endEntry_only s i _ _) :)
    refine kept.roomFreed (kept.slot _ _ ?_)
    unfold State.tellUnwanted
    split
    · exact hended
    · split
      · exact kept.tellEnd hended _ _
      · exact hended

end

end Sys2Proof.Machine
end

section
/-! SUPPORT. The expiries of one STAMP write: each place found due expires once, whatever comes between. -/

namespace Sys2Proof.Machine

/-! ## One expiry (R62) -/

/-- What the expiries of the places in a list, and judgements of the Release Queue's head between them, leave. -/
structure Expiries (due : List (Fin 16)) (s t : State) : Prop where
  only : t.withSettle s = s
  sheds : Sheds s t
  records : s.responseQueue <+: t.responseQueue
  others : ∀ j, j ∉ due → (t.entry j).map SplitEntry.ungranted = (s.entry j).map SplitEntry.ungranted

/-- The entry of place i has been abandoned by its expiry (R62, R63). -/
def State.TimedOut (s : State) (i : Fin 16) : Prop :=
  ∃ e, s.entry i = some e ∧ e.state = .abandoned ∧ e.finalStatus = some .timeout

section
variable {s t u : State} {i j : Fin 16} {e : SplitEntry} {due more : List (Fin 16)}

theorem Expiries.trans (h : Expiries due s t) (k : Expiries more t u) (hsub : ∀ j ∈ more, j ∈ due) : Expiries due s u where
  only := withSettle_trans k.only h.only
  sheds := h.sheds.trans k.sheds
  records := h.records.trans k.records
  others j hj := (k.others j fun hm => hj (hsub j hm)).trans (h.others j hj)

theorem Expiries.mono (h : Expiries more s t) (hsub : ∀ j ∈ more, j ∈ due) : Expiries due s t :=
  { h with others := fun j hj => h.others j fun hm => hj (hsub j hm) }

theorem Freed.expiries (h : Freed s t) (hsheds : Sheds s t) : Expiries [] s t where
  only := h.only
  sheds := hsheds
  records := by
    obtain ⟨more, hmore, _⟩ := h.records
    exact ⟨more, hmore.symm⟩
  others j _ := h.entries j

theorem Expiries.refl (s : State) : Expiries [] s s := (Freed.refl s).expiries (.refl s)

theorem pick_expiries {α : Type} {xs : List α} {x : α} (h : s.pick xs = some (x, t)) : Expiries [] s t :=
  (freed_of_pick h).expiries (pick_sheds h)

theorem judgeHead_expiries (h : s.judgeHead = some t) : Expiries [] s t := (judgeHead_freed h).expiries (judgeHead_sheds h)

/-- Whether a deadline is due depends on what a grant pass leaves of the entry, on the counter and on the frame in flight. -/
theorem expiryDue_of_ungranted (h : (t.entry j).map SplitEntry.ungranted = (s.entry j).map SplitEntry.ungranted)
    (hstamp : t.stamp = s.stamp) (hsending : t.sending = s.sending) : t.expiryDue j = s.expiryDue j := by
  unfold State.expiryDue State.finalBegun State.inFlightOf
  rw [hstamp, hsending]
  cases ht : t.entry j with
  | none =>
    rw [ht, Option.map_none, eq_comm, Option.map_eq_none_iff] at h
    rw [h]
  | some e' =>
    rw [ht, Option.map_some, eq_comm, Option.map_eq_some_iff] at h
    obtain ⟨e, he, hu⟩ := h
    have hstate : e'.state = e.state := (congrArg SplitEntry.state hu.symm :)
    have hfinal : e'.finalSent = e.finalSent := (congrArg SplitEntry.finalSent hu.symm :)
    have hdeadline : e'.deadline = e.deadline := (congrArg SplitEntry.deadline hu.symm :)
    rw [he]
    dsimp only
    rw [hstate, hfinal, hdeadline]

theorem Expiries.stillDue (h : Expiries due s t) (hj : j ∉ due) : t.expiryDue j = s.expiryDue j :=
  expiryDue_of_ungranted (h.others j hj) (congrArg State.stamp h.only :) (congrArg State.sending h.only :)

theorem Expiries.timedOut (h : Expiries due s t) (hi : i ∉ due) (hs : s.TimedOut i) : t.TimedOut i := by
  obtain ⟨e, he, hstate, hstatus⟩ := hs
  have hu := h.others i hi
  rw [he, Option.map_some, Option.map_eq_some_iff] at hu
  obtain ⟨e', he', hu⟩ := hu
  exact ⟨e', he', (congrArg SplitEntry.state hu :).trans hstate, (congrArg SplitEntry.finalStatus hu :).trans hstatus⟩

theorem expire_eq (he : s.entry i = some e) (hdue : s.expiryDue i = true) : s.expire i =
    if e.route.timeoutPolicy = .extend ∧ e.extended = false then s.extendDeadline i e
    else (s.abandon i .timeout).setFlag .splitTimeout := by
  unfold State.expire
  rw [he]
  exact if_pos hdue

theorem setFlag_expiries (s : State) (f : EventFlag) : Expiries [] s (s.setFlag f) where
  only := lift (fun x : State => x.withSettle s) (setFlag_only s f) rfl rfl
  sheds := (Sheds.refl s).same (congrArg State.releaseQueue (setFlag_only s f) :)
  records := by rw [setFlag_responseQueue]
  others j _ := by rw [setFlag_entry]

theorem extendDeadline_expiries (s : State) (i : Fin 16) (e : SplitEntry) : Expiries [i] s (s.extendDeadline i e) := by
  have hset (x : SplitEntry) : Expiries [i] s (s.setEntry i (some x)) := {
    only := rfl, sheds := (Sheds.refl s).same rfl, records := List.prefix_rfl
    others := fun j hj => by rw [entry_setEntry_ne _ _ _ _ (List.ne_of_not_mem_cons hj)] }
  exact (hset _).trans (setFlag_expiries _ .splitSlow) (by simp)

theorem abandon_expiries (he : s.entry i = some e) (hf : e.finalSent = false) (status : Status) :
    Expiries [i] s (s.abandon i status) := by
  have hend := endEntry_only s i .abandoned status
  have hfollows := abandon_follows he hf status
  exact {
    only := withSettle_trans hfollows.only (withSettle_of_split hend)
    sheds := abandon_sheds s i status
    records := by
      have hr : (s.endEntry i .abandoned status).responseQueue = s.responseQueue := (congrArg State.responseQueue hend :)
      rw [← hr]
      exact hfollows.records
    others := fun j hj => by
      have hne := List.ne_of_not_mem_cons hj
      rw [hfollows.others j hne, endEntry_others he status hne] }

theorem expire_expiries (hdue : s.expiryDue i = true) : Expiries [i] s (s.expire i) := by
  cases he : s.entry i with
  | none =>
    unfold State.expiryDue at hdue
    rw [he] at hdue
    cases hdue
  | some e =>
    obtain ⟨_, hbegun, _⟩ := (expiryDue_iff he).1 hdue
    rw [expire_eq he hdue]
    split
    · exact extendDeadline_expiries s i e
    · exact (abandon_expiries he (finalBegun_eq_false_iff.1 hbegun).1 .timeout).trans (setFlag_expiries _ .splitTimeout) (by simp)

/-- Under ABANDON the expiry abandons the entry (R62). -/
theorem expire_timedOut (he : s.entry i = some e) (hdue : s.expiryDue i = true) (hpolicy : e.route.timeoutPolicy = .abandon) :
    (s.expire i).TimedOut i := by
  obtain ⟨_, hbegun, _⟩ := (expiryDue_iff he).1 hdue
  obtain ⟨ps, hmine, _⟩ := (abandon_follows he (finalBegun_eq_false_iff.1 hbegun).1 .timeout).mine
  have hends : ¬ (e.route.timeoutPolicy = .extend ∧ e.extended = false) := by
    rw [hpolicy]
    exact fun h => nomatch h.1
  rw [expire_eq he hdue, if_neg hends]
  exact ⟨_, (setFlag_entry _ _ i).trans hmine, rfl, rfl⟩

/-! ## The expiries in their free order (R61, R131; log 5, 24) -/

theorem expireEach_of_nil (s : State) (fuel : Nat) : s.expireEach [] fuel = s := by
  cases fuel <;> rfl

theorem exists_pick {α : Type} {xs : List α} (h : xs ≠ []) (s : State) : ∃ x t, s.pick xs = some (x, t) := by
  cases xs with
  | nil => exact absurd rfl h
  | cons x rest =>
    cases rest with
    | nil => exact ⟨x, s, pick_singleton s x⟩
    | cons _ _ => exact ⟨_, _, rfl⟩

theorem stampWork_eq (hdue : due ≠ []) (s : State) :
    s.stampWork due = due.map some ++ (if s.judgeHead.isSome then [none] else []) := if_neg hdue

theorem stampWork_ne_nil (hdue : due ≠ []) (s : State) : s.stampWork due ≠ [] := by
  rw [stampWork_eq hdue]
  simp [hdue]

theorem some_mem_stampWork (hdue : due ≠ []) (h : some i ∈ s.stampWork due) : i ∈ due := by
  rw [stampWork_eq hdue] at h
  simpa using h

theorem none_mem_stampWork (hdue : due ≠ []) (h : none ∈ s.stampWork due) : s.judgeHead ≠ none := by
  rw [stampWork_eq hdue] at h
  simpa [Option.isSome_iff_ne_none] using h

/-- A turn: a place expires, or the head is judged and something comes of it. -/
theorem expireEach_turn (hdue : due ≠ []) (s : State) (fuel : Nat) : ∃ s', Expiries [] s s' ∧
    ((∃ i ∈ due, s.expireEach due (fuel + 1) = (s'.expire i).expireEach (due.filter fun j => !(j == i)) fuel) ∨
      ∃ u, s'.judgeHead = some u ∧ s.expireEach due (fuel + 1) = u.expireEach due fuel) := by
  obtain ⟨x, s', hp⟩ := exists_pick (stampWork_ne_nil hdue s) s
  refine ⟨s', pick_expiries hp, ?_⟩
  cases x with
  | some i => exact .inl ⟨i, some_mem_stampWork hdue (pick_mem s _ _ _ hp), by simp only [State.expireEach, hp]⟩
  | none =>
    have hstill : s'.judgeHead ≠ none := fun h => none_mem_stampWork hdue (pick_mem s _ _ _ hp) (by
      have h' := judgeHead_freeCount s' s.freeCount h
      rwa [pick_only s _ _ _ hp] at h')
    obtain ⟨u, hu⟩ := Option.ne_none_iff_exists'.1 hstill
    exact .inr ⟨u, hu, by simp only [State.expireEach, hp, hu, Option.getD_some]⟩

theorem mem_expiriesLeft : j ∈ due.filter (fun k => !(k == i)) ↔ j ∈ due ∧ j ≠ i := by simp

theorem expiriesLeft_length (hi : i ∈ due) : (due.filter fun j => !(j == i)).length < due.length :=
  List.length_filter_lt_length_iff_exists.2 ⟨i, hi, by simp⟩

/-- Places found due stay so while others expire. -/
theorem allDue_after (hall : ∀ j ∈ due, s.expiryDue j = true) (h : Expiries more s t) (hdue : ∀ j ∈ due, j ∉ more) :
    ∀ j ∈ due, t.expiryDue j = true := fun j hj => (h.stillDue (hdue j hj)).trans (hall j hj)

theorem expireEach_expiries (fuel : Nat) (s : State) (due : List (Fin 16)) (hall : ∀ j ∈ due, s.expiryDue j = true) :
    Expiries due s (s.expireEach due fuel) := by
  induction fuel generalizing s due with
  | zero => exact (Expiries.refl s).mono (by simp)
  | succ n ih =>
    by_cases hnil : due = []
    · rw [hnil, expireEach_of_nil]
      exact .refl s
    · obtain ⟨s', hpick, ⟨i, hi, h⟩ | ⟨u, hu, h⟩⟩ := expireEach_turn hnil s n
      all_goals
        rw [h]
        have hall' := allDue_after hall hpick (by simp)
        refine (hpick.mono (by simp)).trans ?_ (fun _ hj => hj)
      · have hexpired := expire_expiries (hall' i hi)
        refine (hexpired.mono (by simpa using hi)).trans (ih _ _ ?_) fun j hj => (mem_expiriesLeft.1 hj).1
        exact allDue_after (fun j hj => hall' j (mem_expiriesLeft.1 hj).1) hexpired
          fun j hj => by simpa using (mem_expiriesLeft.1 hj).2
      · have hjudged := judgeHead_expiries hu
        exact (hjudged.mono (by simp)).trans (ih _ _ (allDue_after hall' hjudged (by simp))) fun _ hj => hj

/-- With fuel for every expiry and for every judgement of a head, each place under ABANDON is abandoned. -/
theorem expireEach_timedOut (fuel : Nat) (s : State) (due : List (Fin 16)) (hfuel : due.length + s.releaseRank ≤ fuel)
    (hall : ∀ j ∈ due, s.expiryDue j = true) (hi : i ∈ due)
    (he : (s.entry i).map (fun e => e.route.timeoutPolicy) = some .abandon) : (s.expireEach due fuel).TimedOut i := by
  induction fuel generalizing s due with
  | zero =>
    obtain rfl : due = [] := List.length_eq_zero_iff.1 (by omega)
    cases hi
  | succ n ih =>
    obtain ⟨s', hpick, hturn⟩ := expireEach_turn (List.ne_nil_of_mem hi) s n
    have hall' := allDue_after hall hpick (by simp)
    have hpolicy {u v : State} {more : List (Fin 16)} (h : Expiries more u v) (hni : i ∉ more)
        (he : (u.entry i).map (fun e => e.route.timeoutPolicy) = some .abandon) :
        (v.entry i).map (fun e => e.route.timeoutPolicy) = some .abandon := by
      have hu := congrArg (Option.map fun e : SplitEntry => e.route.timeoutPolicy) (h.others i hni)
      rw [Option.map_map, Option.map_map] at hu
      exact hu.trans he
    have he' := hpolicy hpick (by simp) he
    have hrank := hpick.sheds.rank
    rcases hturn with ⟨j, hj, h⟩ | ⟨u, hu, h⟩
    · rw [h]
      have hexpired := expire_expiries (hall' j hj)
      have hleft := allDue_after (fun k hk => hall' k (mem_expiriesLeft.1 hk).1) hexpired
        fun k hk => by simpa using (mem_expiriesLeft.1 hk).2
      by_cases hij : i = j
      · subst hij
        obtain ⟨e, hentry, habandon⟩ := Option.map_eq_some_iff.1 he'
        exact (expireEach_expiries n _ _ hleft).timedOut (fun hm => (mem_expiriesLeft.1 hm).2 rfl)
          (expire_timedOut hentry (hall' i hi) habandon)
      · have hshorter := expiriesLeft_length hj
        have hrank' := hexpired.sheds.rank
        exact ih _ _ (by omega) hleft (mem_expiriesLeft.2 ⟨hi, hij⟩) (hpolicy hexpired (by simpa using hij) he')
    · rw [h]
      have hjudged := judgeHead_expiries hu
      have hfewer := judgeHead_rank hu
      exact ih _ _ (by omega) (allDue_after hall' hjudged (by simp)) hi (hpolicy hjudged (by simp) he')

end

end Sys2Proof.Machine
end

section
/-! SUPPORT. The stamp counter: its advance, a write of STAMP, and the marks that both make. -/

namespace Sys2Proof.Machine

section
variable {s : State} {rest : List Frame} {reqtag bridge : Byte} {w : Word}

/-! ## Entries found due (R130, R141) -/

theorem newlyDue_iff : s.newlyDue = true ↔ ∃ e ∈ s.releaseQueue, e.due = false ∧ isDue s.stamp e.stamp = true := by
  unfold State.newlyDue
  simp [List.any_eq_true]

theorem markDue_of_none_new (h : s.newlyDue = false) :
    s.markDue = { s with releaseQueue := s.releaseQueue.map (ReleaseEntry.markDue s.stamp) } :=
  if_neg (by rw [h]; exact Bool.false_ne_true)

theorem markDue_wakes (ho : s.opState = .quiet) (h : s.newlyDue = true) : s.markDue =
    State.setFlag { s with
      releaseQueue := s.releaseQueue.map (ReleaseEntry.markDue s.stamp), opState := .waking, wakeTimer := 0 } .woke :=
  (if_pos h).trans (if_pos ho)

/-! ## The advance (R128) -/

/-- The counter has advanced, and no entry has been marked yet. -/
def State.advanced (s : State) : State :=
  { s with
    stamp := s.stamp + 1, tickTimer := 0, tickLength := s.tickMicros
    releaseQueue := s.releaseQueue.map (ReleaseEntry.wait s.stamp) }

theorem exec_stampAdvance (s : State) : exec .stampAdvance s = .next s.advanced.markDue.endEvent := rfl

theorem advanced_newlyDue_iff :
    s.advanced.newlyDue = true ↔ ∃ e ∈ s.releaseQueue, e.due = false ∧ isDue (s.stamp + 1) e.stamp = true := by
  rw [newlyDue_iff]
  simp [State.advanced, ReleaseEntry.wait]

theorem advanced_marked (s : State) : s.advanced.releaseQueue.map (ReleaseEntry.markDue s.advanced.stamp) =
    s.releaseQueue.map fun e => (e.wait s.stamp).markDue (s.stamp + 1) := List.map_map

/-! ## A write of STAMP (R129, R131; log 42) -/

/-- STAMP holds the value written, a tick begins, and entries found due are marked. -/
def State.stampWritten (s : State) (value : Stamp) : State :=
  { s with
    stamp := value, tickTimer := 0, tickLength := s.tickMicros
    releaseQueue := s.releaseQueue.map (ReleaseEntry.markDue value) }

theorem writeStamp_awake (ho : s.opState ≠ .quiet) (value : Stamp) : s.writeStamp value =
    (s.stampWritten value).expireEach (sixteen.filter (s.stampWritten value).expiryDue)
      (16 + 2 * (s.stampWritten value).releaseQueue.length) := by
  have hmarked : State.markDue { s with stamp := value, tickTimer := 0, tickLength := s.tickMicros } = s.stampWritten value :=
    markDue_awake { s with stamp := value, tickTimer := 0, tickLength := s.tickMicros } ho
  unfold State.writeStamp
  rw [hmarked]

theorem stampWritten_expiryDue (s : State) (value : Stamp) (i : Fin 16) :
    (s.stampWritten value).expiryDue i = State.expiryDue { s with stamp := value } i := rfl

theorem writeStamp_expiries (ho : s.opState ≠ .quiet) (value : Stamp) :
    Expiries (sixteen.filter (s.stampWritten value).expiryDue) (s.stampWritten value) (s.writeStamp value) := by
  rw [writeStamp_awake ho]
  exact expireEach_expiries _ _ _ fun j hj => (List.mem_filter.1 hj).2

theorem writeStamp_timedOut (ho : s.opState ≠ .quiet) {value : Stamp} {i : Fin 16} {e : SplitEntry} (he : s.entry i = some e)
    (hdue : State.expiryDue { s with stamp := value } i = true) (hpolicy : e.route.timeoutPolicy = .abandon) :
    (s.writeStamp value).TimedOut i := by
  rw [writeStamp_awake ho]
  refine expireEach_timedOut _ _ _ ?_ (fun j hj => (List.mem_filter.1 hj).2) (List.mem_filter.2 ⟨mem_sixteen i, hdue⟩) ?_
  · exact Nat.add_le_add (List.length_filter_le _ sixteen) (releaseRank_le _)
  · have he' : (s.stampWritten value).entry i = some e := he
    rw [he', Option.map_some, hpolicy]

theorem writeStamp_none_due (ho : s.opState ≠ .quiet) {value : Stamp}
    (h : ∀ i, State.expiryDue { s with stamp := value } i = false) : s.writeStamp value = s.stampWritten value := by
  have hnone : sixteen.filter (s.stampWritten value).expiryDue = [] :=
    List.filter_eq_nil_iff.2 fun i _ => by rw [stampWritten_expiryDue, h i]; exact Bool.false_ne_true
  rw [writeStamp_awake ho, hnone, expireEach_of_nil]

theorem awake_of_atHead {f : Frame} (h : s.AtHead f rest) : s.opState ≠ .quiet := by
  obtain ⟨_, hstate, _⟩ := h
  rcases hstate with h | h | h <;> rw [h] <;> decide

/-- The frame of a STAMP write, from what the write of its word does. -/
theorem exec_stampWrite (h : s.Ready (mgmtWriteFrame reqtag bridge 0x029 w) rest) :
    exec .stampWrite s = .next (State.endEvent { (s.writeTaken [] reqtag bridge .ok).writeStamp w with intake := rest }) := by
  have hexpiries := writeStamp_expiries (s := s.writeTaken [] reqtag bridge .ok) (awake_of_atHead (s := s) h.1) w
  obtain ⟨more, hmore⟩ := hexpiries.records
  have hstopped : ((s.writeTaken [] reqtag bridge .ok).writeStamp w).intakeStopped = s.intakeStopped :=
    (congrArg State.intakeStopped hexpiries.only :)
  obtain ⟨_, _, hgoing⟩ := h.1
  refine exec_writeFrame_applied (r := .stamp) h rfl rfl (hstopped.trans hgoing) (more := more) ?_
  rw [← hmore]
  exact List.append_assoc _ _ _

end

/-- Settles O32: the advance by the marks it makes, and the write of STAMP by its expiries (`Expiries`). -/
theorem stampCounterMoves : Obligations.StampCounterMoves := by
  refine ⟨fun s h => ?_, fun s ho hnew => ?_, fun s rest reqtag bridge w h => ?_, fun counter stamp => decide_eq_true_iff,
    fun _ _ => rfl⟩
  · -- the advance that wakes nothing
    rw [exec_stampAdvance]
    refine congrArg (fun t : State => Host.Outcome.next t.endEvent) (Eq.trans ?_
      (congrArg (fun q => { s.advanced with releaseQueue := q }) (advanced_marked s)))
    rcases h with ho | hold
    · exact markDue_awake _ ho
    · refine markDue_of_none_new (Bool.eq_false_iff.2 fun hnew => ?_)
      obtain ⟨e, he, hmark, hdue⟩ := advanced_newlyDue_iff.1 hnew
      rcases hold e he with h | h
      · exact Bool.false_ne_true (hmark.symm.trans h)
      · exact Bool.false_ne_true (h.symm.trans hdue)
  · -- the advance that wakes the bridge
    rw [exec_stampAdvance, markDue_wakes (s := s.advanced) ho (advanced_newlyDue_iff.2 hnew), advanced_marked]
    rfl
  · -- the write
    have hexec := exec_stampWrite h
    have hawake : (s.writeTaken [] reqtag bridge .ok).opState ≠ .quiet := awake_of_atHead (s := s) h.1
    obtain ⟨honly, ⟨hqueue, _⟩, _, _⟩ := writeStamp_expiries hawake w
    have hmarked : (s.stampWritten w).releaseQueue.map ReleaseEntry.unwaited =
        s.releaseQueue.map fun e => { e.markDue w with waiting := false } := List.map_map
    refine ⟨fun hnone => ?_, _, hexec, (congrArg State.stamp honly :), (congrArg State.tickTimer honly :),
      (congrArg State.tickLength honly :), ?_, (congrArg State.opState honly :),
      fun i e he hdue hpolicy => writeStamp_timedOut hawake he hdue hpolicy⟩
    · rw [writeStamp_none_due hawake hnone] at hexec
      exact hexec
    · rw [← hmarked]
      exact hqueue

end Sys2Proof.Machine
end

section
/-! SUPPORT. The judgement of the Release Queue's head by its row: what each outcome is, and the head that waits. -/

namespace Sys2Proof.Machine

section
variable {s t : State} {e : ReleaseEntry} {rest : List ReleaseEntry} {c : Instr}

/-! ## The row by which the head is judged (R135) -/

theorem releaseRow_of_other_head (h : s.headRow ≠ some c) : s.releaseRow c = s := if_neg h

/-- The head is judged, and the run of heads goes on behind it. -/
theorem exec_head_judged (hrow : s.headRow = some c) (hj : s.judgeHead = some t) : exec c s = .next t.judge.endEvent := by
  rw [exec_headRow hrow, releaseRow_of_head hrow hj, judge_of_some hj]

theorem exec_head_unchanged (hrow : s.headRow = some c) (hj : s.judgeHead = none) : exec c s = .next s := by
  rw [exec_headRow hrow]
  unfold State.releaseRow
  rw [if_pos hrow, hj]

theorem headRow_offline (hq : s.releaseQueue = e :: rest) (ho : s.opState = .offline) :
    s.headRow = some .offlineAbortAnswer := by
  unfold State.headRow
  rw [hq]
  exact if_pos ho

/-- A head that is not due has no row but that of OFFLINE. -/
theorem headRow_early (hq : s.releaseQueue = e :: rest) (hd : e.due = false) (hc : c ≠ .offlineAbortAnswer) :
    s.headRow ≠ some c := by
  unfold State.headRow
  rw [hq]
  dsimp only
  rw [hd]
  split
  · exact fun h => hc (Option.some.inj h).symm
  · exact nofun

/-! ## The outcomes of the judgement (R136 to R139, R142) -/

theorem judgeHead_timedWrite {member : Option (Fin 7 × Byte)} {r : Route} {offset : Nat} {data : List Byte}
    (hq : s.releaseQueue = e :: rest) (hbody : e.body = .timedWrite member r offset data) (ho : s.opState ≠ .offline)
    (hd : e.due = true) : s.judgeHead = s.judgeWrite e rest member r offset data := by
  unfold State.judgeHead
  rw [hq]
  dsimp only
  rw [if_neg ho, if_pos hd, hbody]

theorem judgeHead_timedLatch {lines : BitVec 4} {action : LatchAction} {width : BitVec 16}
    (hq : s.releaseQueue = e :: rest) (hbody : e.body = .timedLatch lines action width) (ho : s.opState ≠ .offline)
    (hd : e.due = true) : s.judgeHead = s.judgeLatch e rest lines action width := by
  unfold State.judgeHead
  rw [hq]
  dsimp only
  rw [if_neg ho, if_pos hd, hbody]

theorem judgeHead_aborted (hq : s.releaseQueue = e :: rest) (ho : s.opState = .offline) (hroom : s.responseQueue.length < 16) :
    s.judgeHead = some (({ s with releaseQueue := rest } : State).pushRecord (completion e.rt .aborted e.abortOffset)) := by
  unfold State.judgeHead
  rw [hq]
  dsimp only
  rw [if_pos ho]
  exact if_pos ((recordRoom_iff s).2 hroom)

theorem judgeWrite_released {member : Option (Fin 7 × Byte)} {r : Route} {offset : Nat} {data : List Byte}
    (henabled : (s.branch r.branch).enabled = true) (hroom : (s.branch r.branch).queue.length < 16) :
    s.judgeWrite e rest member r offset data = some (s.releaseInto rest r (timedOperation e.rt member r offset data)) :=
  (if_pos henabled).trans (if_pos hroom)

theorem judgeWrite_branchOff {member : Option (Fin 7 × Byte)} {r : Route} {offset : Nat} {data : List Byte}
    (hdisabled : (s.branch r.branch).enabled = false) (hroom : s.responseQueue.length < 16) :
    s.judgeWrite e rest member r offset data =
      some ((({ s with releaseQueue := rest } : State).pushRecord (completion e.rt .branchOff offset)).reportMember member false) :=
  (if_neg (by rw [hdisabled]; exact Bool.false_ne_true)).trans (if_pos ((recordRoom_iff s).2 hroom))

theorem judgeLatch_acts {lines : BitVec 4} {action : LatchAction} {width : BitVec 16} (hroom : s.responseQueue.length < 16) :
    s.judgeLatch e rest lines action width =
      some ((({ s with releaseQueue := rest } : State).pushRecord (completion e.rt .ok 0)).latch lines action width.toNat) :=
  if_pos ((recordRoom_iff s).2 hroom)

/-- A group that still collects counts the error of its member, and does not fire (R138, R150). -/
theorem reportMember_failed {g : Fin 7} (hstate : (s.group g).state = .collecting)
    (hopen : (s.group g).done + (s.group g).failed < (s.group g).members) :
    s.reportMember (some (g, (s.group g).generation)) false = s.modGroup g fun x => { x with failed := x.failed + 1 } := by
  have hcounts : (s.group g).counts (s.group g).generation = true :=
    decide_eq_true ⟨by rw [hstate]; decide, rfl, hopen⟩
  unfold State.reportMember State.memberReport
  dsimp only
  rw [if_pos hcounts]
  refine if_neg fun ⟨harmed, _⟩ => ?_
  rw [group_modGroup_same] at harmed
  exact absurd (hstate.symm.trans harmed) nofun

/-! ## The head waits (R137) -/

/-- The head e has begun to wait for a place, and RELEASE_SLIP is set. -/
def State.slipped (s : State) (e : ReleaseEntry) (rest : List ReleaseEntry) : State :=
  State.setFlag { s with releaseQueue := { e with waiting := true } :: rest } .releaseSlip

theorem headWaits_begins (hw : e.waiting = false) : s.headWaits e rest = some (s.slipped e rest) :=
  if_neg (by rw [hw]; exact Bool.false_ne_true)

theorem slipped_releaseQueue : (s.slipped e rest).releaseQueue = { e with waiting := true } :: rest :=
  (congrArg State.releaseQueue (setFlag_only _ .releaseSlip) :)

theorem slipped_opState : (s.slipped e rest).opState = s.opState :=
  (congrArg State.opState (setFlag_only { s with releaseQueue := { e with waiting := true } :: rest } .releaseSlip) :)

theorem slipped_noPlace (h : s.NoPlaceFor e) : (s.slipped e rest).NoPlaceFor { e with waiting := true } := by
  unfold State.NoPlaceFor at h ⊢
  unfold State.slipped
  simp only [setFlag_branch, setFlag_responseQueue]
  exact h

/-- A due head without a place does nothing but wait. -/
theorem judgeHead_noPlace (hq : s.releaseQueue = e :: rest) (ho : s.opState ≠ .offline) (hd : e.due = true)
    (hplace : s.NoPlaceFor e) : s.judgeHead = s.headWaits e rest := by
  unfold State.NoPlaceFor at hplace
  cases hbody : e.body with
  | timedWrite member r offset data =>
    rw [hbody] at hplace
    rw [judgeHead_timedWrite hq hbody ho hd]
    rcases hplace with ⟨henabled, hfull⟩ | ⟨hdisabled, hfull⟩
    · exact (if_pos henabled).trans (if_neg (Nat.not_lt.2 hfull))
    · refine (if_neg (by rw [hdisabled]; exact Bool.false_ne_true)).trans (if_neg ?_)
      rw [recordRoom_eq_false_iff.2 hfull]
      exact Bool.false_ne_true
  | timedLatch lines action width =>
    rw [hbody] at hplace
    rw [judgeHead_timedLatch hq hbody ho hd]
    refine if_neg ?_
    rw [recordRoom_eq_false_iff.2 hplace]
    exact Bool.false_ne_true

/-- The judgement of a due head without a place: the wait begins with RELEASE_SLIP, and one that waits already goes on. -/
theorem exec_head_waits (hq : s.releaseQueue = e :: rest) (ho : s.opState ≠ .offline) (hd : e.due = true)
    (hplace : s.NoPlaceFor e) (hrow : s.headRow = some c) :
    exec c s = .next (if e.waiting = true then s else (s.slipped e rest).endEvent) := by
  have hjudge := judgeHead_noPlace hq ho hd hplace
  cases hw : e.waiting with
  | true =>
    rw [if_pos rfl]
    exact exec_head_unchanged hrow (hjudge.trans (headWaits_eq_none_iff.2 hw))
  | false =>
    have hstill : (s.slipped e rest).judgeHead = none :=
      (judgeHead_due_eq_none_iff slipped_releaseQueue (by rw [slipped_opState]; exact ho) hd).2 ⟨rfl, slipped_noPlace hplace⟩
    rw [if_neg Bool.false_ne_true, exec_head_judged hrow (hjudge.trans (headWaits_begins hw)), judge_of_none hstill]

end

/-- Settles O50, row by row: the head's row and the outcome of its judgement. -/
theorem headReleased : Obligations.HeadReleased := by
  intro s e rest hq waits
  refine ⟨fun member r offset data hbody hd ho => ?_, fun lines action width hbody hd ho => ?_, fun ho hroom => ?_,
    fun hd => ⟨?_, ?_, ?_⟩⟩
  · -- TIMED WRITE
    have hrow := headRow_timedWrite hq hbody ho hd
    have hjudge := judgeHead_timedWrite hq hbody ho hd
    have hwaits {c : Instr} (hplace : ((s.branch r.branch).enabled = true ∧ 16 ≤ (s.branch r.branch).queue.length) ∨
        ((s.branch r.branch).enabled = false ∧ 16 ≤ s.responseQueue.length)) (hrow : s.headRow = some c) :
        exec c s = .next waits :=
      exec_head_waits hq ho hd (by unfold State.NoPlaceFor; rw [hbody]; exact hplace) hrow
    refine ⟨fun henabled hroom => ?_, fun henabled hfull => ?_, fun hdisabled hroom => ?_, fun hdisabled hfull => ?_⟩
    · rw [henabled] at hrow
      exact exec_head_judged hrow (hjudge.trans (judgeWrite_released henabled hroom))
    · rw [henabled] at hrow
      exact hwaits (.inl ⟨henabled, hfull⟩) hrow
    · rw [hdisabled] at hrow
      intro off
      have hexec : exec .releaseBranchOff s = .next (off.reportMember member false).judge.endEvent :=
        exec_head_judged hrow (hjudge.trans (judgeWrite_branchOff hdisabled hroom))
      refine ⟨hexec, fun hnone => ?_, fun g hmember hstate hopen => ?_⟩
      · rw [hnone] at hexec
        exact hexec
      · rw [hmember] at hexec
        exact hexec.trans (congrArg (fun t : State => Host.Outcome.next t.judge.endEvent)
          (reportMember_failed (s := off) hstate hopen))
    · rw [hdisabled] at hrow
      exact hwaits (.inr ⟨hdisabled, hfull⟩) hrow
  · -- TIMED LATCH
    have hrow := headRow_timedLatch hq hbody ho hd
    refine ⟨fun hroom => exec_head_judged hrow ((judgeHead_timedLatch hq hbody ho hd).trans (judgeLatch_acts hroom)),
      fun hfull => exec_head_waits hq ho hd ?_ hrow⟩
    unfold State.NoPlaceFor
    rw [hbody]
    exact hfull
  · exact exec_head_judged (headRow_offline hq ho) (judgeHead_aborted hq ho hroom)
  all_goals exact congrArg Host.Outcome.next (releaseRow_of_other_head (headRow_early hq hd nofun))

end Sys2Proof.Machine
end

section
/-! SUPPORT. The latch lines: what an action does to a line, the level it is driven at, and how LATCH LEVELS shows it. -/

namespace Sys2Proof.Machine

/-! ## An action on the lines (R153, R154, R155) -/

/-- A selected line is acted upon, and any other stays. -/
theorem line_latch (s : State) (lines : BitVec 4) (action : LatchAction) (width : Nat) (l : Fin 4) :
    (s.latch lines action width).line l =
      if lines.getLsbD l.val then (s.line l).act action width else s.line l := by
  simp [State.line, State.latch]

theorem line_latch_selected {lines : BitVec 4} {l : Fin 4} (h : lines.getLsbD l.val = true) (s : State) (action : LatchAction)
    (width : Nat) : (s.latch lines action width).line l = (s.line l).act action width :=
  (line_latch s lines action width l).trans (if_pos h)

theorem line_latch_unselected {lines : BitVec 4} {l : Fin 4} (h : lines.getLsbD l.val = false) (s : State)
    (action : LatchAction) (width : Nat) : (s.latch lines action width).line l = s.line l :=
  (line_latch s lines action width l).trans (if_neg (Bool.not_eq_true _ ▸ h))

/-- Without a running pulse a PULSE begins one at the inverse of RESTING. -/
theorem startPulse_begins {l : Line} (h : l.pulse = none) (width : Nat) :
    l.startPulse width = { l with pulse := some { level := !l.resting, width := width, timer := 0 } } := by
  unfold Line.startPulse
  rw [h]

/-- A running pulse is begun again at its own level. -/
theorem startPulse_restarts {l : Line} {p : Pulse} (h : l.pulse = some p) (width : Nat) :
    l.startPulse width = { l with pulse := some { level := p.level, width := width, timer := 0 } } := by
  unfold Line.startPulse
  rw [h]

/-! ## The level driven (R153, R154) -/

theorem driven_resting {l : Line} (h : l.pulse = none) : l.driven = l.resting := by
  unfold Line.driven
  rw [h]

theorem driven_pulse {l : Line} {p : Pulse} (h : l.pulse = some p) : l.driven = p.level := by
  unfold Line.driven
  rw [h]

/-! ## LATCH LEVELS (R168) -/

/-- A word that carries one truth value shows it at its bit, and nothing elsewhere. -/
theorem bitAt_getLsbD {i : Nat} (h : i < 32) (bit : Nat) (p : Bool) :
    (bitAt bit p).getLsbD i = (decide (bit = i) && p) := by
  cases p with
  | false => simp [bitAt]
  | true =>
    unfold bitAt fieldAt
    rw [if_pos rfl, BitVec.getLsbD_ofNat, Nat.one_mul, Nat.testBit_two_pow]
    simp [h]

theorem latchWord_getLsbD (s : State) (l : Fin 4) : s.latchWord.getLsbD l.val = (s.line l).driven := by
  unfold State.latchWord
  simp only [BitVec.getLsbD_or, bitAt_getLsbD (Nat.lt_trans l.isLt (by decide : 4 < 32))]
  match l with
  | 0 | 1 | 2 | 3 => simp

/-- Settles O51, from what an action does to one line (`line_latch`), and the bits of LATCH LEVELS. -/
theorem pulsesAndLatches : Obligations.PulsesAndLatches := by
  refine ⟨fun s lines width l => ⟨fun hother action => line_latch_unselected hother s action width, fun hselected => ?_⟩,
    fun _ _ _ _ => rfl, fun _ _ => rfl,
    fun s l => ⟨driven_resting, fun _ => driven_pulse, latchWord_getLsbD s l⟩⟩
  have hact (action : LatchAction) := line_latch_selected hselected s action width
  exact ⟨hact .set, hact .clear, hact .toggle, fun hnone => (hact .pulse).trans (startPulse_begins hnone width),
    fun p hrunning => (hact .pulse).trans (startPulse_restarts hrunning width)⟩

end Sys2Proof.Machine
end

section
/-! SUPPORT. The groups: when a group fires, the members counted, and the words OPEN, CLOSE and ABORT. -/

namespace Sys2Proof.Machine

section
variable {s : State} {g : Fin 7}

/-! ## Firing (R152) -/

theorem fireIfComplete_waits (h : (s.group g).state ≠ .armed ∨ (s.group g).done + (s.group g).failed ≠ (s.group g).members) :
    s.fireIfComplete g = s :=
  if_neg fun ⟨harmed, hcounts⟩ => h.elim (· harmed) (· hcounts)

theorem fireIfComplete_acts (harmed : (s.group g).state = .armed)
    (hcounts : (s.group g).done + (s.group g).failed = (s.group g).members)
    (hpolicy : (s.group g).failed = 0 ∨ (s.group g).policy = .fireAnyway) :
    s.fireIfComplete g = State.latch (s.modGroup g fun x => { x with state := .idle })
      (s.group g).lines (s.group g).action (s.group g).pulseWidth.toNat :=
  (if_pos ⟨harmed, hcounts⟩).trans (if_pos hpolicy)

theorem fireIfComplete_fails (harmed : (s.group g).state = .armed)
    (hcounts : (s.group g).done + (s.group g).failed = (s.group g).members) (hfailed : (s.group g).failed ≠ 0)
    (hhold : (s.group g).policy = .hold) :
    s.fireIfComplete g = State.setFlag (s.modGroup g fun x => { x with state := .idle }) .groupFailed :=
  (if_pos ⟨harmed, hcounts⟩).trans
    (if_neg fun h => h.elim hfailed fun hpolicy => absurd (hhold.symm.trans hpolicy) (by decide))

/-- Group g of s has become y, and has fired if it is complete: t is the state behind that. -/
structure GroupBecomes (s : State) (g : Fin 7) (y : Group) (t : State) : Prop where
  waits : y.state ≠ .armed ∨ y.done + y.failed ≠ y.members → t = s.modGroup g fun _ => y
  acts : y.state = .armed → y.done + y.failed = y.members → y.failed = 0 ∨ y.policy = .fireAnyway →
    t = State.latch (s.modGroup g fun _ => { y with state := .idle }) y.lines y.action y.pulseWidth.toNat
  fails : y.state = .armed → y.done + y.failed = y.members → y.failed ≠ 0 → y.policy = .hold →
    t = State.setFlag (s.modGroup g fun _ => { y with state := .idle }) .groupFailed

theorem modGroup_fireIfComplete {f : Group → Group} {y : Group} (h : f (s.group g) = y) :
    GroupBecomes s g y ((s.modGroup g f).fireIfComplete g) := by
  have hgroup : (s.modGroup g f).group g = y := (group_modGroup_same s g f).trans h
  have hidle : ((s.modGroup g f).modGroup g fun x => { x with state := .idle }) =
      s.modGroup g fun _ => { y with state := .idle } :=
    (modGroup_modGroup s g f _).trans (modGroup_congr (by rw [h]))
  rw [← hgroup] at h ⊢
  rw [← hgroup] at hidle
  constructor
  · exact fun hstays => (fireIfComplete_waits hstays).trans (modGroup_congr h)
  · rw [← hidle]
    exact fireIfComplete_acts
  · rw [← hidle]
    exact fireIfComplete_fails

/-! ## Members reported and cancelled (R150, R151) -/

theorem counts_iff {x : Group} {generation : Byte} :
    x.counts generation = true ↔ x.state ≠ .idle ∧ x.generation = generation ∧ x.done + x.failed < x.members :=
  decide_eq_true_iff

theorem reportMember_ignored {generation : Byte} (h : (s.group g).counts generation ≠ true) (ok : Bool) :
    s.reportMember (some (g, generation)) ok = s := if_neg h

theorem cancelMember_ignored {generation : Byte} (h : (s.group g).counts generation ≠ true) :
    s.cancelMember (some (g, generation)) = s := if_neg h

theorem reportMember_counted {generation : Byte} (h : (s.group g).counts generation = true) (ok : Bool) :
    GroupBecomes s g
      (if ok then { s.group g with done := (s.group g).done + 1 } else { s.group g with failed := (s.group g).failed + 1 })
      (s.reportMember (some (g, generation)) ok) := by
  have hreport : s.reportMember (some (g, generation)) ok = _ := if_pos h
  rw [hreport]
  exact modGroup_fireIfComplete rfl

theorem cancelMember_counted {generation : Byte} (h : (s.group g).counts generation = true) :
    GroupBecomes s g { s.group g with members := (s.group g).members - 1 } (s.cancelMember (some (g, generation))) := by
  have hcancel : s.cancelMember (some (g, generation)) = _ := if_pos h
  rw [hcancel]
  exact modGroup_fireIfComplete rfl

/-! ## The words of a group (R146, R147, R148) -/

/-- GENERATION advances by one modulo 256. -/
theorem generation_succ (x : Byte) : x + 1 = BitVec.ofNat 8 ((x.toNat + 1) % 256) :=
  BitVec.eq_of_toNat_eq (by simp [BitVec.toNat_add])

theorem registerAt_groupCommand (g : Fin 7) :
    registerAt (BitVec.ofNat 16 (0x074 + 4 * g.val)).toNat = some (.groupCommand g) := by
  revert g
  decide

theorem mgmtWriteRow_groupCommand (g : Fin 7) :
    mgmtWriteRow (BitVec.ofNat 16 (0x074 + 4 * g.val)).toNat 1 = .groupOpen ∧
      mgmtWriteRow (BitVec.ofNat 16 (0x074 + 4 * g.val)).toNat 2 = .groupClose ∧
      mgmtWriteRow (BitVec.ofNat 16 (0x074 + 4 * g.val)).toNat 3 = .groupAbort := by
  revert g
  decide

theorem writeWord_groupCommand (s : State) (g : Fin 7) (w : Word) :
    s.writeWord (.groupCommand g) w = s.writeGroupCommand g w.toNat := rfl

theorem writeWord_groupOpen_idle (h : (s.group g).state = .idle) :
    s.writeWord (.groupCommand g) 1 = .applied (s.modGroup g fun x =>
      { x with state := .collecting, generation := x.generation + 1, members := 0, done := 0, failed := 0 }) := by
  rw [writeWord_groupCommand]
  simp [State.writeGroupCommand, State.openGroup, h]

theorem writeWord_groupOpen_busy (h : (s.group g).state ≠ .idle) : s.writeWord (.groupCommand g) 1 = .stops .groupBusy := by
  rw [writeWord_groupCommand]
  simp [State.writeGroupCommand, State.openGroup, h]

theorem writeWord_groupClose_collecting (h : (s.group g).state = .collecting) : s.writeWord (.groupCommand g) 2 =
    .applied ((s.modGroup g fun x => { x with state := .armed }).fireIfComplete g) := by
  rw [writeWord_groupCommand]
  simp [State.writeGroupCommand, State.closeGroup, h]

theorem writeWord_groupClose_refused (h : (s.group g).state ≠ .collecting) :
    s.writeWord (.groupCommand g) 2 = .stops .badField := by
  rw [writeWord_groupCommand]
  simp [State.writeGroupCommand, State.closeGroup, h]

theorem writeWord_groupAbort (s : State) (g : Fin 7) :
    s.writeWord (.groupCommand g) 3 = .applied (s.modGroup g fun x => { x with state := .idle }) := rfl

variable {rest : List Frame} {reqtag bridge : Byte}

theorem exec_groupOpen_idle (h : s.Ready (mgmtWriteFrame reqtag bridge (BitVec.ofNat 16 (0x074 + 4 * g.val)) 1) rest)
    (hidle : (s.group g).state = .idle) :
    exec .groupOpen s = .next ((s.writeTaken rest reqtag bridge .ok).modGroup g fun y =>
      { y with state := .collecting, generation := y.generation + 1, members := 0, done := 0, failed := 0 }).endEvent := by
  obtain ⟨hrow, _, _⟩ := mgmtWriteRow_groupCommand g
  have hword := writeWord_groupOpen_idle (s := s.writeTaken [] reqtag bridge .ok) hidle
  have hexec := exec_fieldWrite h (registerAt_groupCommand g) hrow hword rfl rfl
  exact hexec

theorem exec_groupOpen_busy (h : s.Ready (mgmtWriteFrame reqtag bridge (BitVec.ofNat 16 (0x074 + 4 * g.val)) 1) rest)
    (hbusy : (s.group g).state ≠ .idle) : exec .groupOpen s = .next (s.writeTaken rest reqtag bridge .groupBusy).endEvent := by
  obtain ⟨hrow, _, _⟩ := mgmtWriteRow_groupCommand g
  rw [← hrow]
  exact exec_writeFrame_stops h (registerAt_groupCommand g)
    (writeWord_groupOpen_busy (s := s.writeTaken [] reqtag bridge .ok) hbusy)

/-- A CLOSE arms the group, and the group fires in the same event if it is complete. -/
theorem exec_groupClose_collecting (h : s.Ready (mgmtWriteFrame reqtag bridge (BitVec.ofNat 16 (0x074 + 4 * g.val)) 2) rest)
    (hcollecting : (s.group g).state = .collecting) :
    ∃ t, GroupBecomes (s.writeTaken [] reqtag bridge .ok) g { s.group g with state := .armed } t ∧
      exec .groupClose s = .next (State.endEvent { t with intake := rest }) := by
  obtain ⟨_, hrow, _⟩ := mgmtWriteRow_groupCommand g
  have hword := writeWord_groupClose_collecting (s := s.writeTaken [] reqtag bridge .ok) hcollecting
  have honly := fireIfComplete_only ((s.writeTaken [] reqtag bridge .ok).modGroup g fun x => { x with state := .armed }) g
  exact ⟨_, modGroup_fireIfComplete rfl, exec_fieldWrite h (registerAt_groupCommand g) hrow hword
    (congrArg State.intakeStopped honly :) (congrArg State.responseQueue honly :)⟩

theorem exec_groupClose_refused (h : s.Ready (mgmtWriteFrame reqtag bridge (BitVec.ofNat 16 (0x074 + 4 * g.val)) 2) rest)
    (hstate : (s.group g).state ≠ .collecting) :
    exec .groupClose s = .next (s.writeTaken rest reqtag bridge .badField).endEvent := by
  obtain ⟨_, hrow, _⟩ := mgmtWriteRow_groupCommand g
  exact exec_fieldWrite_refused h (registerAt_groupCommand g) hrow
    (writeWord_groupClose_refused (s := s.writeTaken [] reqtag bridge .ok) hstate)

theorem exec_groupAbort (h : s.Ready (mgmtWriteFrame reqtag bridge (BitVec.ofNat 16 (0x074 + 4 * g.val)) 3) rest) :
    exec .groupAbort s =
      .next ((s.writeTaken rest reqtag bridge .ok).modGroup g fun y => { y with state := .idle }).endEvent := by
  obtain ⟨_, _, hrow⟩ := mgmtWriteRow_groupCommand g
  have hexec := exec_fieldWrite h (registerAt_groupCommand g) hrow (writeWord_groupAbort _ g) rfl rfl
  exact hexec

end

theorem group_resetTo (straps : Straps) (opState : OpState) (holdIn : Bool) (inputs : Vector Bool 4) (waiting : List Instr)
    (n : Nat) (g : Fin 7) : (State.resetTo straps opState holdIn inputs waiting n).group g = Group.reset := by
  simp [State.group, State.resetTo]

/-- Settles O33: the words by their rows, and the reports and cancels by what the group becomes (`GroupBecomes`). -/
theorem groupCommands : Obligations.GroupCommands := by
  refine ⟨fun s rest reqtag bridge g => ⟨fun h => ⟨fun hidle => ?_, exec_groupOpen_busy h⟩, fun h => ?_, exec_groupAbort⟩,
    fun straps opState holdIn inputs waiting n g => ?_, fun s g generation => ⟨fun hignored => ?_, ?_⟩,
    fun _ => ⟨fun _ => rfl, rfl⟩⟩
  · -- OPEN in IDLE
    simp only [← generation_succ]
    exact exec_groupOpen_idle h hidle
  · -- CLOSE
    refine ⟨exec_groupClose_refused h, fun hcollecting hopen => ?_, fun hcollecting hcounts hpolicy => ?_,
      fun hcollecting hcounts hfailed hhold => ?_⟩
    all_goals obtain ⟨t, hbecomes, hexec⟩ := exec_groupClose_collecting h hcollecting
    · rw [hexec, hbecomes.waits (.inr hopen)]
      rfl
    · rw [hexec, hbecomes.acts rfl hcounts hpolicy]
      rfl
    · rw [hexec, hbecomes.fails rfl hcounts hfailed hhold, ← setFlag_withIntake]
      rfl
  · rw [group_resetTo]
    rfl
  · -- a report or cancel that is ignored
    have hnot : (s.group g).counts generation ≠ true := by
      rw [Ne, counts_iff]
      rintro ⟨hstate, hgeneration, huncounted⟩
      rcases hignored with hidle | hother | hcounted
      · exact hstate hidle
      · exact hother hgeneration
      · exact absurd huncounted (Nat.not_lt.2 hcounted)
    exact ⟨reportMember_ignored hnot, cancelMember_ignored hnot⟩
  · -- one that is counted
    intro hstate hgeneration huncounted becomes
    have hcounts : (s.group g).counts generation = true := counts_iff.2 ⟨hstate, hgeneration, huncounted⟩
    have hbecomes {t : State} {y : Group} (h : GroupBecomes s g y t) (hstate : y.state = (s.group g).state)
        (hlines : (s.group g).lines = y.lines) (haction : (s.group g).action = y.action)
        (hwidth : (s.group g).pulseWidth = y.pulseWidth) : becomes t y := by
      obtain ⟨hwaits, hacts, hfails⟩ := h
      dsimp only [becomes]
      rw [hlines, haction, hwidth, ← hstate]
      exact ⟨fun hopen => hwaits (hopen.imp (fun hcollecting => by rw [hcollecting]; decide) Nat.ne_of_lt), hacts, hfails⟩
    exact ⟨hbecomes (reportMember_counted hcounts true) rfl rfl rfl rfl,
      hbecomes (reportMember_counted hcounts false) rfl rfl rfl rfl, hbecomes (cancelMember_counted hcounts) rfl rfl rfl rfl⟩

end Sys2Proof.Machine
end

section
/-! SUPPORT. Poll attempts and triggers: what an attempt finds, and when a trigger is lost, kept as PENDING or made an attempt. -/

namespace Sys2Proof.Machine

section
variable {s : State} {b : Fin 4} {i : Fin 16} {r : Route} {f : Attn → Attn}

/-! ## Poll attempts (R159) -/

/-- The fields of an attention entry by which its poll is routed: LDN, OFFSET and LENGTH. -/
def Attn.target (a : Attn) : Byte × BitVec 16 × Nat := (a.ldn, a.offset, a.length)

/-- What the resolution and reach of entry b's poll yield; a poll has no requester (R5, R159). -/
def State.pollRoute (s : State) (b : Fin 4) : Except Status Route :=
  s.routeFor (s.attn b).ldn .forRead none (s.attn b).offset.toNat (s.attn b).length

/-- Entry b was never given a LENGTH, or its route cannot be resolved or reached: outcome 1 of an attempt. -/
def State.PollRefused (s : State) (b : Fin 4) : Prop :=
  (s.attn b).length = 0 ∨ ∃ st, s.pollRoute b = .error st

/-- The poll of entry b has a route: outcomes 2 and 3 of an attempt. -/
def State.PollRouted (s : State) (b : Fin 4) (r : Route) : Prop :=
  1 ≤ (s.attn b).length ∧ s.pollRoute b = .ok r

theorem attemptPoll_refused (h : s.PollRefused b) : s.attemptPoll b = s.pollUnroutable b := by
  unfold State.attemptPoll
  dsimp only
  rcases h with hlength | ⟨st, hroute⟩
  · rw [if_pos hlength]
  · unfold State.pollRoute at hroute
    rw [hroute, ite_self]

theorem attemptPoll_waits (h : s.PollRouted b r) (hfull : s.freePlace = none) : s.attemptPoll b = s.pollWaits b := by
  obtain ⟨hlength, hroute⟩ := h
  unfold State.pollRoute at hroute
  unfold State.attemptPoll
  dsimp only
  rw [if_neg (by omega), hroute]
  dsimp only
  rw [hfull]

/-- A poll's route rests on the Route Table, the branches and the target, which no other change of the entry reaches. -/
theorem pollRoute_modAttn (htarget : (f (s.attn b)).target = (s.attn b).target) :
    (s.modAttn b f).pollRoute b = s.pollRoute b ∧ ((s.modAttn b f).attn b).length = (s.attn b).length := by
  simp only [Attn.target, Prod.mk.injEq] at htarget
  obtain ⟨hldn, hoffset, hlength⟩ := htarget
  unfold State.pollRoute
  rw [attn_modAttn_same, hldn, hoffset, hlength]
  exact ⟨rfl, rfl⟩

theorem pollRefused_modAttn (h : s.PollRefused b) (htarget : (f (s.attn b)).target = (s.attn b).target) :
    (s.modAttn b f).PollRefused b := by
  obtain ⟨hroute, hlength⟩ := pollRoute_modAttn htarget
  unfold State.PollRefused
  rwa [hroute, hlength]

theorem pollRouted_modAttn (h : s.PollRouted b r) (htarget : (f (s.attn b)).target = (s.attn b).target) :
    (s.modAttn b f).PollRouted b r := by
  obtain ⟨hroute, hlength⟩ := pollRoute_modAttn htarget
  unfold State.PollRouted
  rwa [hroute, hlength]

theorem attemptPoll_modAttn_refused (h : s.PollRefused b) (htarget : (f (s.attn b)).target = (s.attn b).target) :
    (s.modAttn b f).attemptPoll b = State.setFlag (s.modAttn b fun a =>
      { f a with pending := false, status := .idle, levelSpent := decide ((f a).mode = .level) || (f a).levelSpent })
        .attnNoRoute := by
  rw [attemptPoll_refused (pollRefused_modAttn h htarget), State.pollUnroutable, modAttn_modAttn]

theorem attemptPoll_modAttn_waits (h : s.PollRouted b r) (htarget : (f (s.attn b)).target = (s.attn b).target)
    (hfull : s.freePlace = none) :
    (s.modAttn b f).attemptPoll b = s.modAttn b fun a => { f a with pending := true, status := .idle } := by
  rw [attemptPoll_waits (pollRouted_modAttn h htarget) hfull, State.pollWaits, modAttn_modAttn]

theorem attemptPoll_modAttn_creates (h : s.PollRouted b r) (htarget : (f (s.attn b)).target = (s.attn b).target)
    (hplace : s.freePlace = some i) : (s.modAttn b f).attemptPoll b = (s.modAttn b f).pollCreated b i r := by
  obtain ⟨hlength, hroute⟩ := pollRouted_modAttn h htarget
  exact attemptPoll_creates hlength hroute hplace

/-! ## Triggers (R158, R163) -/

theorem modAttn_id (h : f (s.attn b) = s.attn b) : s.modAttn b f = s := by
  unfold State.modAttn
  rw [h]
  simp [State.attn]

theorem polls_of (h : s.opState = .active ∨ s.opState = .draining) : s.polls = true := decide_eq_true h

theorem sleeps_of (h : s.opState = .quiet ∨ s.opState = .waking) : s.sleeps = true := decide_eq_true h

theorem polls_of_sleeps (h : s.opState = .quiet ∨ s.opState = .waking) : s.polls = false := by
  rcases h with h | h <;> simp [State.polls, h]

theorem not_quiet_of_polls (h : s.opState = .active ∨ s.opState = .draining) : s.opState ≠ .quiet := by
  rcases h with h | h <;> simp [h]

theorem trigger_offline (h : s.opState = .offline) : s.trigger b = s := by
  simp [State.trigger, State.polls, State.sleeps, h]

theorem trigger_asleep (henabled : (s.attn b).enabled = true) (hstate : s.opState = .quiet ∨ s.opState = .waking) :
    s.trigger b = s.modAttn b fun a => { a with pending := true } := by
  simp [State.trigger, henabled, polls_of_sleeps hstate, sleeps_of hstate]

/-- A trigger finds the poll of an earlier one, its holdoff, or the entry waiting for a place. -/
theorem trigger_kept (henabled : (s.attn b).enabled = true) (hstate : s.opState = .active ∨ s.opState = .draining)
    (h : (s.attn b).status ≠ .idle ∨ (s.attn b).pending = true) :
    s.trigger b = s.modAttn b fun a => { a with pending := true } := by
  unfold State.trigger
  dsimp only
  rw [henabled, polls_of hstate]
  by_cases hidle : (s.attn b).status = .idle
  · have hpending : (s.attn b).pending = true := h.resolve_left (not_not_intro hidle)
    have hsame : (s.modAttn b fun a => { a with pending := true }) = s := modAttn_id (by rw [← hpending])
    simpa [hidle, hpending] using hsame.symm
  · simp [hidle]

theorem trigger_attempts (henabled : (s.attn b).enabled = true) (hstate : s.opState = .active ∨ s.opState = .draining)
    (hidle : (s.attn b).status = .idle) (hpending : (s.attn b).pending = false) : s.trigger b = s.attemptPoll b := by
  simp [State.trigger, henabled, polls_of hstate, hidle, hpending]

end

end Sys2Proof.Machine
end

section
/-! SUPPORT. Writes of an attention entry: the words by their rows, and the low line that a write can find. -/

namespace Sys2Proof.Machine

section
variable {s : State} {b : Fin 4} {store : Attn → Attn} {w : Word}

/-! ## The words of an attention entry (section 10.2) -/

theorem registerAt_attnWords (b : Fin 4) :
    registerAt (BitVec.ofNat 16 (0x060 + 4 * b.val)).toNat = some (.attnControl b) ∧
      registerAt (BitVec.ofNat 16 (0x061 + 4 * b.val)).toNat = some (.attnPlace b) ∧
      registerAt (BitVec.ofNat 16 (0x062 + 4 * b.val)).toNat = some (.attnSize b) := by
  revert b
  decide

theorem mgmtWriteRow_attn {a : Nat} (w : Word) (hlow : 0x060 ≤ a) (hhigh : a ≤ 0x06F) (hword : a % 4 ≠ 3) :
    mgmtWriteRow a w = .attentionEntryWrite := by
  have hne (n : Nat) (hn : n < 0x060) : a ≠ n := by omega
  simp [mgmtWriteRow, hne, hlow, hhigh, hword]

theorem mgmtWriteRow_attnWord (b : Fin 4) (k : Fin 3) (w : Word) :
    mgmtWriteRow (BitVec.ofNat 16 (0x060 + k.val + 4 * b.val)).toNat w = .attentionEntryWrite := by
  refine mgmtWriteRow_attn w ?_ ?_ ?_
  all_goals
    revert b k
    decide

/-! ## The low line (R158) -/

theorem lowLevel_eq_false (a : Attn) (h : a.mode = .edge ∨ a.line = true) : a.lowLevel = false := by
  rw [Attn.lowLevel, levelLow_eq_false a h, Bool.false_and]

/-- A write that finds no low line under LEVEL does not trigger. -/
theorem levelTrigger_not_low (h : (s.attn b).mode = .edge ∨ (s.attn b).line = true) : s.levelTrigger b = s :=
  if_neg (Bool.eq_false_iff.1 (lowLevel_eq_false _ h))

/-- A write's trigger is lost with ENABLED no and in OFFLINE. -/
theorem levelTrigger_lost (h : (s.attn b).enabled = false ∨ s.opState = .offline) : s.levelTrigger b = s := by
  unfold State.levelTrigger
  rw [h.elim trigger_disabled trigger_offline, ite_self]

theorem levelTrigger_low (h : (s.attn b).lowLevel = true) : s.levelTrigger b = s.trigger b := if_pos h

theorem lowLevel_iff (a : Attn) : a.lowLevel = true ↔ a.mode = .level ∧ a.line = false ∧ a.levelSpent = false := by
  simp [Attn.lowLevel, Attn.levelLow, and_assoc]

/-! ## The control word (R157, R158, R164) -/

/-- An attention entry with the fields of a control word, which clears LEVEL SPENT, and PENDING with ENABLED no. -/
def Attn.withControl (a : Attn) (enabled : Bool) (mode : AttnMode) (wake : Bool) : Attn :=
  { a with enabled := enabled, mode := mode, wake := wake, levelSpent := false, pending := enabled && a.pending }

/-- An attention entry whose low level has had its attempt. -/
def Attn.spent (a : Attn) : Attn := { a with levelSpent := true }

theorem writeAttnControl_eq (s : State) (b : Fin 4) (enabled : Bool) (mode : AttnMode) (wake : Bool) :
    s.writeAttnControl b enabled mode wake = (s.modAttn b (·.withControl enabled mode wake)).levelTrigger b := rfl

/-- A control word that finds no low line under LEVEL, or whose trigger is lost, stores its fields and no more. -/
theorem writeAttnControl_stores {enabled : Bool} {mode : AttnMode} (wake : Bool)
    (h : mode = .edge ∨ (s.attn b).line = true ∨ enabled = false ∨ s.opState = .offline) :
    s.writeAttnControl b enabled mode wake = s.modAttn b (·.withControl enabled mode wake) := by
  have hattn : (s.modAttn b (·.withControl enabled mode wake)).attn b = (s.attn b).withControl enabled mode wake :=
    attn_modAttn_same _ _ _
  rw [writeAttnControl_eq]
  rcases h with hmode | hline | henabled | hoffline
  · exact levelTrigger_not_low (.inl (by rw [hattn]; exact hmode))
  · exact levelTrigger_not_low (.inr (by rw [hattn]; exact hline))
  · exact levelTrigger_lost (.inl (by rw [hattn]; exact henabled))
  · exact levelTrigger_lost (.inr hoffline)

/-- A control word that finds a low line under LEVEL, for an entry that has no LENGTH yet: the attempt fails (log 26). -/
theorem writeAttnControl_no_route (wake : Bool) (hstate : s.opState = .active ∨ s.opState = .draining)
    (hline : (s.attn b).line = false) (hidle : (s.attn b).status = .idle) (hpending : (s.attn b).pending = false)
    (hlength : (s.attn b).length = 0) :
    s.writeAttnControl b true .level wake =
      State.setFlag (s.modAttn b fun a => (a.withControl true .level wake).spent) .attnNoRoute := by
  have hattn : (s.modAttn b (·.withControl true .level wake)).attn b = (s.attn b).withControl true .level wake :=
    attn_modAttn_same _ _ _
  have hlow : ((s.modAttn b (·.withControl true .level wake)).attn b).lowLevel = true := by
    rw [hattn, lowLevel_iff]
    exact ⟨rfl, hline, rfl⟩
  have htrigger : (s.modAttn b (·.withControl true .level wake)).trigger b =
      (s.modAttn b (·.withControl true .level wake)).attemptPoll b := by
    refine trigger_attempts ?_ hstate ?_ ?_
    all_goals rw [hattn]
    · rfl
    · exact hidle
    · exact congrArg (true && ·) hpending
  rw [writeAttnControl_eq, levelTrigger_low hlow, htrigger, attemptPoll_modAttn_refused (.inl hlength) rfl]
  refine congrArg (State.setFlag · .attnNoRoute) (modAttn_congr ?_)
  simp [Attn.withControl, Attn.spent, hidle, hpending]

theorem writeWord_attnControl (s : State) (b : Fin 4) (w : Word) : s.writeWord (.attnControl b) w = s.writeAttnWord b w := rfl

theorem writeAttnWord_edge (s : State) (b : Fin 4) (h : w.extractLsb' 1 2 = 0) :
    s.writeAttnWord b w = .applied (s.writeAttnControl b (w.getLsbD 0) .edge (w.getLsbD 3)) := by
  rw [State.writeAttnWord, h]
  rfl

theorem writeAttnWord_level (s : State) (b : Fin 4) (h : w.extractLsb' 1 2 = 1) :
    s.writeAttnWord b w = .applied (s.writeAttnControl b (w.getLsbD 0) .level (w.getLsbD 3)) := by
  rw [State.writeAttnWord, h]
  rfl

theorem writeAttnWord_refused (s : State) (b : Fin 4) (h : w.extractLsb' 1 2 = 2 ∨ w.extractLsb' 1 2 = 3) :
    s.writeAttnWord b w = .stops .badField := by
  rcases h with h | h
  all_goals
    rw [State.writeAttnWord, h]
    rfl

/-! ## The second and the third word (R157, R158) -/

/-- A word that finds LEVEL SPENT no, or no low line under LEVEL, stores its fields and no more. -/
theorem writeAttnFields_stores (hmode : (store (s.attn b)).mode = (s.attn b).mode)
    (hline : (store (s.attn b)).line = (s.attn b).line)
    (h : (s.attn b).levelSpent = false ∨ (s.attn b).mode = .edge ∨ (s.attn b).line = true) :
    s.writeAttnFields b store = s.modAttn b fun a => { store a with levelSpent := false } := by
  unfold State.writeAttnFields
  dsimp only
  rcases h with hspent | hlevel
  · rw [hspent, if_neg Bool.false_ne_true]
  · rw [levelTrigger_not_low (by rw [attn_modAttn_same, hmode, hline]; exact hlevel), ite_self]

theorem writeWord_attnPlace (s : State) (b : Fin 4) (w : Word) : s.writeWord (.attnPlace b) w =
    .applied (s.writeAttnFields b fun a => { a with ldn := w.extractLsb' 16 8, offset := w.extractLsb' 0 16 }) := rfl

theorem writeWord_attnSize (s : State) (b : Fin 4) (w : Word) : s.writeWord (.attnSize b) w = s.writeAttnSize b w := rfl

theorem writeAttnSize_refused (s : State) (b : Fin 4)
    (h : (w.extractLsb' 8 6).toNat = 0 ∨ 32 < (w.extractLsb' 8 6).toNat) : s.writeAttnSize b w = .stops .badField := if_pos h

theorem writeAttnSize_applied (s : State) (b : Fin 4) (hpos : 1 ≤ (w.extractLsb' 8 6).toNat)
    (hle : (w.extractLsb' 8 6).toNat ≤ 32) : s.writeAttnSize b w =
      .applied (s.writeAttnFields b fun a =>
        { a with length := (w.extractLsb' 8 6).toNat, holdoff := w.extractLsb' 0 8 }) := if_neg (by omega)

/-! ## The writes by their row -/

variable {rest : List Frame} {reqtag bridge : Byte}

/-- Intake takes a frame in ACTIVE, DRAINING and OFFLINE alone (R41). -/
theorem polls_of_ready {f : Frame} (h : s.Ready f rest) (hstate : s.opState ≠ .offline) :
    s.opState = .active ∨ s.opState = .draining := by
  obtain ⟨⟨_, hactive | hdraining | hoffline, _⟩, _⟩ := h
  · exact .inl hactive
  · exact .inr hdraining
  · exact absurd hoffline hstate

/-- A word, of the three that can be written, whose write changes its entry alone. -/
theorem exec_attnWrite_stores {address : BitVec 16} {r : Register} {f : Attn → Attn}
    (h : s.Ready (mgmtWriteFrame reqtag bridge address w) rest) (hr : registerAt address.toNat = some r)
    (hrow : mgmtWriteRow address.toNat w = .attentionEntryWrite)
    (hw : (s.writeTaken [] reqtag bridge .ok).writeWord r w = .applied ((s.writeTaken [] reqtag bridge .ok).modAttn b f)) :
    exec .attentionEntryWrite s = .next (State.endEvent ((s.writeTaken rest reqtag bridge .ok).modAttn b f)) := by
  have hexec := exec_fieldWrite h hr hrow hw rfl rfl
  exact hexec

section
variable (h : s.Ready (mgmtWriteFrame reqtag bridge (BitVec.ofNat 16 (0x060 + 4 * b.val)) w) rest)
include h

theorem exec_attnControl_refused (hcode : w.extractLsb' 1 2 = 2 ∨ w.extractLsb' 1 2 = 3) :
    exec .attentionEntryWrite s = .next (s.writeTaken rest reqtag bridge .badField).endEvent := by
  obtain ⟨hr, _, _⟩ := registerAt_attnWords b
  exact exec_fieldWrite_refused h hr (mgmtWriteRow_attnWord b 0 w) (writeAttnWord_refused _ b hcode)

theorem exec_attnControl_stores {mode : AttnMode}
    (hword : (s.writeTaken [] reqtag bridge .ok).writeAttnWord b w =
      .applied ((s.writeTaken [] reqtag bridge .ok).writeAttnControl b (w.getLsbD 0) mode (w.getLsbD 3)))
    (hstores : mode = .edge ∨ (s.attn b).line = true ∨ w.getLsbD 0 = false ∨ s.opState = .offline) :
    exec .attentionEntryWrite s = .next (State.endEvent
      ((s.writeTaken rest reqtag bridge .ok).modAttn b (·.withControl (w.getLsbD 0) mode (w.getLsbD 3)))) := by
  obtain ⟨hr, _, _⟩ := registerAt_attnWords b
  refine exec_attnWrite_stores h hr (mgmtWriteRow_attnWord b 0 w) ?_
  rw [writeWord_attnControl, hword, writeAttnControl_stores (s := s.writeTaken [] reqtag bridge .ok) _ hstores]

theorem exec_attnControl_no_route (hcode : w.extractLsb' 1 2 = 1) (henabled : w.getLsbD 0 = true)
    (hstate : s.opState ≠ .offline) (hline : (s.attn b).line = false) (hidle : (s.attn b).status = .idle)
    (hpending : (s.attn b).pending = false) (hlength : (s.attn b).length = 0) :
    exec .attentionEntryWrite s = .next (State.endEvent (State.setFlag ((s.writeTaken rest reqtag bridge .ok).modAttn b
      fun a => (a.withControl true .level (w.getLsbD 3)).spent) .attnNoRoute)) := by
  obtain ⟨hr, _, _⟩ := registerAt_attnWords b
  have hfails := writeAttnControl_no_route (s := s.writeTaken [] reqtag bridge .ok) (b := b) (w.getLsbD 3)
    (polls_of_ready (s := s) h hstate) hline hidle hpending hlength
  have hword := (writeAttnWord_level (s.writeTaken [] reqtag bridge .ok) b hcode).trans
    (congrArg WordOutcome.applied ((congrArg (State.writeAttnControl _ b · .level _) henabled).trans hfails))
  have honly := setFlag_only ((s.writeTaken [] reqtag bridge .ok).modAttn b
    fun a => (a.withControl true .level (w.getLsbD 3)).spent) .attnNoRoute
  have hexec := exec_fieldWrite (s := s) h hr (mgmtWriteRow_attnWord b 0 w) hword
    (congrArg State.intakeStopped honly :) (congrArg State.responseQueue honly :)
  rw [hexec, ← setFlag_withIntake]
  rfl

end

theorem exec_attnPlace_stores
    (h : s.Ready (mgmtWriteFrame reqtag bridge (BitVec.ofNat 16 (0x061 + 4 * b.val)) w) rest)
    (hstores : (s.attn b).levelSpent = false ∨ (s.attn b).mode = .edge ∨ (s.attn b).line = true) :
    exec .attentionEntryWrite s = .next (State.endEvent ((s.writeTaken rest reqtag bridge .ok).modAttn b fun a =>
      { a with ldn := w.extractLsb' 16 8, offset := w.extractLsb' 0 16, levelSpent := false })) := by
  obtain ⟨_, hr, _⟩ := registerAt_attnWords b
  refine exec_attnWrite_stores h hr (mgmtWriteRow_attnWord b 1 w) ?_
  rw [writeWord_attnPlace, writeAttnFields_stores (s := s.writeTaken [] reqtag bridge .ok) rfl rfl hstores]

section
variable (h : s.Ready (mgmtWriteFrame reqtag bridge (BitVec.ofNat 16 (0x062 + 4 * b.val)) w) rest)
include h

theorem exec_attnSize_refused (hlength : (w.extractLsb' 8 6).toNat = 0 ∨ 32 < (w.extractLsb' 8 6).toNat) :
    exec .attentionEntryWrite s = .next (s.writeTaken rest reqtag bridge .badField).endEvent := by
  obtain ⟨_, _, hr⟩ := registerAt_attnWords b
  exact exec_fieldWrite_refused h hr (mgmtWriteRow_attnWord b 2 w) (writeAttnSize_refused _ b hlength)

theorem exec_attnSize_stores (hpos : 1 ≤ (w.extractLsb' 8 6).toNat) (hle : (w.extractLsb' 8 6).toNat ≤ 32)
    (hstores : (s.attn b).levelSpent = false ∨ (s.attn b).mode = .edge ∨ (s.attn b).line = true) :
    exec .attentionEntryWrite s = .next (State.endEvent ((s.writeTaken rest reqtag bridge .ok).modAttn b fun a =>
      { a with length := (w.extractLsb' 8 6).toNat, holdoff := w.extractLsb' 0 8, levelSpent := false })) := by
  obtain ⟨_, _, hr⟩ := registerAt_attnWords b
  refine exec_attnWrite_stores h hr (mgmtWriteRow_attnWord b 2 w) ?_
  rw [writeWord_attnSize, writeAttnSize_applied _ b hpos hle,
    writeAttnFields_stores (s := s.writeTaken [] reqtag bridge .ok) rfl rfl hstores]

end

end

/-- Settles O34: each word by its row; a word that finds no low line under LEVEL, or whose trigger is lost, only stores. -/
theorem attentionEntryWritten : Obligations.AttentionEntryWritten := by
  refine fun s rest reqtag bridge b w => ⟨fun h => ⟨exec_attnControl_refused h, fun hstores => ?_, ?_⟩,
    exec_attnPlace_stores, fun h => ⟨exec_attnSize_refused h, exec_attnSize_stores h⟩⟩
  · rcases hstores with hcode | ⟨hcode, hrest⟩
    · rw [exec_attnControl_stores h (writeAttnWord_edge _ b hcode) (.inl rfl), hcode]
      rfl
    · rw [exec_attnControl_stores h (writeAttnWord_level _ b hcode) (.inr hrest), hcode]
      rfl
  · intro hcode henabled hstate hline hidle hpending hlength
    rw [exec_attnControl_no_route h hcode henabled hstate hline hidle hpending hlength, hcode, henabled]
    rfl

end Sys2Proof.Machine
end

section
/-! SUPPORT. The steps of the Attention Unit, and the end of a wake. -/

namespace Sys2Proof.Machine

section
variable {s t : State} {b : Fin 4} {i : Fin 16} {r : Route}

/-! ## ATTENTION_TRIGGER (R158, R163) -/

/-- An attention entry whose input is found low. -/
def Attn.lineLow (a : Attn) : Attn := { a with line := false }

theorem attn_lineLow (s : State) (b : Fin 4) : (s.modAttn b Attn.lineLow).attn b = (s.attn b).lineLow :=
  attn_modAttn_same s b _

theorem exec_attentionTrigger_disabled (henabled : (s.attn b).enabled = false) :
    exec (.attentionTrigger b) s = .next (s.modAttn b Attn.lineLow) := by
  have htrigger : (s.modAttn b Attn.lineLow).trigger b = s.modAttn b Attn.lineLow :=
    trigger_disabled (by rw [attn_lineLow]; exact henabled)
  show execAttentionTrigger b s = _
  unfold execAttentionTrigger
  rw [henabled]
  exact congrArg Host.Outcome.next htrigger

/-- Outside QUIET the edge wakes nothing: the event is the trigger. -/
theorem exec_attentionTrigger_awake (henabled : (s.attn b).enabled = true) (hawake : s.opState ≠ .quiet)
    (htrigger : (s.modAttn b Attn.lineLow).trigger b = t) : exec (.attentionTrigger b) s = .next t.endEvent := by
  have hstate : t.opState = s.opState := by
    rw [← htrigger]
    exact (congrArg State.opState (trigger_only _ b) :)
  show execAttentionTrigger b s = .next t.endEvent
  unfold execAttentionTrigger
  dsimp only
  rw [henabled, show (s.modAttn b fun a => { a with line := false }).trigger b = t from htrigger,
    wakeUp_awake t (hstate ▸ hawake), ite_self]
  rfl

/-- A trigger that is kept as PENDING. -/
theorem trigger_lineLow_kept (henabled : (s.attn b).enabled = true)
    (h : s.opState = .quiet ∨ s.opState = .waking ∨
      ((s.opState = .active ∨ s.opState = .draining) ∧ ((s.attn b).status ≠ .idle ∨ (s.attn b).pending = true))) :
    (s.modAttn b Attn.lineLow).trigger b = s.modAttn b fun a => { a with line := false, pending := true } := by
  have hlow : ((s.modAttn b Attn.lineLow).attn b).enabled = true := by rw [attn_lineLow]; exact henabled
  have hkept : (s.modAttn b Attn.lineLow).trigger b =
      (s.modAttn b Attn.lineLow).modAttn b fun a => { a with pending := true } := by
    rcases h with hquiet | hwaking | ⟨hstate, hbusy⟩
    · exact trigger_asleep hlow (.inl hquiet)
    · exact trigger_asleep hlow (.inr hwaking)
    · exact trigger_kept hlow hstate (by rw [attn_lineLow]; exact hbusy)
  rw [hkept, modAttn_modAttn]
  rfl

theorem exec_attentionTrigger_kept (henabled : (s.attn b).enabled = true)
    (h : s.opState = .waking ∨
      ((s.opState = .active ∨ s.opState = .draining) ∧ ((s.attn b).status ≠ .idle ∨ (s.attn b).pending = true))) :
    exec (.attentionTrigger b) s = .next (s.modAttn b fun a => { a with line := false, pending := true }).endEvent := by
  refine exec_attentionTrigger_awake henabled ?_ (trigger_lineLow_kept henabled (.inr h))
  rcases h with hwaking | ⟨hstate, _⟩
  · rw [hwaking]
    decide
  · exact not_quiet_of_polls hstate

/-- In QUIET the trigger is kept, and the edge wakes the bridge under WAKE. -/
theorem exec_attentionTrigger_quiet (henabled : (s.attn b).enabled = true) (hquiet : s.opState = .quiet)
    (hkept : t = s.modAttn b fun a => { a with line := false, pending := true }) :
    exec (.attentionTrigger b) s = .next (if (s.attn b).wake then
      (State.setFlag { t with opState := .waking, wakeTimer := 0 } .woke).endEvent else t.endEvent) := by
  have htrigger : (s.modAttn b fun a => { a with line := false }).trigger b = t :=
    hkept ▸ trigger_lineLow_kept henabled (.inl hquiet)
  have hwake : t.wakeUp = State.setFlag { t with opState := .waking, wakeTimer := 0 } .woke :=
    if_pos (by rw [hkept]; exact hquiet)
  show execAttentionTrigger b s = _
  unfold execAttentionTrigger
  dsimp only
  rw [henabled, htrigger, hwake]
  rfl

/-- An IDLE entry that waits for nothing makes a poll attempt. -/
theorem exec_attentionTrigger_attempts (henabled : (s.attn b).enabled = true)
    (hstate : s.opState = .active ∨ s.opState = .draining) (hidle : (s.attn b).status = .idle)
    (hpending : (s.attn b).pending = false) :
    exec (.attentionTrigger b) s = .next ((s.modAttn b Attn.lineLow).attemptPoll b).endEvent := by
  refine exec_attentionTrigger_awake henabled (not_quiet_of_polls hstate) (trigger_attempts ?_ hstate ?_ ?_)
  all_goals rw [attn_lineLow]
  · exact henabled
  · exact hidle
  · exact hpending

/-- A trigger whose attempt finds no route. -/
theorem attemptPoll_lineLow_refused (h : s.PollRefused b) (hidle : (s.attn b).status = .idle)
    (hpending : (s.attn b).pending = false) :
    (s.modAttn b Attn.lineLow).attemptPoll b = State.setFlag (s.modAttn b fun a =>
      { a with line := false, levelSpent := decide (a.mode = .level) || a.levelSpent }) .attnNoRoute := by
  rw [attemptPoll_modAttn_refused h rfl]
  refine congrArg (State.setFlag · .attnNoRoute) (modAttn_congr ?_)
  simp [Attn.lineLow, hidle, hpending]

/-- A trigger whose attempt finds the Split Table full. -/
theorem attemptPoll_lineLow_waits (h : s.PollRouted b r) (hfull : s.freePlace = none) (hidle : (s.attn b).status = .idle) :
    (s.modAttn b Attn.lineLow).attemptPoll b = s.modAttn b fun a => { a with line := false, pending := true } := by
  rw [attemptPoll_modAttn_waits h rfl hfull]
  refine modAttn_congr ?_
  simp [Attn.lineLow, hidle]

/-- The poll that a trigger creates, as its entry stands before the grant pass (R43, R160). -/
theorem attemptPoll_lineLow_creates (h : s.PollRouted b r) (hplace : s.freePlace = some i) :
    (s.modAttn b Attn.lineLow).attemptPoll b = State.grantPass (State.setEntry
      { s with
        attns := s.attns.set b.val { s.attn b with line := false, pending := false, status := .polling } b.isLt
        ageOrder := s.ageOrder ++ [i] } i (some
      { owner := .attn b, route := r, start := (s.attn b).offset.toNat, length := (s.attn b).length, issued := 0,
        received := 0, sent := 0, pieces := [],
        deadline := s.stamp + s.timeoutClasses[r.timeoutClass.val].setWidth 32, extended := false,
        state := .gathering, finalStatus := none, finalSent := false, held := [] })) := by
  rw [attemptPoll_modAttn_creates h rfl hplace]
  unfold State.pollCreated
  dsimp only
  rw [attn_lineLow, modAttn_modAttn]
  rfl

/-! ## HOLDOFF_END (R162) -/

theorem exec_holdoffEnd (hholdoff : (s.attn b).status = .holdoff) :
    exec (.holdoffEnd b) s = .next (s.endHoldoff b).endEvent := congrArg Host.Outcome.next (if_pos hholdoff)

/-- What makes the end of a holdoff more than a rest: a trigger kept, or a low line under LEVEL whatever LEVEL SPENT is. -/
theorem pending_or_levelLow {a : Attn} (h : a.pending = true ∨ (a.mode = .level ∧ a.line = false)) :
    (a.pending || a.levelLow) = true := by
  rcases h with hpending | ⟨hmode, hline⟩
  · rw [hpending, Bool.true_or]
  · simp [Attn.levelLow, hmode, hline]

section
variable (henabled : (s.attn b).enabled = true)
  (h : (s.attn b).pending = true ∨ ((s.attn b).mode = .level ∧ (s.attn b).line = false))
include henabled h

theorem endHoldoff_waits (hstate : s.opState = .quiet ∨ s.opState = .waking) :
    s.endHoldoff b = s.modAttn b fun a => { a.atRest with pending := true } := by
  unfold State.endHoldoff
  dsimp only
  rw [henabled, polls_of_sleeps hstate, sleeps_of hstate, pending_or_levelLow h, if_neg (by decide), if_pos (by decide),
    modAttn_modAttn]
  rfl

theorem endHoldoff_attempts (hstate : s.opState = .active ∨ s.opState = .draining) :
    s.endHoldoff b = (s.modAttn b Attn.atRest).attemptPoll b := by
  unfold State.endHoldoff
  dsimp only
  rw [henabled, polls_of hstate, pending_or_levelLow h]
  rfl

end

/-- A holdoff's attempt that finds no route. -/
theorem attemptPoll_atRest_refused (h : s.PollRefused b) :
    (s.modAttn b Attn.atRest).attemptPoll b = State.setFlag ((s.modAttn b Attn.atRest).modAttn b fun a =>
      { a with levelSpent := decide (a.mode = .level) || a.levelSpent }) .attnNoRoute := by
  rw [attemptPoll_modAttn_refused h rfl, modAttn_modAttn]
  rfl

/-- A holdoff's attempt that finds the Split Table full. -/
theorem attemptPoll_atRest_waits (h : s.PollRouted b r) (hfull : s.freePlace = none) :
    (s.modAttn b Attn.atRest).attemptPoll b = s.modAttn b fun a => { a.atRest with pending := true } :=
  attemptPoll_modAttn_waits h rfl hfull

/-- The poll that the end of a holdoff creates. -/
theorem attemptPoll_atRest_creates (h : s.PollRouted b r) (hplace : s.freePlace = some i) :
    ∃ e, ((s.modAttn b Attn.atRest).attemptPoll b).entry i = some e ∧ e.owner = .attn b ∧ e.route = r ∧
      (((s.modAttn b Attn.atRest).attemptPoll b).attn b).status = .polling ∧
      (((s.modAttn b Attn.atRest).attemptPoll b).attn b).pending = false := by
  rw [attemptPoll_modAttn_creates h rfl hplace]
  obtain ⟨e, hentry, howner, hroute, _⟩ := pollCreated_entry (s.modAttn b Attn.atRest) b i r
  have hattn : ((s.modAttn b Attn.atRest).pollCreated b i r).attn b =
      { (s.modAttn b Attn.atRest).attn b with pending := false, status := .polling } := by
    simp [State.attn, pollCreated_attns]
  exact ⟨e, hentry, howner, hroute, by rw [hattn], by rw [hattn]⟩

/-! ## WAKE_TIME_END (R161, R177) -/

theorem exec_wakeTimeEnd (hwaking : s.opState = .waking) :
    exec .wakeTimeEnd s = .next (State.claims { s with opState := .active, wakeTimer := 0 }).endEvent :=
  congrArg Host.Outcome.next (if_pos hwaking)

theorem exec_wakeTimeEnd_no_claim (hwaking : s.opState = .waking)
    (hnone : ∀ c, (s.attn c).status ≠ .idle ∨ (s.attn c).pending = false) :
    exec .wakeTimeEnd s = .next (State.endEvent { s with opState := .active, wakeTimer := 0 }) := by
  have hclaims : State.claims { s with opState := .active, wakeTimer := 0 } = { s with opState := .active, wakeTimer := 0 } :=
    claims_none_waits fun c => (not_waiting_iff _).2 (hnone c)
  rw [exec_wakeTimeEnd hwaking, hclaims]

theorem exec_wakeTimeEnd_claims (hwaking : s.opState = .waking) :
    ∃ t, exec .wakeTimeEnd s = .next (State.endEvent t) ∧ t.opState = .active ∧ t.wakeTimer = 0 ∧
      { t.withPolls s with opState := s.opState, wakeTimer := s.wakeTimer } = s := by
  have honly := claims_only { s with opState := .active, wakeTimer := 0 }
  exact ⟨_, exec_wakeTimeEnd hwaking, (congrArg State.opState honly :), (congrArg State.wakeTimer honly :),
    lift (fun u : State => { u with opState := s.opState, wakeTimer := s.wakeTimer }) honly rfl rfl⟩

end

/-- Settles O52: a trigger by its fate and the attempt by its outcome; the end of a holdoff likewise; the claims of a wake's end. -/
theorem attentionSteps : Obligations.AttentionSteps := by
  refine ⟨fun s b => ⟨exec_attentionTrigger_disabled, fun henabled hoffline => ?_, fun henabled hstate hbusy => ?_,
      fun henabled hstate => ?_, fun henabled hquiet hwake => ?_, fun henabled hstate hidle hpending => ?_⟩, fun s b => rfl,
    fun s b hholdoff => ?_, fun s hwaking => ⟨exec_wakeTimeEnd_no_claim hwaking, exec_wakeTimeEnd_claims hwaking⟩⟩
  · -- a trigger lost in OFFLINE
    exact exec_attentionTrigger_awake henabled (by rw [hoffline]; decide) (trigger_offline hoffline)
  · exact exec_attentionTrigger_kept henabled (.inr ⟨hstate, hbusy⟩)
  · -- kept in WAKING and QUIET, without a wake
    rcases hstate with hwaking | ⟨hquiet, hwake⟩
    · exact exec_attentionTrigger_kept henabled (.inl hwaking)
    · exact (exec_attentionTrigger_quiet henabled hquiet rfl).trans (by rw [hwake]; rfl)
  · -- kept in QUIET, with a wake
    exact (exec_attentionTrigger_quiet henabled hquiet rfl).trans (by rw [hwake]; rfl)
  · -- a trigger that makes an attempt
    rw [exec_attentionTrigger_attempts henabled hstate hidle hpending]
    refine ⟨fun hrefused => ?_, fun r hlength hroute => ⟨fun hfull => ?_, fun i hplace => ?_⟩⟩
    · rw [attemptPoll_lineLow_refused hrefused hidle hpending]
    · rw [attemptPoll_lineLow_waits ⟨hlength, hroute⟩ hfull hidle]
    · rw [attemptPoll_lineLow_creates ⟨hlength, hroute⟩ hplace]
  · -- the end of a holdoff
    rw [exec_holdoffEnd hholdoff]
    refine ⟨fun hrests => ?_, fun henabled hstate htrigger => ?_, fun henabled hstate htrigger => ?_⟩
    · rw [endHoldoff_rests (hrests.imp_right (Or.imp_right (And.imp_right (levelLow_eq_false _))))]
      rfl
    · rw [endHoldoff_waits henabled htrigger hstate]
      rfl
    · rw [endHoldoff_attempts henabled htrigger hstate]
      refine ⟨fun hrefused => ?_, fun r hlength hroute => ⟨fun hfull => ?_, fun i hplace => ?_⟩⟩
      · rw [attemptPoll_atRest_refused hrefused]
        rfl
      · rw [attemptPoll_atRest_waits ⟨hlength, hroute⟩ hfull]
        rfl
      · obtain ⟨e, hcreated⟩ := attemptPoll_atRest_creates ⟨hlength, hroute⟩ hplace
        exact ⟨_, e, rfl, hcreated⟩

end Sys2Proof.Machine
end

section
/-! SUPPORT. The words of the management space as sums of their fields, and the map of its addresses. -/

namespace Sys2Proof.Machine

/-! ## Words made of fields -/

/-- A word reads n, and its bits below `lo` and from `hi` on are 0. -/
structure Spans (x : Word) (lo hi n : Nat) : Prop where
  reads : x.toNat = n
  low : 2 ^ lo ∣ n
  high : n < 2 ^ hi

section
variable {x y : Word} {lo hi lo' hi' m n : Nat}

/-- Fields of different bits add up: y lies above x. -/
theorem Spans.or_above (hx : Spans x lo hi m) (hy : Spans y lo' hi' n) (hlo : lo ≤ lo' := by decide)
    (hgap : hi ≤ lo' := by decide) (hhi : hi ≤ hi' := by decide) :
    Spans (x ||| y) lo hi' (m + n) := by
  obtain ⟨c, rfl⟩ := hy.low
  have hm : m < 2 ^ lo' := Nat.lt_of_lt_of_le hx.high (Nat.pow_le_pow_right Nat.two_pos hgap)
  have hor : 2 ^ lo' * c + m = 2 ^ lo' * c ||| m := Nat.two_pow_add_eq_or_of_lt hm c
  have hlt : m ||| 2 ^ lo' * c < 2 ^ hi' :=
    Nat.or_lt_two_pow (Nat.lt_of_lt_of_le hx.high (Nat.pow_le_pow_right Nat.two_pos hhi)) hy.high
  have hsum : m + 2 ^ lo' * c = m ||| 2 ^ lo' * c := by rw [Nat.add_comm, hor, Nat.or_comm]
  refine ⟨?_, ?_, hsum ▸ hlt⟩
  · rw [BitVec.toNat_or, hx.reads, hy.reads, hsum]
  · exact Nat.dvd_add hx.low ((Nat.pow_dvd_pow 2 hlo).trans hy.low)

/-- Fields of different bits add up: y lies below x. -/
theorem Spans.or_below (hx : Spans x lo hi m) (hy : Spans y lo' hi' n) (hlo : lo' ≤ lo := by decide)
    (hgap : hi' ≤ lo := by decide) (hhi : hi' ≤ hi := by decide) :
    Spans (x ||| y) lo' hi (m + n) := by
  rw [BitVec.or_comm, Nat.add_comm]
  exact hy.or_above hx hlo hgap hhi

end

/-- A value of `len` bits that stands from a bit on. -/
theorem spans_fieldAt (bit len : Nat) {v : Nat} (hv : v < 2 ^ len) (hbit : bit + len ≤ 32 := by decide) :
    Spans (fieldAt bit v) bit (bit + len) (2 ^ bit * v) := by
  have hlt : 2 ^ bit * v < 2 ^ (bit + len) := by
    rw [Nat.pow_add]
    exact Nat.mul_lt_mul_of_pos_left hv (Nat.two_pow_pos bit)
  refine ⟨?_, Nat.dvd_mul_right _ _, hlt⟩
  unfold fieldAt
  rw [BitVec.toNat_ofNat, Nat.mul_comm]
  exact Nat.mod_eq_of_lt (Nat.lt_of_lt_of_le hlt (Nat.pow_le_pow_right Nat.two_pos hbit))

/-- A value of `len` bits that stands from bit 0 on. -/
theorem spans_fieldAt_zero (len : Nat) {v : Nat} (hv : v < 2 ^ len) (hlen : len ≤ 32 := by decide) : Spans (fieldAt 0 v) 0 len v := by
  have h := spans_fieldAt 0 len hv (by omega)
  rwa [Nat.zero_add, Nat.pow_zero, Nat.one_mul] at h

theorem spans_bitAt (bit : Nat) (p : Bool) (hbit : bit < 32 := by decide) : Spans (bitAt bit p) bit (bit + 1) (2 ^ bit * p.toNat) := by
  cases p with
  | true => exact spans_fieldAt bit 1 (by decide) hbit
  | false => exact ⟨rfl, Nat.dvd_mul_right _ _, Nat.two_pow_pos _⟩

/-- A mark that is always 1. -/
theorem spans_bitAt_true (bit : Nat) (hbit : bit < 32 := by decide) : Spans (bitAt bit true) bit (bit + 1) (2 ^ bit) := by
  have h := spans_bitAt bit true hbit
  rwa [Bool.toNat_true, Nat.mul_one] at h

theorem spans_bitAt_zero (p : Bool) : Spans (bitAt 0 p) 0 1 p.toNat := by
  have h := spans_bitAt 0 p
  rwa [Nat.pow_zero, Nat.one_mul] at h

/-- A shorter number in the low bits of a word. -/
theorem spans_setWidth {k : Nat} (x : BitVec k) (hk : k ≤ 32 := by decide) : Spans (x.setWidth 32) 0 k x.toNat :=
  ⟨BitVec.toNat_setWidth_of_le hk, Nat.one_dvd _, x.isLt⟩

theorem toNat_ofNat_lt {v : Nat} (h : v < 2 ^ 32) : (BitVec.ofNat 32 v).toNat = v := by
  rw [BitVec.toNat_ofNat]
  exact Nat.mod_eq_of_lt h

/-! ## The words with several fields (R168) -/

theorem code_lt_engineState (x : EngineState) : x.code < 2 ^ 4 := by cases x <;> decide

theorem code_lt_bus (x : Bus) : x.code < 2 ^ 2 := by cases x <;> decide

theorem code_lt_lastCause (x : LastCause) : x.code < 2 ^ 2 := by cases x <;> decide

theorem code_lt_rate (x : Rate) : x.code < 2 ^ 2 := by cases x <;> decide

theorem code_lt_attnMode (x : AttnMode) : x.code < 2 := by cases x <;> decide

theorem code_lt_attnStatus (x : AttnStatus) : x.code < 2 ^ 2 := by cases x <;> decide

theorem code_lt_groupState (x : GroupState) : x.code < 2 ^ 2 := by cases x <;> decide

theorem code_lt_groupPolicy (x : GroupPolicy) : x.code < 2 := by cases x <;> decide

theorem code_lt_latchAction (x : LatchAction) : x.code < 2 ^ 3 := by cases x <;> decide

theorem code_lt_entryState (x : EntryState) : x.code < 2 ^ 2 := by cases x <;> decide

theorem code_lt_opState (x : OpState) : x.code < 2 ^ 3 := by cases x <;> decide

section
variable (x : Straps) (r : FaultRecord) (br : Branch) (a : Attn) (g : Group) (e : SplitEntry) (o : SplitOwner) (s : State)

theorem strapsWord_toNat : (Straps.word x).toNat = x.id.toNat + 2 ^ 4 * x.ovc.toNat + 2 ^ 5 * x.qstart.toNat :=
  ((spans_setWidth x.id).or_above (spans_bitAt 4 x.ovc)).or_above (spans_bitAt 5 x.qstart) |>.reads

theorem faultWord_toNat : (faultWord (some r) 0).toNat =
    2 ^ 31 + 2 ^ 30 * r.more.toNat + 2 ^ 24 * r.branch.val + 2 ^ 8 * r.status.code.toNat + r.busAddress.toNat :=
  ((((spans_bitAt_true 31).or_below (spans_bitAt 30 r.more)).or_below (spans_fieldAt 24 2 r.branch.isLt)).or_below
    (spans_fieldAt 8 8 r.status.code.isLt)).or_below (spans_setWidth r.busAddress) |>.reads

theorem latchWord_toNat : s.latchWord.toNat = (s.line 0).driven.toNat + 2 * (s.line 1).driven.toNat +
    2 ^ 2 * (s.line 2).driven.toNat + 2 ^ 3 * (s.line 3).driven.toNat :=
  (((spans_bitAt_zero (s.line 0).driven).or_above (spans_bitAt 1 (s.line 1).driven)).or_above
    (spans_bitAt 2 (s.line 2).driven)).or_above (spans_bitAt 3 (s.line 3).driven) |>.reads

theorem branchControlWord_toNat : br.controlWord.toNat = br.enabled.toNat + 2 ^ 4 * br.rate.code :=
  (spans_bitAt_zero br.enabled).or_above (spans_fieldAt 4 2 (code_lt_rate _)) |>.reads

theorem branchStatusWord_toNat (hretry : br.retryCount < 2 ^ 5) (hanswers : br.answers.length < 2 ^ 9) :
    br.statusWord.toNat = br.state.code + 2 ^ 4 * br.bus.code + 2 ^ 8 * br.retryCount + 2 ^ 13 * br.lastCause.code +
      2 ^ 15 * br.cutShort.toNat + 2 ^ 16 * br.answers.length :=
  (((((spans_fieldAt_zero 4 (code_lt_engineState _)).or_above (spans_fieldAt 4 2 (code_lt_bus _))).or_above
    (spans_fieldAt 8 5 hretry)).or_above (spans_fieldAt 13 2 (code_lt_lastCause _))).or_above
    (spans_bitAt 15 br.cutShort)).or_above (spans_fieldAt 16 9 hanswers) |>.reads

theorem attnControlWord_toNat : a.controlWord.toNat = a.enabled.toNat + 2 * a.mode.code + 2 ^ 3 * a.wake.toNat :=
  ((spans_bitAt_zero a.enabled).or_above (spans_fieldAt 1 1 (code_lt_attnMode _))).or_above (spans_bitAt 3 a.wake) |>.reads

theorem attnPlaceWord_toNat (b : Fin 4) :
    (s.readWord (.attnPlace b)).toNat = 2 ^ 16 * (s.attn b).ldn.toNat + (s.attn b).offset.toNat :=
  (spans_fieldAt 16 8 (s.attn b).ldn.isLt).or_below (spans_setWidth (s.attn b).offset) |>.reads

theorem attnSizeWord_toNat (b : Fin 4) (hlength : (s.attn b).length < 2 ^ 6) :
    (s.readWord (.attnSize b)).toNat = 2 ^ 8 * (s.attn b).length + (s.attn b).holdoff.toNat :=
  (spans_fieldAt 8 6 hlength).or_below (spans_setWidth (s.attn b).holdoff) |>.reads

theorem attnStatusWord_toNat : a.statusWord.toNat =
    a.status.code + 2 ^ 2 * a.pending.toNat + 2 ^ 3 * a.levelSpent.toNat + 2 ^ 4 * a.line.toNat :=
  (((spans_fieldAt_zero 2 (code_lt_attnStatus _)).or_above (spans_bitAt 2 a.pending)).or_above
    (spans_bitAt 3 a.levelSpent)).or_above (spans_bitAt 4 a.line) |>.reads

theorem groupActionWord_toNat : g.actionWord.toNat = g.lines.toNat + 2 ^ 8 * g.action.code + 2 ^ 16 * g.policy.code :=
  ((spans_setWidth g.lines).or_above (spans_fieldAt 8 3 (code_lt_latchAction _))).or_above
    (spans_fieldAt 16 1 (code_lt_groupPolicy _)) |>.reads

theorem groupStatusWord_toNat (hmembers : g.members < 2 ^ 6) (hdone : g.done < 2 ^ 6) (hfailed : g.failed < 2 ^ 6) :
    g.statusWord.toNat =
      2 ^ 24 * g.generation.toNat + 2 ^ 18 * g.members + 2 ^ 12 * g.done + 2 ^ 6 * g.failed + g.state.code :=
  ((((spans_fieldAt 24 8 g.generation.isLt).or_below (spans_fieldAt 18 6 hmembers)).or_below
    (spans_fieldAt 12 6 hdone)).or_below (spans_fieldAt 6 6 hfailed)).or_below
    (spans_fieldAt_zero 2 (code_lt_groupState _)) |>.reads

/-- OWNER as it stands in a split summary. -/
def SplitOwner.number : SplitOwner → Nat
  | .trunk rt => 2 ^ 27 * rt.requester.toNat + 2 ^ 22 * rt.tag.toNat
  | .attn b => 2 ^ 30 + 2 ^ 22 * b.val

theorem ownerWord_spans : Spans o.word 22 31 o.number := by
  cases o with
  | trunk rt =>
    have h := (spans_fieldAt 27 3 rt.requester.isLt).or_below (spans_fieldAt 22 5 rt.tag.isLt)
    exact ⟨h.reads, h.low, Nat.lt_trans h.high (by decide)⟩
  | attn b => exact (spans_bitAt_true 30).or_below (spans_fieldAt 22 2 b.isLt)

theorem statusCodeOf_lt (st : Option Status) : statusCodeOf st < 2 ^ 8 := by
  cases st with
  | none => decide
  | some x => exact x.code.isLt

theorem summaryWord_toNat (hpieces : e.pieces.length < 2 ^ 4) : (summaryWord (some e)).toNat =
    2 ^ 31 + e.owner.number + 2 ^ 20 * e.state.code + 2 ^ 19 * e.finalStatus.isSome.toNat + 2 ^ 18 * e.extended.toNat +
      2 ^ 14 * e.pieces.length + statusCodeOf e.finalStatus :=
  ((((((spans_bitAt_true 31).or_below (ownerWord_spans e.owner)).or_below
    (spans_fieldAt 20 2 (code_lt_entryState _))).or_below (spans_bitAt 19 e.finalStatus.isSome)).or_below
    (spans_bitAt 18 e.extended)).or_below (spans_fieldAt 14 4 hpieces)).or_below
    (spans_fieldAt_zero 8 (statusCodeOf_lt _)) |>.reads

theorem placeWord_toNat (hstart : e.start < 2 ^ 16) (hlength : e.length < 2 ^ 10) :
    (placeWord (some e)).toNat = 2 ^ 16 * e.start + e.length :=
  (spans_fieldAt 16 16 hstart).or_below (spans_fieldAt_zero 10 hlength) |>.reads

theorem countersWord_toNat (hissued : e.issued < 2 ^ 10) (hreceived : e.received < 2 ^ 10) (hsent : e.sent < 2 ^ 10) :
    (countersWord (some e)).toNat = 2 ^ 20 * e.issued + 2 ^ 10 * e.received + e.sent :=
  ((spans_fieldAt 20 10 hissued).or_below (spans_fieldAt 10 10 hreceived)).or_below (spans_fieldAt_zero 10 hsent) |>.reads

end

/-! ## The map (section 10.2) -/

theorem registerAt_above {a : Nat} (h : 0x0E0 ≤ a) : registerAt a = none := by
  unfold registerAt
  rw [if_neg (by omega), if_neg (by omega), if_neg (by omega), if_neg (by omega), if_neg (by omega), if_neg (by omega),
    if_neg (by omega), if_neg (by omega), if_neg (by omega), if_neg (by omega), if_neg (by omega), if_neg (by omega)]

/-- A gap of the map, from its first address and its length. -/
theorem registerAt_gap {lo n a : Nat} (hgap : ∀ k < n, registerAt (lo + k) = none) (hlo : lo ≤ a) (hhi : a < lo + n) :
    registerAt a = none := by
  have h := hgap (a - lo) (by omega)
  rwa [Nat.add_sub_cancel' hlo] at h

theorem registerAt_unmapped {a : Nat}
    (h : a ∈ ([0x003, 0x006, 0x007, 0x02C, 0x02D, 0x02E, 0x02F, 0x033, 0x070, 0x071, 0x072, 0x073] : List Nat) ∨
      (0x00A ≤ a ∧ a ≤ 0x00F) ∨ (0x01C ≤ a ∧ a ≤ 0x01F) ∨ (0x037 ≤ a ∧ a ≤ 0x03F) ∨ (0x090 ≤ a ∧ a ≤ 0x09F) ∨
      (0x0B1 ≤ a ∧ a ≤ 0x0BF) ∨ 0x0E0 ≤ a) : registerAt a = none := by
  rcases h with h | ⟨hlo, hhi⟩ | ⟨hlo, hhi⟩ | ⟨hlo, hhi⟩ | ⟨hlo, hhi⟩ | ⟨hlo, hhi⟩ | h
  · revert a
    decide
  · exact registerAt_gap (lo := 0x00A) (n := 6) (by decide) hlo (Nat.lt_succ_of_le hhi)
  · exact registerAt_gap (lo := 0x01C) (n := 4) (by decide) hlo (Nat.lt_succ_of_le hhi)
  · exact registerAt_gap (lo := 0x037) (n := 9) (by decide) hlo (Nat.lt_succ_of_le hhi)
  · exact registerAt_gap (lo := 0x090) (n := 16) (by decide) hlo (Nat.lt_succ_of_le hhi)
  · exact registerAt_gap (lo := 0x0B1) (n := 15) (by decide) hlo (Nat.lt_succ_of_le hhi)
  · exact registerAt_above h

theorem registerAt_branchBlock (b : Fin 4) : (List.range 8).map (fun k => registerAt (0x040 + 8 * b.val + k)) =
    [some (.branchControl b), some (.branchGap b), some (.branchPause b), some (.branchStretch b), some (.branchBusy b),
      some (.branchStatus b), some (.branchDepth b), none] := by
  revert b
  decide

theorem registerAt_attnBlock (b : Fin 4) : (List.range 4).map (fun k => registerAt (0x060 + 4 * b.val + k)) =
    [some (.attnControl b), some (.attnPlace b), some (.attnSize b), some (.attnStatus b)] := by
  revert b
  decide

theorem registerAt_groupBlock (g : Fin 7) : (List.range 4).map (fun k => registerAt (0x074 + 4 * g.val + k)) =
    [some (.groupCommand g), some (.groupAction g), some (.groupWidth g), some (.groupStatus g)] := by
  revert g
  decide

theorem registerAt_splitPlace (i : Fin 16) : registerAt (0x0A0 + i.val) = some (.splitSummary i) ∧
    registerAt (0x0C0 + 2 * i.val) = some (.splitPlace i) ∧ registerAt (0x0C1 + 2 * i.val) = some (.splitCounters i) := by
  revert i
  decide

theorem latchActionOfCode_eq_some_iff (n : Nat) (a : LatchAction) : LatchAction.ofCode n = some a ↔ a.code = n := by
  constructor
  · intro h
    unfold LatchAction.ofCode at h
    split at h <;> cases h <;> rfl
  · rintro rfl
    exact latchActionOfCode_code a

theorem entriesInUse_lt (s : State) : s.entriesInUse < 2 ^ 32 := by
  have h : s.entriesInUse ≤ s.split.toList.length := List.length_filter_le _ _
  rw [Vector.length_toList] at h
  omega

theorem capabilityWord_toNat (k : Fin 12) : (capabilityWord k).toNat =
    ([0x0001, 0x014, 0x00100200, 0x00080008, 0x0002, 0x018, 0x00040010, 0x00040004, 0x0003, 0x000, 0x00200007,
      0x00400010] : List Nat).getD k.val 0 := by
  revert k
  decide

/-- Settles O21: the map by evaluation, block by block, and each word as the sum of its fields. -/
theorem managementWordsLayout : Obligations.ManagementWordsLayout := by
  refine ⟨by decide, by decide, fun b => ⟨registerAt_branchBlock b, registerAt_attnBlock b⟩, registerAt_groupBlock,
    registerAt_splitPlace, fun a => registerAt_unmapped, ?_, fun s => ?_⟩
  · -- the numbers of the codes
    exact ⟨rfl, rfl, rfl, rfl, rfl, rfl, rfl, rfl, rfl, rfl, rfl, latchActionOfCode_eq_some_iff, rfl, rfl⟩
  intro reads
  refine ⟨rfl, rfl, rfl, rfl, capabilityWord_toNat, (spans_setWidth s.bridgeNumber).reads, strapsWord_toNat s.straps,
    (spans_fieldAt_zero 3 (code_lt_opState _)).reads, latchWord_toNat s, toNat_ofNat_lt, toNat_ofNat_lt, toNat_ofNat_lt,
    fun n hn => hn ▸ toNat_ofNat_lt (entriesInUse_lt s), fun c => (spans_setWidth s.timeoutClasses[c.val]).reads,
    toNat_ofNat_lt (Nat.lt_trans s.tickShift.isLt (by decide)), rfl, (spans_setWidth s.lateWindow).reads, toNat_ofNat_lt,
    (spans_setWidth s.flags).reads, (spans_setWidth s.noticeMask).reads, (spans_bitAt_zero s.noticeArm).reads,
    fun hnone k => ?_, fun r hr hoffset => ?_, fun b => ?_, fun g => ?_, fun i hfree => ?_, fun i e he => ?_⟩
  · -- an empty fault record
    exact congrArg (fun r => (faultWord r k).toNat) hnone
  · -- an occupied fault record
    have hword (k : Fin 3) : (s.readWord (.fault k)).toNat = (faultWord (some r) k).toNat :=
      congrArg (fun r => (faultWord r k).toNat) hr
    exact ⟨(hword 0).trans (faultWord_toNat r), (hword 1).trans (spans_setWidth r.ldn).reads,
      (hword 2).trans (toNat_ofNat_lt hoffset)⟩
  · -- a branch and its attention entry
    intro br a
    exact ⟨branchControlWord_toNat br, (spans_setWidth br.gap).reads, (spans_setWidth br.retryPause).reads,
      (spans_setWidth br.stretchLimit).reads, (spans_setWidth br.busyLimit).reads, branchStatusWord_toNat br, toNat_ofNat_lt,
      attnControlWord_toNat a, attnPlaceWord_toNat s b, attnSizeWord_toNat s b, attnStatusWord_toNat a⟩
  · -- a group
    intro x
    exact ⟨rfl, groupActionWord_toNat x, (spans_setWidth x.pulseWidth).reads, groupStatusWord_toNat x⟩
  · -- a free place
    exact ⟨congrArg (fun e => (summaryWord e).toNat) hfree, congrArg (fun e => (placeWord e).toNat) hfree,
      congrArg (fun e => (countersWord e).toNat) hfree⟩
  · -- an entry
    have hsummary : (s.readWord (.splitSummary i)).toNat = (summaryWord (some e)).toNat :=
      congrArg (fun e => (summaryWord e).toNat) he
    have hplace : (s.readWord (.splitPlace i)).toNat = (placeWord (some e)).toNat :=
      congrArg (fun e => (placeWord e).toNat) he
    have hcounters : (s.readWord (.splitCounters i)).toNat = (countersWord (some e)).toNat :=
      congrArg (fun e => (countersWord e).toNat) he
    exact ⟨fun hpieces => hsummary.trans (summaryWord_toNat e hpieces),
      fun hstart hlength => hplace.trans (placeWord_toNat e hstart hlength),
      fun hissued hreceived hsent => hcounters.trans (countersWord_toNat e hissued hreceived hsent)⟩

end Sys2Proof.Machine
end

section
/-! SUPPORT. MGMT READ: the row that takes its frame, the words of its range, and what the read of a word changes. -/

namespace Sys2Proof.Machine

/-! ## The frame and its row (log 10) -/

section
variable {s : State} {rest : List Frame} {reqtag : Byte} {address : BitVec 16} {words : Byte} {rs : List Register}

theorem row_mgmtReadFrame (reqtag : Byte) (address : BitVec 16) (h1 : 1 ≤ words.toNat) (h8 : words.toNat ≤ 8) :
    rowOf (mgmtReadFrame reqtag address words) =
      if holdsStatusWord address.toNat words.toNat then .branchStatusRead else .mgmtRead := by
  have hp : parseMgmtRead (mgmtReadFrame reqtag address words).body = .ok (.mgmtRead address.toNat words.toNat) :=
    parse_mgmtReadFrame reqtag address words h1 h8
  have hk : (mgmtReadFrame reqtag address words).kind.toNat = 0x21 := rfl
  unfold rowOf
  rw [hk]
  simp only [hp]

/-- The frame is taken by its row, and the read is carried out (R166). -/
theorem exec_readFrame (h : s.Ready (mgmtReadFrame reqtag address words) rest) (h1 : 1 ≤ words.toNat) (h8 : words.toNat ≤ 8) :
    exec (if holdsStatusWord address.toNat words.toNat then .branchStatusRead else .mgmtRead) s =
      .next (State.mgmtRead { s with intake := rest } (ReqTag.ofByte reqtag) address.toNat words.toNat).endEvent :=
  exec_answered h (row_mgmtReadFrame reqtag address h1 h8)
    (decideFrame_passed { s with intake := rest } _ _ (parse_mgmtReadFrame reqtag address words h1 h8) (.inr rfl))

theorem holdsStatusWord_eq_false {a n : Nat} (h : ∀ b : Fin 4, ¬ (a ≤ 0x45 + 8 * b.val ∧ 0x45 + 8 * b.val < a + n)) :
    holdsStatusWord a n = false := by
  unfold holdsStatusWord
  exact List.any_eq_false.2 fun b _ => by simpa using h b

/-! ## The words of a range (R166) -/

theorem registersFrom_mem {r : Register} {a n : Nat} (h : registersFrom a n = some rs) (hr : r ∈ rs) :
    ∃ k < n, registerAt (a + k) = some r := by
  induction n generalizing a rs with
  | zero =>
    cases h
    cases hr
  | succ n ih =>
    unfold registersFrom at h
    cases hfirst : registerAt a with
    | none =>
      rw [hfirst] at h
      cases h
    | some first =>
      cases hothers : registersFrom (a + 1) n with
      | none =>
        rw [hfirst, hothers] at h
        cases h
      | some others =>
        rw [hfirst, hothers] at h
        cases h
        rcases List.mem_cons.1 hr with rfl | hmem
        · exact ⟨0, Nat.succ_pos n, hfirst⟩
        · obtain ⟨k, hk, hat⟩ := ih hothers hmem
          exact ⟨k + 1, Nat.succ_lt_succ hk, by rwa [Nat.add_assoc, Nat.add_comm 1] at hat⟩

theorem registersFrom_unmapped {a n k : Nat} (hk : k < n) (h : registerAt (a + k) = none) : registersFrom a n = none := by
  induction n generalizing a k with
  | zero => cases hk
  | succ n ih =>
    unfold registersFrom
    cases k with
    | zero =>
      rw [Nat.add_zero] at h
      rw [h]
      rfl
    | succ k =>
      have hothers : registersFrom (a + 1) n = none := ih (Nat.lt_of_succ_lt_succ hk) (by rwa [Nat.add_assoc, Nat.add_comm 1])
      rw [hothers]
      cases registerAt a <;> rfl

/-- The status words stand at 0x045 + 8b, and nowhere else (section 10.2). -/
theorem registerAt_eq_branchStatus {a : Nat} {b : Fin 4} (h : registerAt a = some (.branchStatus b)) :
    a = 0x45 + 8 * b.val := by
  have hbelow : a < 0x0E0 := Nat.lt_of_not_le fun habove => by
    rw [registerAt_above habove] at h
    cases h
  have hmap : ∀ high < 14, ∀ low < 16, ∀ b : Fin 4, registerAt (16 * high + low) = some (.branchStatus b) →
      16 * high + low = 0x45 + 8 * b.val := by decide
  have hread := hmap (a / 16) (by omega) (a % 16) (Nat.mod_lt a (by decide)) b
  rw [Nat.div_add_mod] at hread
  exact hread h

/-! ## What the read changes (R112, R166) -/

theorem readEffects_of_no_status (s : State) (h : ∀ b, .branchStatus b ∉ rs) : rs.foldl State.readEffect s = s := by
  induction rs with
  | nil => rfl
  | cons r rs ih =>
    have hr : s.readEffect r = s := by
      unfold State.readEffect
      split
      · exact absurd List.mem_cons_self (h _)
      · rfl
    rw [List.foldl_cons, hr]
    exact ih fun b hb => h b (List.mem_cons_of_mem _ hb)

theorem mgmtRead_mapped {a n : Nat} (s : State) (rt : ReqTag) (h : registersFrom a n = some rs) :
    s.mgmtRead rt a n = (rs.foldl State.readEffect s).pushRecord
      (mgmtCompletion rt .ok 0 (rs.map fun r => bytes32 (s.readWord r)).flatten) := by
  unfold State.mgmtRead
  rw [h]

theorem mgmtRead_unmapped {a n : Nat} (s : State) (rt : ReqTag) (h : registersFrom a n = none) :
    s.mgmtRead rt a n = s.pushRecord (mgmtCompletion rt .badAddress 0 []) := by
  unfold State.mgmtRead
  rw [h]

section
variable (h : s.Ready (mgmtReadFrame reqtag address words) rest) (h1 : 1 ≤ words.toNat) (h8 : words.toNat ≤ 8)
  (hplain : ∀ b : Fin 4, ¬ (address.toNat ≤ 0x45 + 8 * b.val ∧ 0x45 + 8 * b.val < address.toNat + words.toNat))
include h h1 h8 hplain

theorem exec_mgmtRead : exec .mgmtRead s =
    .next (State.mgmtRead { s with intake := rest } (ReqTag.ofByte reqtag) address.toNat words.toNat).endEvent := by
  have hexec := exec_readFrame h h1 h8
  rw [holdsStatusWord_eq_false hplain] at hexec
  exact hexec

theorem exec_mgmtRead_mapped (hrs : registersFrom address.toNat words.toNat = some rs) :
    exec .mgmtRead s = .next (s.answeredWith rest
      { rt := ReqTag.ofByte reqtag, status := .ok,
        body := .mgmt 0 (rs.map fun r => bytes32 (s.readWord r)).flatten false }).endEvent := by
  have hstatus (b : Fin 4) : .branchStatus b ∉ rs := fun hb => by
    obtain ⟨k, hk, hat⟩ := registersFrom_mem hrs hb
    have ha := registerAt_eq_branchStatus hat
    exact hplain b ⟨by omega, by omega⟩
  rw [exec_mgmtRead h h1 h8 hplain, mgmtRead_mapped _ _ hrs, readEffects_of_no_status _ hstatus]
  rfl

theorem exec_mgmtRead_single {r : Register} (hr : registersFrom address.toNat words.toNat = some [r]) :
    exec .mgmtRead s = .next (s.answeredWith rest
      { rt := ReqTag.ofByte reqtag, status := .ok, body := .mgmt 0 (bytes32 (s.readWord r)) false }).endEvent := by
  rw [exec_mgmtRead_mapped h h1 h8 hplain hr, List.map_singleton, List.flatten_singleton]

theorem exec_mgmtRead_unmapped (hnone : ∃ k < words.toNat, registerAt (address.toNat + k) = none) :
    exec .mgmtRead s = .next (s.answeredWith rest
      { rt := ReqTag.ofByte reqtag, status := .badAddress, body := .mgmt 0 [] false }).endEvent := by
  obtain ⟨k, hk, hat⟩ := hnone
  rw [exec_mgmtRead h h1 h8 hplain, mgmtRead_unmapped _ _ (registersFrom_unmapped hk hat)]
  rfl

end

/-! ## BRANCH_STATUS_READ (R112) -/

theorem statusWord_alone (b : Fin 4) : holdsStatusWord (BitVec.ofNat 16 (0x45 + 8 * b.val)).toNat (1 : Byte).toNat = true ∧
    registersFrom (BitVec.ofNat 16 (0x45 + 8 * b.val)).toNat (1 : Byte).toNat = some [.branchStatus b] := by
  revert b
  decide

theorem exec_branchStatusRead {b : Fin 4} (h : s.Ready (mgmtReadFrame reqtag (BitVec.ofNat 16 (0x45 + 8 * b.val)) 1) rest) :
    exec .branchStatusRead s = .next ((s.answeredWith rest
      { rt := ReqTag.ofByte reqtag, status := .ok, body := .mgmt 0 (bytes32 (s.branch b).statusWord) false }).modBranch b
        fun br => { br with cutShort := false }).endEvent := by
  obtain ⟨hrow, hrs⟩ := statusWord_alone b
  have hexec := exec_readFrame h (by decide) (by decide)
  rw [hrow, mgmtRead_mapped _ _ hrs] at hexec
  exact hexec

end

/-- IDENT, high byte first (section 10.2). -/
theorem bytes32_ident (s : State) : bytes32 (s.readWord .ident) = [0x57, 0xA6, 0x04, 0x40] :=
  show bytes32 0x57A60440 = [0x57, 0xA6, 0x04, 0x40] by decide

/-- Settles O20: the words of a range without a status word, a range that is not mapped, IDENT and STAMP, and a status word. -/
theorem mgmtReadAnswers : Obligations.MgmtReadAnswers := by
  refine ⟨fun s rest reqtag address words h h1 h8 hplain => ⟨fun rs hrs => exec_mgmtRead_mapped h h1 h8 hplain hrs,
    exec_mgmtRead_unmapped h h1 h8 hplain⟩, fun s rest reqtag h => ?_, fun s rest reqtag h => ?_,
    fun s rest reqtag b h => exec_branchStatusRead h⟩
  · rw [exec_mgmtRead_single h (by decide) (by decide) (by decide) (r := .ident) rfl, bytes32_ident]
  · exact exec_mgmtRead_single h (by decide) (by decide) (by decide) (r := .stamp) rfl

end Sys2Proof.Machine
end

section
/-! SUPPORT. The event flags by their bits, the notice that a flag raises, and the writes of NOTICE MASK and NOTICE ARM. -/

namespace Sys2Proof.Machine

/-! ## The flags and their bits (chapter 2, EVENT FLAGS) -/

/-- The event flags in the order of their bits. -/
def flagsByBit : List EventFlag :=
  [.intakeOverrun, .frameError, .splitSlow, .splitTimeout, .writeFailed, .branchStuck, .branchBlocked, .releaseSlip,
    .groupFailed, .attnNoRoute, .woke]

theorem flagsByBit_bit (f : EventFlag) : flagsByBit[f.bit]? = some f := by cases f <;> rfl

theorem EventFlag.bit_lt (f : EventFlag) : f.bit < 11 := by cases f <;> decide

theorem EventFlag.bit_injective {f g : EventFlag} (h : f.bit = g.bit) : f = g :=
  Option.some.inj ((flagsByBit_bit f).symm.trans (h ▸ flagsByBit_bit g))

theorem exists_flag_of_bit {i : Nat} (h : i < 11) : ∃ f : EventFlag, f.bit = i := by
  have hbits : ∀ i < 11, ∃ f ∈ flagsByBit, f.bit = i := by decide
  obtain ⟨f, _, hf⟩ := hbits i h
  exact ⟨f, hf⟩

theorem mask_getLsbD_other {f g : EventFlag} (h : g ≠ f) : f.mask.getLsbD g.bit = false := by
  have hbit : f.bit ≠ g.bit := fun he => h (EventFlag.bit_injective he).symm
  unfold EventFlag.mask
  rw [BitVec.getLsbD_ofNat, Nat.testBit_two_pow_of_ne hbit, Bool.and_false]

/-! ## Setting a flag (R171, R173) -/

section
variable {s : State} {f g : EventFlag}

theorem raiseNotice_armed (h : s.noticeArm = true) :
    s.raiseNotice = { s with noticePending := true, noticeArm := false } := if_pos h

theorem raiseNotice_unarmed (h : s.noticeArm = false) : s.raiseNotice = s := if_neg (Bool.eq_false_iff.1 h)

/-- A flag that was clear and that the mask covers is set and raises a notice. -/
theorem setFlag_raises (hclear : s.flag f = false) (hmask : s.noticeMask.getLsbD f.bit = true) :
    s.setFlag f = State.raiseNotice { s with flags := s.flags ||| f.mask } := by
  unfold State.setFlag
  rw [hclear]
  exact if_pos hmask

/-- A flag that was clear and that the mask does not cover is only set. -/
theorem setFlag_uncovered (hclear : s.flag f = false) (hmask : s.noticeMask.getLsbD f.bit = false) :
    s.setFlag f = { s with flags := s.flags ||| f.mask } := by
  unfold State.setFlag
  rw [hclear]
  exact if_neg (Bool.eq_false_iff.1 hmask)

theorem setFlag_flags (hclear : s.flag f = false) : (s.setFlag f).flags = s.flags ||| f.mask := by
  cases hmask : s.noticeMask.getLsbD f.bit with
  | true =>
    rw [setFlag_raises hclear hmask]
    exact (congrArg State.flags (raiseNotice_only _) :)
  | false => rw [setFlag_uncovered hclear hmask]

theorem setFlag_flag_other (h : g ≠ f) : (s.setFlag f).flag g = s.flag g := by
  cases hset : s.flag f with
  | true => rw [setFlag_of_set s f hset]
  | false =>
    unfold State.flag
    rw [setFlag_flags hset, BitVec.getLsbD_or, mask_getLsbD_other h, Bool.or_false]

theorem setFlag_notice (hclear : s.flag f = false) (hmask : s.noticeMask.getLsbD f.bit = true) (harm : s.noticeArm = true) :
    (s.setFlag f).noticePending = true ∧ (s.setFlag f).noticeArm = false := by
  rw [setFlag_raises hclear hmask, raiseNotice_armed (s := { s with flags := s.flags ||| f.mask }) harm]
  exact ⟨rfl, rfl⟩

theorem setFlag_no_notice (h : s.flag f = true ∨ s.noticeMask.getLsbD f.bit = false ∨ s.noticeArm = false) :
    (s.setFlag f).noticePending = s.noticePending ∧ (s.setFlag f).noticeArm = s.noticeArm := by
  cases hset : s.flag f with
  | true =>
    rw [setFlag_of_set s f hset]
    exact ⟨rfl, rfl⟩
  | false =>
    cases hmask : s.noticeMask.getLsbD f.bit with
    | false =>
      rw [setFlag_uncovered hset hmask]
      exact ⟨rfl, rfl⟩
    | true =>
      have harm : s.noticeArm = false := by simpa [hset, hmask] using h
      rw [setFlag_raises hset hmask, raiseNotice_unarmed (s := { s with flags := s.flags ||| f.mask }) harm]
      exact ⟨rfl, rfl⟩

end

/-! ## Flags under the mask (R173) -/

theorem maskedFlagSet_iff (s : State) :
    s.maskedFlagSet = true ↔ ∃ f : EventFlag, s.flag f = true ∧ s.noticeMask.getLsbD f.bit = true := by
  unfold State.maskedFlagSet State.flag
  rw [bne_iff_ne]
  constructor
  · intro hne
    by_contra hnone
    refine hne (BitVec.eq_of_getLsbD_eq fun i hi => ?_)
    obtain ⟨f, rfl⟩ := exists_flag_of_bit hi
    rw [BitVec.getLsbD_and]
    exact (Bool.eq_false_iff.2 fun hf => hnone ⟨f, (Bool.and_eq_true _ _).mp hf⟩).trans BitVec.getLsbD_zero.symm
  · rintro ⟨f, hset, hmask⟩ hzero
    have hbit := congrArg (fun x : BitVec 11 => x.getLsbD f.bit) hzero
    simp [hset, hmask] at hbit

theorem maskedFlagSet_eq_false {s : State} (h : ∀ f : EventFlag, s.flag f = false ∨ s.noticeMask.getLsbD f.bit = false) :
    s.maskedFlagSet = false := by
  rw [Bool.eq_false_iff, Ne, maskedFlagSet_iff]
  rintro ⟨f, hset, hmask⟩
  rcases h f with hf | hf
  · rw [hf] at hset
    cases hset
  · rw [hf] at hmask
    cases hmask

/-- What the writes of NOTICE MASK and NOTICE ARM do once the word is stored. -/
theorem raises_of_masked {s : State} (harm : s.noticeArm = true)
    (h : ∃ f : EventFlag, s.flag f = true ∧ s.noticeMask.getLsbD f.bit = true) :
    (if s.maskedFlagSet then s.raiseNotice else s) = { s with noticePending := true, noticeArm := false } :=
  (if_pos ((maskedFlagSet_iff s).2 h)).trans (raiseNotice_armed harm)

theorem raises_not {s : State}
    (h : s.noticeArm = false ∨ ∀ f : EventFlag, s.flag f = false ∨ s.noticeMask.getLsbD f.bit = false) :
    (if s.maskedFlagSet then s.raiseNotice else s) = s := by
  rcases h with harm | hnone
  · rw [raiseNotice_unarmed harm, ite_self]
  · exact if_neg (Bool.eq_false_iff.1 (maskedFlagSet_eq_false hnone))

theorem setWidth_getLsbD_flag (w : Word) (f : EventFlag) : (w.setWidth 11).getLsbD f.bit = w.getLsbD f.bit := by
  rw [BitVec.getLsbD_setWidth, decide_eq_true f.bit_lt, Bool.true_and]

/-! ## NOTICE MASK and NOTICE ARM (R172) -/

section
variable {s t : State} {rest : List Frame} {reqtag bridge : Byte} {w : Word}

theorem exec_noticeMaskWrite (h : s.Ready (mgmtWriteFrame reqtag bridge 0x031 w) rest)
    (ht : (s.writeTaken [] reqtag bridge .ok).writeNoticeMask w = t)
    (hstopped : t.intakeStopped = s.intakeStopped)
    (hqueue : t.responseQueue = (s.writeTaken [] reqtag bridge .ok).responseQueue) :
    exec .noticeMaskWrite s = .next (State.endEvent { t with intake := rest }) :=
  exec_fieldWrite h (r := .noticeMask) rfl rfl (congrArg WordOutcome.applied ht) hstopped hqueue

theorem exec_noticeArmWrite (h : s.Ready (mgmtWriteFrame reqtag bridge 0x032 w) rest)
    (ht : (s.writeTaken [] reqtag bridge .ok).writeNoticeArm w = t)
    (hstopped : t.intakeStopped = s.intakeStopped)
    (hqueue : t.responseQueue = (s.writeTaken [] reqtag bridge .ok).responseQueue) :
    exec .noticeArmWrite s = .next (State.endEvent { t with intake := rest }) :=
  exec_fieldWrite h (r := .noticeArm) rfl rfl (congrArg WordOutcome.applied ht) hstopped hqueue

end

/-- Settles O4: a flag that is set, by whether it was clear, covered and armed; and the two writes by what they find under the mask. -/
theorem flagsAndNotices : Obligations.FlagsAndNotices := by
  refine ⟨fun s f => ⟨setFlag_flag s f, fun g hg => setFlag_flag_other hg, setFlag_notice, setFlag_no_notice, setFlag_only s f⟩,
    fun s rest reqtag bridge w => ⟨fun h => ⟨fun harm hcovered => ?_, fun hnot => ?_⟩,
      fun h => ⟨fun harm hcovered => ?_, fun hnot => ?_⟩⟩⟩
  · obtain ⟨f, hset, hbit⟩ := hcovered
    have hmask : (w.setWidth 11).getLsbD f.bit = true := (setWidth_getLsbD_flag w f).trans hbit
    have ht := raises_of_masked (s := { s.writeTaken [] reqtag bridge .ok with noticeMask := w.setWidth 11 }) harm
      ⟨f, hset, hmask⟩
    have hexec := exec_noticeMaskWrite h ht rfl rfl
    exact hexec
  · have ht := raises_not (s := { s.writeTaken [] reqtag bridge .ok with noticeMask := w.setWidth 11 })
      (hnot.imp_right fun hnone f => (hnone f).imp_right (setWidth_getLsbD_flag w f).trans)
    have hexec := exec_noticeMaskWrite h ht rfl rfl
    exact hexec
  · have ht := raises_of_masked (s := { s.writeTaken [] reqtag bridge .ok with noticeArm := w.getLsbD 0 }) harm hcovered
    have hexec := exec_noticeArmWrite h ht rfl rfl
    exact hexec
  · have ht := raises_not (s := { s.writeTaken [] reqtag bridge .ok with noticeArm := w.getLsbD 0 }) hnot
    have hexec := exec_noticeArmWrite h ht rfl rfl
    exact hexec

end Sys2Proof.Machine
end

section
/-! SUPPORT. Writes of STATE and of RESET COMMAND: what each value does, the row that takes it, and the answer that a bridge reset
follows. -/

namespace Sys2Proof.Machine

/-! ## The values of STATE and of RESET COMMAND (R170, R175) -/

section
variable {s : State} {v : Nat}

theorem writeState_quiet_of_active (h : s.opState = .active) :
    s.writeState 1 = .applied { s with opState := .draining } := by simp only [State.writeState, h]

theorem writeState_quiet_of_draining (h : s.opState = .draining) : s.writeState 1 = .applied s := by
  simp only [State.writeState, h]

theorem writeState_quiet_of_offline (h : s.opState = .offline) : s.writeState 1 = .stops .badField := by
  simp only [State.writeState, h]

theorem writeState_active_of_active (h : s.opState = .active) : s.writeState 0 = .applied s := by
  simp only [State.writeState, h]

theorem writeState_active_of_draining (h : s.opState = .draining) :
    s.writeState 0 = .applied { s with opState := .active } := by simp only [State.writeState, h]

theorem writeState_active_of_offline (h : s.opState = .offline) :
    s.writeState 0 = .applied { s with intakeStopped := true } := by simp only [State.writeState, h]

theorem writeState_offline_of_offline (h : s.opState = .offline) : s.writeState 3 = .applied s := by
  simp only [State.writeState, h]

theorem writeState_ignored (s : State) (h : 5 ≤ v) : s.writeState v = .applied s := by
  unfold State.writeState
  split
  case h_6 => rfl
  all_goals omega

/-- A value of RESET COMMAND that names no reset is refused. -/
theorem writeResetCommand_refuses (s : State) (h : v ∉ ([0, 1, 0x10, 0x11, 0x12, 0x13] : List Nat)) :
    s.writeResetCommand v = .stops .badField := by
  unfold State.writeResetCommand
  split
  case h_7 => rfl
  all_goals exact absurd (by decide) h

end

/-! ## The rows -/

section
variable {w : Word}

/-- The values of STATE that have no row of their own. -/
theorem mgmtWriteRow_state (h : w.toNat ∉ ([0, 1, 3] : List Nat)) : mgmtWriteRow 0x008 w = .mgmtRegisterWrite := by
  unfold mgmtWriteRow
  dsimp only
  rw [if_pos rfl]
  split
  case h_4 => rfl
  all_goals
    rename_i hv
    rw [hv] at h
    exact absurd (by decide) h

/-- The values of RESET COMMAND that have no row of their own. -/
theorem mgmtWriteRow_resetCommand (h : w.toNat ∉ ([1, 0x10, 0x11, 0x12, 0x13] : List Nat)) :
    mgmtWriteRow 0x009 w = .mgmtRegisterWrite := by
  simp only [List.mem_cons, List.not_mem_nil, or_false, not_or] at h
  obtain ⟨hbridge, hbranches⟩ := h
  unfold mgmtWriteRow
  dsimp only
  rw [if_neg (by decide), if_pos rfl, if_neg hbridge, if_neg (by omega)]

theorem toNat_not_mem_map {l : List Word} (h : w ∉ l) : w.toNat ∉ l.map BitVec.toNat :=
  fun hmem => h ((List.mem_map_of_injective fun _ _ => BitVec.eq_of_toNat_eq).1 hmem)

end

/-! ## A word that changes nothing, and the answer that a bridge reset follows (R170, R178) -/

section
variable {s : State} {rest : List Frame} {reqtag bridge : Byte} {address : BitVec 16} {w : Word} {r : Register} {row : Instr}

theorem exec_writeFrame_ignored (h : s.Ready (mgmtWriteFrame reqtag bridge address w) rest)
    (hr : registerAt address.toNat = some r) (hrow : mgmtWriteRow address.toNat w = row)
    (hw : (s.writeTaken [] reqtag bridge .ok).writeWord r w = .applied (s.writeTaken [] reqtag bridge .ok)) :
    exec row s = .next (s.writeTaken rest reqtag bridge .ok).endEvent := by
  have hexec := exec_fieldWrite h hr hrow hw rfl rfl
  exact hexec

/-- A word that stops Intake: RESET FOLLOWS is 1 in the answer. -/
theorem exec_writeFrame_resetFollows (h : s.Ready (mgmtWriteFrame reqtag bridge address w) rest)
    (hr : registerAt address.toNat = some r)
    (hw : (s.writeTaken [] reqtag bridge .ok).writeWord r w =
      .applied { s.writeTaken [] reqtag bridge .ok with intakeStopped := true }) :
    exec (mgmtWriteRow address.toNat w) s = .next
      (State.endEvent { s.answeredWith rest { rt := ReqTag.ofByte reqtag, status := .ok, body := .mgmt 0 [] true } with
        bridgeNumber := bridge.extractLsb' 0 3
        intakeStopped := true }) := by
  have hww : (s.writeTaken [] reqtag bridge .ok).writeWords address.toNat 0 [w] =
      ⟨{ s.writeTaken [] reqtag bridge .ok with intakeStopped := true }, .ok, 0⟩ :=
    writeWords_applied hr hw []
  rw [exec_writeFrame_result h hww]
  simp [State.setAnswer, State.writeTaken, State.answeredWith]

end

/-- Settles O28: STATE by the value written and the state held, then the values that are refused or ignored. -/
theorem stateWrites : Obligations.StateWrites := by
  intro s rest reqtag bridge
  refine ⟨fun h => ⟨fun hactive => ?_, fun hdraining => ?_, fun hoffline => ?_⟩,
    fun h => ⟨fun hactive => ?_, fun hdraining => ?_, fun hoffline => ?_⟩, fun h hoffline => ?_,
    fun w h => ⟨fun hw => ?_, fun hw => ?_⟩, fun w h => ⟨fun hw => ?_, fun hw => ?_⟩⟩
  · -- QUIET in ACTIVE, DRAINING and OFFLINE
    have hexec := exec_fieldWrite h (r := .state) rfl rfl (writeState_quiet_of_active hactive) rfl rfl
    exact hexec
  · exact exec_writeFrame_ignored h (r := .state) rfl rfl (writeState_quiet_of_draining hdraining)
  · exact exec_fieldWrite_refused h (r := .state) rfl rfl (writeState_quiet_of_offline hoffline)
  · -- ACTIVE in ACTIVE, DRAINING and OFFLINE
    exact exec_writeFrame_ignored h (r := .state) rfl rfl (writeState_active_of_active hactive)
  · have hexec := exec_fieldWrite h (r := .state) rfl rfl (writeState_active_of_draining hdraining) rfl rfl
    exact hexec
  · exact exec_writeFrame_resetFollows h (r := .state) rfl (writeState_active_of_offline hoffline)
  · -- OFFLINE in OFFLINE
    exact exec_writeFrame_ignored h (r := .state) rfl rfl (writeState_offline_of_offline hoffline)
  · -- the values 2 and 4 of STATE, and those from 5 upward
    rcases hw with rfl | rfl
    · exact exec_fieldWrite_refused h (r := .state) rfl rfl rfl
    · exact exec_fieldWrite_refused h (r := .state) rfl rfl rfl
  · have hrow : w.toNat ∉ ([0, 1, 3] : List Nat) := by
      simp only [List.mem_cons, List.not_mem_nil, or_false]
      omega
    exact exec_writeFrame_ignored h (r := .state) rfl (mgmtWriteRow_state hrow) (writeState_ignored _ hw)
  · -- RESET COMMAND 0, and a value that names no reset
    subst hw
    exact exec_writeFrame_ignored h (r := .resetCommand) rfl rfl rfl
  · have hv := toNat_not_mem_map hw
    exact exec_fieldWrite_refused h (r := .resetCommand) rfl (mgmtWriteRow_resetCommand fun hmem => hv (.tail _ hmem))
      (writeResetCommand_refuses _ hv)

end Sys2Proof.Machine
end

section
/-! SUPPORT. The part at its reset values, and the resets that bring it there. -/

namespace Sys2Proof.Machine

/-! ## What the blocks show (R179, R180) -/

section
variable (straps : Straps) (opState : OpState) (holdIn : Bool) (inputs : Vector Bool 4) (pending : List Instr) (freeCount : Nat)

theorem resetTo_branch (b : Fin 4) : (State.resetTo straps opState holdIn inputs pending freeCount).branch b = Branch.reset :=
  Vector.getElem_replicate b.isLt

theorem resetTo_entry (i : Fin 16) : (State.resetTo straps opState holdIn inputs pending freeCount).entry i = none :=
  Vector.getElem_replicate i.isLt

theorem resetTo_group (g : Fin 7) : (State.resetTo straps opState holdIn inputs pending freeCount).group g = Group.reset :=
  Vector.getElem_replicate g.isLt

theorem resetTo_line (l : Fin 4) : (State.resetTo straps opState holdIn inputs pending freeCount).line l = Line.reset :=
  Vector.getElem_replicate l.isLt

theorem resetTo_attn (b : Fin 4) :
    (State.resetTo straps opState holdIn inputs pending freeCount).attn b = Attn.reset inputs[b.val] :=
  getElem_mapAll _ _ _ b.isLt

/-- The completion buffer holds nothing, and no engine has reserved a place. -/
theorem resetTo_bufferFits : (State.resetTo straps opState holdIn inputs pending freeCount).BufferFits := by
  unfold State.BufferFits
  rw [occupancy_eq]
  simp only [resetTo_entry, resetTo_branch]
  decide

/-- Every place is free, and no frame is in flight. -/
theorem resetTo_finalsFit : (State.resetTo straps opState holdIn inputs pending freeCount).FinalsFit where
  gathering i _ he _ := nomatch (resetTo_entry straps opState holdIn inputs pending freeCount i).symm.trans he
  once i _ he _ := nomatch (resetTo_entry straps opState holdIn inputs pending freeCount i).symm.trans he
  held _ _ := rfl

end

/-- Settles O60: each invariant holds at any reset values, and State.reset are some. -/
theorem invariantsAtReset : Obligations.InvariantsAtReset := by
  unfold Obligations.InvariantsAtReset State.reset
  exact ⟨resetTo_bounded _ _ _ _ _ _, resetTo_tagsUnique _ _ _ _ _ _, resetTo_bufferFits _ _ _ _ _ _,
    resetTo_enginesHold _ _ _ _ _ _, resetTo_finalsFit _ _ _ _ _ _, resetTo_settled _ (by decide) _ _ _ _⟩

/-! ## The resets -/

section
variable {s : State}

theorem inputs_getElem (s : State) (b : Fin 4) : s.inputs[b.val] = (s.attn b).line := getElem_mapAll _ _ _ b.isLt

/-- Nothing follows a bridge reset, so that SEND_END ends in the reset values (R124, R180). -/
theorem exec_sendEnd_resets {f : InFlight} (hsending : s.sending = some f) (hsource : f.source = .record true) :
    exec .sendEnd s = .next s.bridgeReset := by
  have hreset : s.endSend f = s.bridgeReset := by
    unfold State.endSend
    rw [hsource]
    rfl
  have hsettled : s.bridgeReset.Settled := resetTo_settled _ (by decide) _ _ _ _
  rw [exec_sendEnd hsending, hreset, endEvent_of_settled _ hsettled]

end

/-- Settles O3: the reset values block by block, RESET COMMAND 1, and the end of the send that carries RESET FOLLOWS. -/
theorem resetValues : Obligations.ResetValues := by
  unfold Obligations.ResetValues
  refine ⟨fun straps s => ?_, fun s rest reqtag bridge h => ?_, fun s f hsending hsource => ?_, fun straps s t h => ?_⟩
  · refine ⟨State.resetTo straps (startState straps) s.holdIn s.inputs s.pending s.freeCount, rfl, rfl, rfl, rfl, rfl, rfl,
      rfl, rfl, rfl, rfl, resetTo_entry _ _ _ _ _ _, rfl, rfl, fun b => ?branch, rfl, rfl, rfl, rfl, rfl, rfl, rfl, rfl,
      fun g => ?group, resetTo_line _ _ _ _ _ _, fun b => ?attn, rfl, rfl, rfl, rfl, rfl, rfl, rfl⟩
    case branch =>
      rw [resetTo_branch]
      decide
    case group =>
      rw [resetTo_group]
      decide
    case attn =>
      rw [resetTo_attn, inputs_getElem]
      exact ⟨rfl, rfl, rfl, rfl, rfl, rfl, rfl, rfl, rfl, rfl, rfl⟩
  · exact exec_writeFrame_resetFollows h (r := .resetCommand) rfl rfl
  · exact exec_sendEnd_resets hsending hsource
  · cases h
    rfl

end Sys2Proof.Machine
end

section
/-! SUPPORT. Entry into OFFLINE up to the word to the engines: the entries it abandons, the queues it empties, the groups and the
triggers it drops. -/

namespace Sys2Proof.Machine

/-- What one element of the list brings about where P holds, and every element keeps, holds at the end. -/
theorem foldl_brings {α : Type} {P Q : State → Prop} {f : State → α → State} (hP : ∀ u x, P u → P (f u x))
    (hQ : ∀ u x, Q u → Q (f u x)) {x : α} (hgain : ∀ u, P u → Q (f u x)) {xs : List α} (hx : x ∈ xs) {s : State}
    (h : P s) : Q (xs.foldl f s) := by
  induction xs generalizing s with
  | nil => cases hx
  | cons y rest ih =>
    rcases List.mem_cons.1 hx with rfl | hx
    · exact foldl_keeps hQ rest (hgain s h)
    · exact ih hx (hP s y h)

section
variable {s t : State} {b c : Fin 4} {i j : Fin 16} {e : SplitEntry}

/-! ## The entries abandoned (R67) -/

theorem abortEntry_entry (s : State) (i j : Fin 16) : (s.endEntry i .abandoned .aborted).entry j =
    if j = i then (s.entry j).map fun e => e.abandoned .aborted (s.bytesInFlight j) else s.entry j := by
  cases he : s.entry i with
  | none =>
    have hfree : s.endEntry i .abandoned .aborted = s := by
      unfold State.endEntry
      rw [he]
    rw [hfree]
    split
    · rename_i hj
      rw [hj, he]
      rfl
    · rfl
  | some e =>
    split
    · rename_i hj
      rw [hj, endEntry_mine he, he]
      rfl
    · rename_i hj
      exact endEntry_others he .aborted hj

theorem foldl_abortEntry_entry {places : List (Fin 16)} (hnodup : places.Nodup) (s : State) (j : Fin 16) :
    (places.foldl (fun t i => t.endEntry i .abandoned .aborted) s).entry j =
      if j ∈ places then (s.entry j).map fun e => e.abandoned .aborted (s.bytesInFlight j) else s.entry j := by
  induction places generalizing s with
  | nil => rfl
  | cons i rest ih =>
    obtain ⟨hfresh, hrest⟩ := List.nodup_cons.1 hnodup
    have hflight : (s.endEntry i .abandoned .aborted).bytesInFlight j = s.bytesInFlight j :=
      (congrArg (fun t : State => t.bytesInFlight j) (endEntry_only s i .abandoned .aborted) :)
    rw [List.foldl_cons, ih hrest, abortEntry_entry, hflight]
    by_cases hj : j = i
    · subst hj
      rw [if_neg hfresh, if_pos rfl, if_pos List.mem_cons_self]
    · rw [if_neg hj]
      simp only [List.mem_cons, hj, false_or]

/-- The state in OFFLINE in which the entries whose FINAL frame has not begun are abandoned with ABORTED. -/
def State.entriesAborted (s : State) : State :=
  let s0 := { s with opState := .offline }
  (sixteen.filter s0.abortable).foldl (fun t i => t.endEntry i .abandoned .aborted) s0

theorem entriesAborted_only (s : State) :
    { s.entriesAborted with opState := s.opState, split := s.split, branches := s.branches } = s :=
  foldl_keeps (f := fun t i => t.endEntry i .abandoned .aborted)
    (P := fun t => { t with opState := s.opState, split := s.split, branches := s.branches } = s)
    (fun t i h => lift (fun x : State => { x with opState := s.opState, split := s.split, branches := s.branches })
      (endEntry_only t i .abandoned .aborted) rfl h) _ rfl

theorem entriesAborted_offline (s : State) : s.entriesAborted.opState = .offline :=
  foldl_keeps (f := fun t i => t.endEntry i .abandoned .aborted) (P := fun t => t.opState = .offline)
    (fun t i h => (congrArg State.opState (endEntry_only t i .abandoned .aborted) :).trans h) _ rfl

theorem entriesAborted_ungranted (s : State) (c : Fin 4) : (s.entriesAborted.branch c).ungranted = (s.branch c).ungranted :=
  foldl_keeps (f := fun t i => t.endEntry i .abandoned .aborted) (P := fun t => (t.branch c).ungranted = (s.branch c).ungranted)
    (fun t i h => (endEntry_ungranted t i _ _ c).trans h) _ rfl

theorem entriesAborted_entry (s : State) (j : Fin 16) : s.entriesAborted.entry j =
    if s.abortable j = true then (s.entry j).map fun e => e.abandoned .aborted (s.bytesInFlight j) else s.entry j := by
  have h := foldl_abortEntry_entry (places := sixteen.filter (State.abortable { s with opState := .offline }))
    (List.Nodup.filter _ (by decide)) { s with opState := .offline } j
  simp only [List.mem_filter, mem_sixteen, true_and] at h
  exact h

theorem abortable_of_gathering (he : s.entry j = some e) (hg : e.state = .gathering) : s.abortable j = true := by
  unfold State.abortable
  rw [he]
  simp [hg]

theorem abortable_of_delivers (he : s.entry j = some e) (hd : e.delivers = true) (hf : s.finalBegun j e = false) :
    s.abortable j = true := by
  unfold State.abortable
  rw [he]
  simp [hd, hf]

theorem entriesAborted_noneGathers (s : State) (b : Fin 4) : s.entriesAborted.NoneGathers b := by
  intro j e he hg
  rw [entriesAborted_entry] at he
  split at he
  · obtain ⟨e0, _, rfl⟩ := Option.map_eq_some_iff.1 he
    cases hg
  · rename_i hj
    exact absurd (abortable_of_gathering he hg) hj

/-- The writes of a queue stay in it: only pieces leave (R74). -/
theorem entriesAborted_keepsWrite {o : Operation} (ho : o ∈ (s.branch b).queue) (hwrite : o.isRead = false) :
    o ∈ (s.entriesAborted.branch b).queue := by
  refine foldl_keeps (f := fun t i => t.endEntry i .abandoned .aborted) (P := fun t => o ∈ (t.branch b).queue)
    (fun t i h => ?_) _ ho
  unfold State.endEntry
  split
  · exact h
  · rename_i e _
    dsimp only
    unfold State.dropQueued
    by_cases hb : b = e.route.branch
    · subst hb
      rw [branch_modBranch_same]
      have hpiece : o.isPieceOf i = false :=
        Bool.eq_false_iff.2 fun hp => Bool.false_ne_true (hwrite.symm.trans (isRead_of_isPieceOf hp))
      exact List.mem_filter.2 ⟨h, by rw [hpiece]; rfl⟩
    · rwa [branch_modBranch_ne _ _ _ _ hb]

/-! ## The queues emptied (R84) -/

/-- What is removed is answered ABORTED when it carries a pair. -/
theorem removeByOffline_eq (s : State) (b : Fin 4) (o : Operation) : s.removeByOffline b o =
    match o.tag? with
    | none => s
    | some rt => s.addAnswer b (completion rt .aborted o.offset) := by
  unfold State.removeByOffline Operation.tag?
  cases o.body <;> rfl

theorem removeByOffline_only (s : State) (b : Fin 4) (o : Operation) :
    { s.removeByOffline b o with responseQueue := s.responseQueue, branches := s.branches } = s := by
  rw [removeByOffline_eq]
  split
  · rfl
  · exact addAnswer_only s b _

theorem removeByOffline_answered (s : State) (b : Fin 4) (o : Operation) (c : Fin 4) :
    (s.branch c).Answered ((s.removeByOffline b o).branch c) := by
  rw [removeByOffline_eq]
  split
  · exact .refl _
  · by_cases hc : c = b
    · subst hc
      exact addAnswer_answered s c _
    · rw [addAnswer_branch_ne _ _ hc]
      exact .refl _

theorem removeByOffline_records (s : State) (b : Fin 4) (o : Operation) :
    s.responseQueue <+: (s.removeByOffline b o).responseQueue := by
  rw [removeByOffline_eq]
  split
  · exact List.prefix_refl _
  · exact addAnswer_records s b _

theorem removeByOffline_keepsRecord {r : Record} (h : s.HasRecord b r) (c : Fin 4) (o : Operation) :
    (s.removeByOffline c o).HasRecord b r := by
  rw [removeByOffline_eq]
  split
  · exact h
  · exact addAnswer_keepsRecord h c _

theorem removeByOffline_hasRecord {o : Operation} {rt : ReqTag} (htag : o.tag? = some rt) (s : State) (b : Fin 4) :
    (s.removeByOffline b o).HasRecord b (completion rt .aborted o.offset) := by
  rw [removeByOffline_eq, htag]
  exact addAnswer_hasRecord s b _

/-- The queue of branch b emptied, before its writes are answered. -/
def State.queueDropped (s : State) (b : Fin 4) : State := s.modBranch b fun br => { br with queue := [] }

theorem queueDropped_ungranted (s : State) (b c : Fin 4) : ((s.queueDropped b).branch c).ungranted = (s.branch c).ungranted := by
  unfold State.queueDropped
  by_cases hc : c = b
  · subst hc
    rw [branch_modBranch_same]
    rfl
  · rw [branch_modBranch_ne _ _ _ _ hc]

theorem abortQueue_only (s : State) (b : Fin 4) :
    { s.abortQueue b with responseQueue := s.responseQueue, branches := s.branches } = s :=
  foldl_keeps (f := fun t o => t.removeByOffline b o)
    (P := fun t => { t with responseQueue := s.responseQueue, branches := s.branches } = s)
    (fun t o h => lift (fun x : State => { x with responseQueue := s.responseQueue, branches := s.branches })
      (removeByOffline_only t b o) rfl h) _ rfl

theorem abortQueue_answered (s : State) (b c : Fin 4) : ((s.queueDropped b).branch c).Answered ((s.abortQueue b).branch c) :=
  foldl_keeps (f := fun t o => t.removeByOffline b o) (P := fun t => ((s.queueDropped b).branch c).Answered (t.branch c))
    (fun t o h => h.trans (removeByOffline_answered t b o c)) _ (.refl _)

theorem Branch.Answered.queue {x y : Branch} (h : x.Answered y) : y.queue = x.queue := by
  obtain ⟨_, _, rfl, _⟩ := h
  rfl

theorem Branch.Answered.ungranted {x y : Branch} (h : x.Answered y) : x.ungranted.Answered y.ungranted := by
  obtain ⟨answers, phase, rfl, hphase⟩ := h
  exact ⟨answers, phase, rfl, hphase⟩

theorem abortQueue_queue (s : State) (b : Fin 4) : ((s.abortQueue b).branch b).queue = [] := by
  rw [(abortQueue_answered s b b).queue]
  unfold State.queueDropped
  rw [branch_modBranch_same]

theorem abortQueue_queue_ne (hc : c ≠ b) (s : State) : ((s.abortQueue b).branch c).queue = (s.branch c).queue := by
  rw [(abortQueue_answered s b c).queue]
  unfold State.queueDropped
  rw [branch_modBranch_ne _ _ _ _ hc]

theorem abortQueue_ungranted (s : State) (b c : Fin 4) :
    (s.branch c).ungranted.Answered ((s.abortQueue b).branch c).ungranted := by
  rw [← queueDropped_ungranted s b c]
  exact (abortQueue_answered s b c).ungranted

theorem abortQueue_records (s : State) (b : Fin 4) : s.responseQueue <+: (s.abortQueue b).responseQueue :=
  foldl_keeps (f := fun t o => t.removeByOffline b o) (P := fun t => s.responseQueue <+: t.responseQueue)
    (fun t o h => h.trans (removeByOffline_records t b o)) _ (List.prefix_refl _)

/-- A write with a pair waits in its queue, or has its ABORTED answer. -/
def State.AwaitsAbort (s : State) (b : Fin 4) (o : Operation) (rt : ReqTag) : Prop :=
  o ∈ (s.branch b).queue ∨ s.HasRecord b (completion rt .aborted o.offset)

theorem State.AwaitsAbort.abortQueue {o : Operation} {rt : ReqTag} (htag : o.tag? = some rt) (h : s.AwaitsAbort b o rt)
    (c : Fin 4) : (s.abortQueue c).AwaitsAbort b o rt := by
  have hkeep (u : State) (x : Operation) (hu : u.HasRecord b (completion rt .aborted o.offset)) :=
    removeByOffline_keepsRecord hu c x
  rcases h with ho | hrecord
  · by_cases hb : b = c
    · subst hb
      exact .inr (foldl_gains (P := fun t => t.HasRecord b (completion rt .aborted o.offset)) hkeep
        (fun u => removeByOffline_hasRecord htag u b) ho (s.queueDropped b))
    · exact .inl (by rwa [abortQueue_queue_ne hb])
  · have hdropped : (s.queueDropped c).HasRecord b (completion rt .aborted o.offset) :=
      hasRecord_of_same hrecord rfl (congrArg Branch.answers (queueDropped_ungranted s c b) :)
    exact .inr (foldl_keeps (P := fun t => t.HasRecord b (completion rt .aborted o.offset)) hkeep _ hdropped)

/-- The entries are abandoned, and every queue is empty. Irreducible, so that no comparison of fields runs through the queues. -/
@[irreducible] def State.queuesAborted (s : State) : State := four.foldl (fun t b => t.abortQueue b) s.entriesAborted

theorem queuesAborted_only (s : State) :
    { s.queuesAborted with responseQueue := s.responseQueue, branches := s.entriesAborted.branches } = s.entriesAborted := by
  have hrecords : s.entriesAborted.responseQueue = s.responseQueue := (congrArg State.responseQueue (entriesAborted_only s) :)
  rw [← hrecords]
  unfold State.queuesAborted
  exact foldl_keeps (f := fun t b => t.abortQueue b)
    (P := fun t => { t with
      responseQueue := s.entriesAborted.responseQueue, branches := s.entriesAborted.branches } = s.entriesAborted)
    (fun t b h => lift (fun x : State => { x with
      responseQueue := s.entriesAborted.responseQueue, branches := s.entriesAborted.branches }) (abortQueue_only t b) rfl h)
    four rfl

theorem queuesAborted_queue (s : State) (b : Fin 4) : (s.queuesAborted.branch b).queue = [] := by
  unfold State.queuesAborted
  refine foldl_gains (f := fun t b => t.abortQueue b) (P := fun t => (t.branch b).queue = []) (fun u c h => ?_)
    (fun u => abortQueue_queue u b) (mem_four b) s.entriesAborted
  by_cases hb : b = c
  · subst hb
    exact abortQueue_queue u b
  · exact (abortQueue_queue_ne hb u).trans h

theorem queuesAborted_ungranted (s : State) (c : Fin 4) :
    (s.branch c).ungranted.Answered (s.queuesAborted.branch c).ungranted := by
  rw [← entriesAborted_ungranted s c]
  unfold State.queuesAborted
  exact foldl_keeps (f := fun t b => t.abortQueue b)
    (P := fun t => (s.entriesAborted.branch c).ungranted.Answered (t.branch c).ungranted)
    (fun t b h => h.trans (abortQueue_ungranted t b c)) four (.refl _)

theorem queuesAborted_records (s : State) : s.responseQueue <+: s.queuesAborted.responseQueue := by
  have hrecords : s.entriesAborted.responseQueue = s.responseQueue := (congrArg State.responseQueue (entriesAborted_only s) :)
  rw [← hrecords]
  unfold State.queuesAborted
  exact foldl_keeps (f := fun t b => t.abortQueue b)
    (P := fun t => s.entriesAborted.responseQueue <+: t.responseQueue)
    (fun t b h => h.trans (abortQueue_records t b)) four (List.prefix_refl _)

/-- Every queued confirmed or timed write has its ABORTED answer. -/
theorem queuesAborted_hasRecord {o : Operation} {rt : ReqTag} (ho : o ∈ (s.branch b).queue) (htag : o.tag? = some rt) :
    s.queuesAborted.HasRecord b (completion rt .aborted o.offset) := by
  have hstays : s.entriesAborted.AwaitsAbort b o rt := .inl (entriesAborted_keepsWrite ho (isRead_of_tag htag))
  have hends : s.queuesAborted.AwaitsAbort b o rt := by
    unfold State.queuesAborted
    exact foldl_keeps (f := fun t c => t.abortQueue c) (P := fun t => t.AwaitsAbort b o rt)
      (fun t c h => h.abortQueue htag c) four hstays
  refine hends.resolve_left fun hqueued => ?_
  rw [queuesAborted_queue] at hqueued
  exact List.not_mem_nil hqueued

/-! ## The groups and the triggers dropped (R156, R164) -/

/-- The groups IDLE, and no trigger pending. -/
def State.triggersDropped (s : State) : State :=
  { s.idleGroups with attns := mapAll (fun (a : Attn) => { a with pending := false }) s.attns }

theorem triggersDropped_only (s : State) : { s.triggersDropped with groups := s.groups, attns := s.attns } = s := by
  unfold State.triggersDropped State.idleGroups
  rfl

theorem triggersDropped_group (s : State) (g : Fin 7) : s.triggersDropped.group g = { s.group g with state := .idle } := by
  simp only [State.triggersDropped, State.idleGroups, State.group, getElem_mapAll]

theorem triggersDropped_pending (s : State) (b : Fin 4) : (s.triggersDropped.attn b).pending = false :=
  (congrArg Attn.pending (getElem_mapAll (fun a : Attn => { a with pending := false }) s.attns b.val b.isLt) :)

/-- The part in OFFLINE before its engines are told to end their runs. -/
def State.workDropped (s : State) : State := s.queuesAborted.triggersDropped

theorem enterOffline_eq (s : State) :
    s.enterOffline = (four.foldl (fun t b => t.tellEnd b .aborted) s.workDropped).grantPass.roomFreed := by
  unfold State.workDropped State.queuesAborted
  rfl

theorem workDropped_queues (s : State) :
    { s.workDropped with groups := s.queuesAborted.groups, attns := s.queuesAborted.attns } = s.queuesAborted :=
  triggersDropped_only s.queuesAborted

theorem workDropped_only (s : State) : { s.workDropped with
    opState := s.opState, split := s.split, branches := s.branches, responseQueue := s.responseQueue, groups := s.groups
    attns := s.attns } = s := by
  have htriggers := workDropped_queues s
  have hqueues := queuesAborted_only s
  have hentries := entriesAborted_only s
  generalize s.workDropped = v at *
  generalize s.queuesAborted = w at *
  generalize s.entriesAborted = u at *
  refine lift (fun x : State => { x with
    opState := s.opState, split := s.split, branches := s.branches, responseQueue := s.responseQueue, groups := s.groups
    attns := s.attns }) htriggers rfl ?_
  refine lift (fun x : State => { x with
    opState := s.opState, split := s.split, branches := s.branches, groups := s.groups, attns := s.attns }) hqueues rfl ?_
  exact lift (fun x : State => { x with groups := s.groups, attns := s.attns }) hentries rfl rfl

theorem workDropped_branch (s : State) (b : Fin 4) : s.workDropped.branch b = s.queuesAborted.branch b :=
  (congrArg (fun t : State => t.branch b) (workDropped_queues s) :)

theorem workDropped_records (s : State) : s.workDropped.responseQueue = s.queuesAborted.responseQueue :=
  (congrArg State.responseQueue (workDropped_queues s) :)

theorem workDropped_offline (s : State) : s.workDropped.opState = .offline :=
  (congrArg State.opState (workDropped_queues s) :).trans
    ((congrArg State.opState (queuesAborted_only s) :).trans (entriesAborted_offline s))

theorem workDropped_entry (s : State) (i : Fin 16) : s.workDropped.entry i = s.entriesAborted.entry i :=
  (congrArg (fun t : State => t.entry i) (workDropped_queues s) :).trans
    (congrArg (fun t : State => t.entry i) (queuesAborted_only s) :)

theorem workDropped_group (s : State) (g : Fin 7) : s.workDropped.group g = { s.group g with state := .idle } := by
  have hgroup : s.queuesAborted.group g = s.group g :=
    (congrArg (fun t : State => t.group g) (queuesAborted_only s) :).trans
      (congrArg (fun t : State => t.group g) (entriesAborted_only s) :)
  rw [← hgroup]
  exact triggersDropped_group _ g

theorem workDropped_pending (s : State) (b : Fin 4) : (s.workDropped.attn b).pending = false := triggersDropped_pending _ b

end

end Sys2Proof.Machine
end

section
/-! SUPPORT. What the end of a run can do in OFFLINE with nothing queued: no head takes a slot, no poll begins, no group
counts. -/

namespace Sys2Proof.Machine

/-- State t, but with the fields of s that the end of a run reaches in OFFLINE with nothing queued. -/
def State.withAborts (t s : State) : State :=
  { t with
    split := s.split, branches := s.branches, responseQueue := s.responseQueue, attns := s.attns, ageOrder := s.ageOrder
    freeCount := s.freeCount }

theorem withAborts_trans {s t u : State} (h : u.withAborts t = t) (h' : t.withAborts s = s) : u.withAborts s = s :=
  (congrArg (fun x : State => x.withAborts s) h).trans h'

/-- State s comes by the ends of runs of r, a state in OFFLINE without queued work, gathering entries, groups at work and
triggers: none of these is there again, and the abandoned entries whose FINAL frame has not been sent stand. -/
structure OfflineAfter (r s : State) : Prop where
  only : s.withAborts r = r
  offline : s.opState = .offline
  groups : ∀ g, (s.group g).state = .idle
  pending : ∀ b, (s.attn b).pending = false
  queues : ∀ b, (s.branch b).queue = []
  gathers : ∀ b, s.NoneGathers b
  entries : ∀ i e, r.entry i = some e → e.state = .abandoned → e.finalSent = false → s.StandsClosed i e

section
variable {r s t : State} {b : Fin 4} {i : Fin 16} {e : SplitEntry} {o : Operation}

theorem OfflineAfter.keep (h : OfflineAfter r s) (honly : t.withAborts s = s) (hpending : ∀ b, (t.attn b).pending = false)
    (hqueues : ∀ b, (t.branch b).queue = []) (hgathers : ∀ b, t.NoneGathers b)
    (hentries : ∀ i e, e.state = .abandoned → e.finalSent = false → s.StandsClosed i e → t.StandsClosed i e) :
    OfflineAfter r t where
  only := withAborts_trans honly h.only
  offline := (congrArg State.opState honly :).trans h.offline
  groups g := (congrArg (fun x : State => (x.group g).state) honly :).trans (h.groups g)
  pending := hpending
  queues := hqueues
  gathers := hgathers
  entries i e he ha hf := hentries i e ha hf (h.entries i e he ha hf)

/-- A change of branches and records that leaves the queues. -/
theorem OfflineAfter.keepWork (h : OfflineAfter r s)
    (honly : { t with branches := s.branches, responseQueue := s.responseQueue, freeCount := s.freeCount } = s)
    (hqueues : ∀ b, (t.branch b).queue = (s.branch b).queue) : OfflineAfter r t := by
  have hentry (i : Fin 16) : t.entry i = s.entry i := (congrArg (fun x : State => x.entry i) honly :)
  refine h.keep (lift (fun x : State => x.withAborts s) honly rfl rfl) (fun b => ?_) (fun b => (hqueues b).trans (h.queues b))
    (fun b => (h.gathers b).of_entries hentry) fun i e _ _ hstands => hstands.of_entry (hentry i)
  exact (congrArg (fun x : State => (x.attn b).pending) honly :).trans (h.pending b)

theorem OfflineAfter.roomFreed (h : OfflineAfter r s) : OfflineAfter r s.roomFreed := by
  refine h.keepWork (lift (fun x : State => { x with responseQueue := s.responseQueue }) (roomFreed_only s) rfl rfl) fun b => ?_
  obtain ⟨phase, progress, hbranch⟩ := roomFreed_branch s b
  rw [hbranch]

theorem OfflineAfter.modBranch (h : OfflineAfter r s) (b : Fin 4) {f : Branch → Branch} (hf : ∀ br, (f br).queue = br.queue) :
    OfflineAfter r (s.modBranch b f) := by
  refine h.keepWork rfl fun c => ?_
  by_cases hc : c = b
  · subst hc
    rw [branch_modBranch_same, hf]
  · rw [branch_modBranch_ne _ _ _ _ hc]

theorem OfflineAfter.addAnswer (h : OfflineAfter r s) (b : Fin 4) (x : Record) : OfflineAfter r (s.addAnswer b x) :=
  h.keepWork (congrArg (fun u : State => { u with freeCount := s.freeCount }) (addAnswer_only s b x) :) fun c =>
    (congrArg Branch.queue (addAnswer_unanswered s b x c) :)

/-! ## Pieces (R48, R54, R56) -/

theorem OfflineAfter.grantPass (h : OfflineAfter r s) : OfflineAfter r s.grantPass := by
  have hgranted := grantPass_granted s
  refine h.keep (lift (fun x : State => x.withAborts s) (grantPass_only s) rfl rfl) (fun b => ?_)
    (fun b => (grantPass_queue_off (h.gathers b)).trans (h.queues b)) (fun b => (h.gathers b).of_ungranted hgranted.entries)
    fun i e ha _ ⟨pieces, he, hpieces⟩ => ⟨pieces, grantPass_still he (by show e.state ≠ _; rw [ha]; decide), hpieces⟩
  exact (congrArg (fun x : State => (x.attn b).pending) (grantPass_only s) :).trans (h.pending b)

/-- In OFFLINE a freed slot is the grant pass's: no head enters a queue, and Intake refuses writes (R41, R142). -/
theorem slotTakers_offline (h : s.opState = .offline) (b : Fin 4) : s.slotTakers b = [.grantPass] := by
  have hhead : s.headTakesSlot = none := by
    refine if_neg fun ⟨hrow, _⟩ => ?_
    cases hq : s.releaseQueue with
    | nil =>
      unfold State.headRow at hrow
      rw [hq] at hrow
      cases hrow
    | cons e rest =>
      rw [headRow_offline hq h] at hrow
      cases hrow
  have hintake : s.intakeTakesSlot b = none := by
    unfold State.intakeTakesSlot
    split
    · rfl
    · exact if_neg fun ⟨_, hstate⟩ => hstate h
  unfold State.slotTakers
  rw [hhead, hintake]
  rfl

theorem OfflineAfter.slotFreed (h : OfflineAfter r s) (b : Fin 4) : OfflineAfter r (s.slotFreed b) := by
  rw [slotFreed_of_grantPass s b (slotTakers_offline h.offline b)]
  exact h.grantPass

theorem State.StandsClosed.settleAbandoned (h : s.StandsClosed i e) (ha : e.state = .abandoned) {j : Fin 16} {x : SplitEntry}
    (hx : s.entry j = some x) (o : Operation) (n : Nat) (first : Bool) (status : Status) :
    (s.settlePiece j x o n first status).StandsClosed i e := by
  by_cases hj : i = j
  · subst hj
    obtain ⟨pieces, he, hpieces⟩ := h
    obtain rfl : x = { e with pieces := pieces } := Option.some.inj (hx.symm.trans he)
    rw [settlePiece_abandoned (e := { e with pieces := pieces }) ha]
    exact ⟨_, entry_setEntry_same _ _ _, fun p hp => hpieces p (mem_dropActive hp).1⟩
  · exact h.of_entry (settlePiece_entry_ne hj s x o n first status)

theorem OfflineAfter.settlePiece (h : OfflineAfter r s) (he : s.entry i = some e) (o : Operation) (n : Nat) (first : Bool)
    (status : Status) : OfflineAfter r (s.settlePiece i e o n first status) := by
  have honly := settlePiece_only s i e o n first status
  refine h.keep (lift (fun x : State => x.withAborts s) honly rfl rfl) (fun b => ?_) (fun b => ?_)
    (fun b => (h.gathers b).settlePiece he o n first status) fun j x ha _ hstands => hstands.settleAbandoned ha he o n first status
  · exact (congrArg (fun x : State => (x.attn b).pending) honly :).trans (h.pending b)
  · refine List.eq_nil_iff_forall_not_mem.2 fun x hx => ?_
    have hqueued := mem_settlePiece hx
    rw [h.queues b] at hqueued
    exact List.not_mem_nil hqueued

/-! ## Freed entries (R65, R161 to R163) -/

/-- In OFFLINE a freed poll leaves its attention entry in HOLDOFF or at rest. -/
theorem pollFreed_offline (h : s.opState = .offline) (hpending : ∀ c, (s.attn c).pending = false) (b : Fin 4) :
    ∃ f : Attn → Attn, s.pollFreed b = s.modAttn b f ∧ ∀ a, a.pending = false → (f a).pending = false := by
  by_cases hholdoff : (s.attn b).holdoff = 0
  · exact ⟨Attn.atRest, pollFreed_rests hholdoff (fun c _ => hpending c) (.inr (.inl h)), fun _ _ => rfl⟩
  · exact ⟨Attn.inHoldoff, pollFreed_holds hholdoff fun c _ => hpending c, fun _ ha => ha⟩

theorem OfflineAfter.modAttn (h : OfflineAfter r s) (b : Fin 4) {f : Attn → Attn}
    (hf : ∀ a, a.pending = false → (f a).pending = false) : OfflineAfter r (s.modAttn b f) := by
  refine h.keep rfl (fun c => ?_) h.queues h.gathers fun _ _ _ _ hstands => hstands
  by_cases hc : c = b
  · subst hc
    rw [attn_modAttn_same]
    exact hf _ (h.pending c)
  · rw [attn_modAttn_ne _ _ _ _ hc]
    exact h.pending c

/-- A place freed behind its FINAL frame. -/
theorem OfflineAfter.free (h : OfflineAfter r s) (he : s.entry i = some e) (hsent : e.finalSent = true) (ages : List (Fin 16)) :
    OfflineAfter r { s.setEntry i none with ageOrder := ages } := by
  refine h.keep rfl h.pending h.queues (fun b => (h.gathers b).setEntry fun _ hnone => absurd hnone.symm (Option.some_ne_none _))
    fun j x _ hunsent ⟨pieces, hx, hpieces⟩ => ?_
  have hj : j ≠ i := by
    rintro rfl
    obtain rfl : e = { x with pieces := pieces } := Option.some.inj (he.symm.trans hx)
    exact Bool.false_ne_true (hunsent.symm.trans hsent)
  exact ⟨pieces, (entry_setEntry_ne _ _ _ _ hj).trans hx, hpieces⟩

theorem OfflineAfter.freeIfDone (h : OfflineAfter r s) (i : Fin 16) : OfflineAfter r (s.freeIfDone i) := by
  unfold State.freeIfDone
  split
  · exact h
  · rename_i e he
    split
    · rename_i hdone
      have hfreed := h.free he (Bool.and_eq_true_iff.1 hdone).1 ((s.setEntry i none).ageOrder.filter fun j => !(j == i))
      unfold State.freeEntry
      rw [he]
      dsimp only
      split
      · rw [claims_of_no_pending hfreed.pending]
        exact hfreed
      · rename_i b _
        obtain ⟨f, hpoll, hf⟩ := pollFreed_offline hfreed.offline hfreed.pending b
        rw [hpoll]
        exact hfreed.modAttn b hf
    · exact h

/-! ## The outcome, and the word to end the run (R84, R103, R104, R110) -/

theorem OfflineAfter.pieceEnd (h : OfflineAfter r s) (i : Fin 16) (o : Operation) (n : Nat) (first : Bool) (status : Status) :
    OfflineAfter r (s.pieceEnd i o n first status) := by
  unfold State.pieceEnd
  split
  · exact h
  · rename_i e he
    exact ((h.settlePiece he o n first status).slotFreed _).freeIfDone i

/-- No group counts a report while every group is IDLE (R150). -/
theorem reportMember_idle (h : ∀ g, (s.group g).state = .idle) (member : Option (Fin 7 × Byte)) (ok : Bool) :
    s.reportMember member ok = s := by
  cases member with
  | none => rfl
  | some x =>
    obtain ⟨g, generation⟩ := x
    refine reportMember_ignored (fun hcounts => ?_) ok
    obtain ⟨hstate, _⟩ := counts_iff.1 hcounts
    exact hstate (h g)

theorem OfflineAfter.handOn {status : Status} (h : OfflineAfter r s) (hstatus : status = .ok ∨ status = .aborted) (b : Fin 4)
    (o : Operation) (n : Nat) : OfflineAfter r (s.handOn b o status n) := by
  unfold State.handOn
  split
  · exact h.pieceEnd _ o _ _ status
  · rw [if_pos hstatus]
    exact h
  · exact h.addAnswer b _
  · rename_i rt _ member _
    have hanswered := h.addAnswer b (completion rt status (answerOffset o status n))
    dsimp only
    split
    · exact hanswered
    · rw [reportMember_idle hanswered.groups]
      exact hanswered

theorem endStatus_aborted (o : Operation) (p : Progress) :
    endStatus o p .aborted = .ok ∨ endStatus o p .aborted = .aborted := by
  unfold endStatus
  split
  · exact .inl rfl
  · exact .inr rfl

theorem OfflineAfter.endRun {status : Status} (h : OfflineAfter r s) (hstatus : status = .ok ∨ status = .aborted)
    (ho : (s.branch b).op = some o) : OfflineAfter r (s.endRun b status false) := by
  rw [endRun_eq ho]
  have hdropped : OfflineAfter r (s.modBranch b Branch.dropOp) := h.modBranch b fun _ => rfl
  have hhanded : OfflineAfter r (s.handedOn b o status) := hdropped.handOn hstatus b o _
  exact (hhanded.modBranch b fun br => afterRun_queue br false).roomFreed

theorem OfflineAfter.tellEnd (h : OfflineAfter r s) (b : Fin 4) : OfflineAfter r (s.tellEnd b .aborted) := by
  cases ho : (s.branch b).op with
  | none =>
    unfold State.tellEnd
    dsimp only
    rw [ho]
    exact h
  | some o =>
    by_cases hoff : (s.branch b).OffBus
    · rw [tellEnd_offBus ho hoff]
      exact h.endRun (endStatus_aborted o _) ho
    · rw [tellEnd_onBus ho hoff]
      exact (h.modBranch b (f := Branch.toldToEnd .aborted) fun _ => rfl).roomFreed

end

/-! ## An engine that holds the bus (R103) -/

/-- The engine runs operation o on the bus, and no other cause than ABORTED has told it to end. -/
structure Branch.Aborting (br : Branch) (o : Operation) : Prop where
  op : br.op = some o
  cause : br.told.getD .aborted = .aborted
  onBus : ¬ br.OffBus

section
variable {s : State} {b c : Fin 4} {o : Operation}

theorem endStalls_onBus (fuel : Nat) {s : State} (h : ¬ (s.branch b).OffBus) : ¬ ((s.endStalls fuel).branch b).OffBus := by
  induction fuel generalizing s with
  | zero => exact h
  | succ n ih =>
    unfold State.endStalls
    split
    · split
      · exact h
      · rename_i c s' hp
        have hs : s'.branch b = s.branch b := (congrArg (fun t : State => t.branch b) (pick_only s _ _ _ hp) :)
        refine ih ?_
        unfold State.endStallOf
        by_cases hb : b = c
        · subst hb
          rw [branch_modBranch_same]
          show ¬ (Phase.readData = .gap ∨ Phase.readData = .busyOther ∨ Phase.readData = .pause)
          decide
        · rw [branch_modBranch_ne _ _ _ _ hb, hs]
          exact h
    · exact h

theorem roomFreed_aborting (h : (s.branch b).Aborting o) : (s.roomFreed.branch b).Aborting o := by
  obtain ⟨htold, hop⟩ := roomFreed_engine s b
  exact ⟨hop.trans h.op, by rw [htold]; exact h.cause, endStalls_onBus 4 h.onBus⟩

theorem Branch.Aborting.of_ungranted {x y : Branch} (h : x.Aborting o) (hsame : y.ungranted = x.ungranted) : y.Aborting o := by
  obtain ⟨hop, htold, hphase⟩ : y.op = x.op ∧ y.told = x.told ∧ y.phase = x.phase :=
    ⟨(congrArg Branch.op hsame :), (congrArg Branch.told hsame :), (congrArg Branch.phase hsame :)⟩
  refine ⟨hop.trans h.op, by rw [htold]; exact h.cause, ?_⟩
  have honBus := h.onBus
  unfold Branch.OffBus at honBus ⊢
  rwa [hphase]

theorem toldToEnd_onBus {br : Branch} (h : ¬ br.OffBus) (cause : EndCause) : ¬ (br.toldToEnd cause).OffBus := by
  unfold Branch.OffBus Branch.toldToEnd at *
  dsimp only
  split
  · decide
  · split
    · decide
    · exact h

theorem Branch.Aborting.toldToEnd {br : Branch} (h : br.Aborting o) : (br.toldToEnd .aborted).Aborting o where
  op := h.op
  cause := h.cause
  onBus := toldToEnd_onBus h.onBus .aborted

theorem tellEnd_tells (h : (s.branch b).Aborting o) :
    ((s.tellEnd b .aborted).branch b).Aborting o ∧ ((s.tellEnd b .aborted).branch b).told = some .aborted := by
  obtain ⟨hengine, _, _⟩ := tellEnd_onBus_engine h.op h.onBus .aborted
  rw [hengine]
  exact ⟨h.toldToEnd, congrArg some h.cause⟩

/-- The end of another engine's run, and the word to it, leave an engine on the bus as it is but for its stall. -/
theorem tellEnd_aborting_ne (hc : c ≠ b) (h : (s.branch c).Aborting o) : ((s.tellEnd b .aborted).branch c).Aborting o := by
  cases ho : (s.branch b).op with
  | none =>
    unfold State.tellEnd
    dsimp only
    rw [ho]
    exact h
  | some x =>
    by_cases hoff : (s.branch b).OffBus
    · rw [tellEnd_offBus ho hoff, endRun_eq ho]
      refine roomFreed_aborting ?_
      rw [branch_modBranch_ne _ _ _ _ hc]
      refine h.of_ungranted ((handOn_others _ x _ _ hc).trans ?_)
      rw [branch_modBranch_ne _ _ _ _ hc]
    · rw [tellEnd_onBus ho hoff]
      refine roomFreed_aborting ?_
      rwa [branch_modBranch_ne _ _ _ _ hc]

theorem tellEnd_aborting (h : (s.branch c).Aborting o) (b : Fin 4) : ((s.tellEnd b .aborted).branch c).Aborting o := by
  by_cases hc : c = b
  · subst hc
    exact (tellEnd_tells h).1
  · exact tellEnd_aborting_ne hc h

theorem tellEnd_keepsTold (h : (s.branch c).Aborting o ∧ (s.branch c).told = some .aborted) (b : Fin 4) :
    ((s.tellEnd b .aborted).branch c).Aborting o ∧ ((s.tellEnd b .aborted).branch c).told = some .aborted := by
  by_cases hc : c = b
  · subst hc
    exact tellEnd_tells h.1
  · exact ⟨tellEnd_aborting_ne hc h.1, (congrArg Branch.told (tellEnd_others hc .aborted s) :).trans h.2⟩

end

end Sys2Proof.Machine
end

section
/-! SUPPORT. The whole of the entry into OFFLINE, and the write of STATE that makes it. -/

namespace Sys2Proof.Machine

section
variable {s : State} {b : Fin 4} {i : Fin 16} {e : SplitEntry} {o : Operation}

theorem workDropped_after (s : State) : OfflineAfter s.workDropped s.workDropped where
  only := rfl
  offline := workDropped_offline s
  groups g := (congrArg Group.state (workDropped_group s g) :)
  pending := workDropped_pending s
  queues b := by
    rw [workDropped_branch]
    exact queuesAborted_queue s b
  gathers b := (entriesAborted_noneGathers s b).of_entries (workDropped_entry s)
  entries i e he _ _ := ⟨e.pieces, he, fun _ hp => hp⟩

theorem enterOffline_after (s : State) : OfflineAfter s.workDropped s.enterOffline := by
  rw [enterOffline_eq]
  exact (foldl_keeps (P := OfflineAfter s.workDropped) (fun _ b h => h.tellEnd b) four (workDropped_after s)).grantPass.roomFreed

theorem enterOffline_records (s : State) : s.responseQueue <+: s.enterOffline.responseQueue := by
  have hdropped : s.responseQueue <+: s.workDropped.responseQueue := by
    rw [workDropped_records]
    exact queuesAborted_records s
  rw [enterOffline_eq, grantRoom_records]
  exact foldl_keeps (f := fun t b => t.tellEnd b .aborted) (P := fun t => s.responseQueue <+: t.responseQueue)
    (fun t b h => h.trans (tellEnd_records t b .aborted)) four hdropped

/-- A queued write with a pair is answered ABORTED (R84). -/
theorem enterOffline_answers {rt : ReqTag} (ho : o ∈ (s.branch b).queue) (htag : o.tag? = some rt) :
    s.enterOffline.HasRecord b { rt := rt, status := .aborted, body := .completion o.offset } := by
  have k := hasRecord_keptByRun b (completion rt .aborted o.offset)
  have hdropped : s.workDropped.HasRecord b (completion rt .aborted o.offset) :=
    hasRecord_of_same (queuesAborted_hasRecord ho htag) (workDropped_records s)
      (congrArg Branch.answers (workDropped_branch s b))
  rw [enterOffline_eq]
  exact k.roomFreed (k.grant _ (foldl_keeps (P := fun t => t.HasRecord b (completion rt .aborted o.offset))
    (fun _ c h => k.tellEnd h c .aborted) four hdropped))

/-- An engine on the bus is told to end its run, and goes on until it can (R103, R110). -/
theorem enterOffline_told (ho : (s.branch b).op = some o) (htold : (s.branch b).told = none) (hphase : (s.branch b).phase ∈
      ([.start, .address, .subaddress, .writeData, .restart, .readData, .stall, .stop] : List Phase)) :
    (s.enterOffline.branch b).told = some .aborted ∧ (s.enterOffline.branch b).op = some o := by
  obtain ⟨hidle, honBus⟩ : (s.branch b).phase ≠ .idle ∧ ¬ (s.branch b).OffBus := by
    unfold Branch.OffBus
    generalize (s.branch b).phase = p at hphase
    revert p
    decide
  have hdropped : (s.workDropped.branch b).Aborting o := by
    obtain ⟨answers, phase, hsame, hstays⟩ := queuesAborted_ungranted s b
    obtain rfl : phase = (s.branch b).phase := hstays.resolve_right fun h => hidle h.1
    rw [workDropped_branch]
    have hstart : ({ s.branch b with answers := answers } : Branch).Aborting o := ⟨ho, by rw [htold]; rfl, honBus⟩
    exact hstart.of_ungranted hsame
  obtain ⟨hends, htells⟩ := foldl_brings (P := fun t => (t.branch b).Aborting o)
    (Q := fun t => (t.branch b).Aborting o ∧ (t.branch b).told = some .aborted) (fun _ c h => tellEnd_aborting h c)
    (fun _ c h => tellEnd_keepsTold h c) (fun _ h => tellEnd_tells h) (mem_four b) hdropped
  obtain ⟨htoldEnd, hopEnd⟩ := grantRoom_engine (four.foldl (fun t b => t.tellEnd b .aborted) s.workDropped) b
  rw [enterOffline_eq, htoldEnd, hopEnd]
  exact ⟨htells, hends.op⟩

/-- An entry whose FINAL frame has not begun is abandoned with ABORTED; of its pieces at most the ACTIVE ones stay (R67). -/
theorem enterOffline_abandons (he : s.entry i = some e) (hd : e.delivers = true) (hf : s.finalBegun i e = false) :
    s.enterOffline.StandsClosed i (e.abandoned .aborted (s.bytesInFlight i)) := by
  have hentry : s.workDropped.entry i = some (e.abandoned .aborted (s.bytesInFlight i)) := by
    rw [workDropped_entry, entriesAborted_entry, if_pos (abortable_of_delivers he hd hf), he]
    rfl
  exact (enterOffline_after s).entries i _ hentry rfl (finalBegun_eq_false_iff.1 hf).1

/-- Entry into OFFLINE leaves the routes, the flags, the fault record, the lines, the stamps and the Release Queue. -/
theorem enterOffline_only (s : State) : { s.enterOffline with
    opState := s.opState, responseQueue := s.responseQueue, split := s.split, branches := s.branches
    ageOrder := s.ageOrder, attns := s.attns, groups := s.groups, freeCount := s.freeCount } = s := by
  have hafter := (enterOffline_after s).only
  have hdropped := workDropped_only s
  generalize s.workDropped = v at *
  generalize s.enterOffline = t at *
  refine lift (fun x : State => { x with
    opState := s.opState, responseQueue := s.responseQueue, split := s.split, branches := s.branches
    ageOrder := s.ageOrder, attns := s.attns, groups := s.groups, freeCount := s.freeCount }) hafter rfl ?_
  exact lift (fun x : State => { x with ageOrder := s.ageOrder, freeCount := s.freeCount }) hdropped rfl rfl

theorem writeState_offline (h : s.opState = .active ∨ s.opState = .draining) : s.writeState 3 = .applied s.enterOffline := by
  rcases h with h | h <;> simp only [State.writeState, h]

end

/-- Settles O29: the word applied is the entry into OFFLINE, behind the answer of the write. -/
theorem offlineEntered : Obligations.OfflineEntered := by
  unfold Obligations.OfflineEntered
  intro s rest reqtag bridge h hstate
  set u := s.writeTaken [] reqtag bridge .ok
  have hword : u.writeWord .state 3 = .applied u.enterOffline := writeState_offline hstate
  have hafter := enterOffline_after u
  have honly := enterOffline_only u
  have hgroups (g : Fin 7) := workDropped_group u g
  have hanswers (b : Fin 4) (o : Operation) (rt : ReqTag) := enterOffline_answers (s := u) (b := b) (o := o) (rt := rt)
  have htold (b : Fin 4) (o : Operation) := enterOffline_told (s := u) (b := b) (o := o)
  have habandons (i : Fin 16) (e : SplitEntry) := enterOffline_abandons (s := u) (i := i) (e := e)
  obtain ⟨more, hmore⟩ := enterOffline_records u
  generalize u.enterOffline = t at *
  generalize u.workDropped = v at *
  have hrecords : t.responseQueue = s.responseQueue ++ mgmtCompletion (ReqTag.ofByte reqtag) .ok 0 [] :: more := by
    rw [← hmore]
    exact List.append_assoc _ _ _
  have hstopped : t.intakeStopped = false := (congrArg State.intakeStopped honly :).trans h.1.2.2
  have hgroup (g : Fin 7) : t.group g = { s.group g with state := .idle } :=
    (congrArg (fun x : State => x.group g) hafter.only :).trans (hgroups g)
  refine ⟨{ t with intake := rest }, more, exec_writeFrame_applied h (r := .state) rfl hword hstopped hrecords, hafter.offline,
    hrecords, hafter.queues, fun b o rt ho htag => List.mem_append.1 (hanswers b o rt ho htag), htold,
    fun i e he hd hf => ?_, hgroup, hafter.pending, ?_, rfl⟩
  · obtain ⟨pieces, he', hpieces⟩ := habandons i e he hd hf
    refine ⟨_, he', rfl, rfl, rfl, fun p hp => ?_⟩
    obtain ⟨hmem, hactive⟩ := List.mem_filter.1 (hpieces p hp)
    exact ⟨of_decide_eq_true hactive, hmem⟩
  · exact lift (fun x : State => { x with
      responseQueue := s.responseQueue, intake := s.intake, bridgeNumber := s.bridgeNumber }) honly rfl rfl

end Sys2Proof.Machine
end

section
/-! SUPPORT. What a step is on a waiting command and on an empty queue (log 3), and the two statements about it. -/

namespace Sys2Proof.Machine

section
variable {s t : State} {c : Instr}

/-! ## A step -/

theorem step_of_command {rest : List Instr} (h : s.pending = c :: rest) : step s = exec c { s with pending := rest } := by
  unfold step
  rw [h]

theorem step_of_no_command (h : s.pending = []) : step s = idle s := by
  unfold step
  rw [h]

/-! ## The part by itself -/

theorem idle_of_pick (h : s.pick s.due = some (c, t)) : idle s = exec c t := by
  unfold idle
  rw [h]

theorem idle_of_no_due (h : s.due = []) : idle s = .next s.tick := by
  unfold idle
  rw [h, pick_nil]

theorem idle_of_one_due (h : s.due = [c]) : idle s = exec c s := by
  refine idle_of_pick ?_
  rw [h]
  exact pick_singleton s c

/-- Among several due steps, the choice moves the count of choices alone before the chosen step is taken (log 5). -/
theorem idle_takes_due (h : s.due ≠ []) : ∃ c ∈ s.due, ∃ n, idle s = exec c { s with freeCount := n } := by
  obtain ⟨c, t, hpick⟩ := exists_pick h s
  refine ⟨c, pick_mem s _ _ _ hpick, t.freeCount, ?_⟩
  rw [← pick_eq hpick]
  exact idle_of_pick hpick

end

/-! ## The statements -/

/-- Settles O1: the queue's rest is the queue of the state before the command was put at its front. -/
theorem stepTakesFrontCommand : Obligations.StepTakesFrontCommand := fun _ _ => step_of_command rfl

/-- Settles O2: a step on an empty queue is what the part does by itself, by the number of the steps that are due. -/
theorem idleQueueRunsThePart : Obligations.IdleQueueRunsThePart := by
  intro s hempty
  rw [step_of_no_command hempty]
  exact ⟨idle_of_no_due, fun _ => idle_of_one_due, idle_takes_due⟩

end Sys2Proof.Machine
end
